-- ==== Sys2Proof/Word.lean ====
section
/-! DEFINITION. The word types of the Emdor X9 (R4, R46) and their plainest names. -/

namespace Sys2Proof

/-- A byte of memory. -/
abbrev Byte := BitVec 8
/-- A 32-bit word: a slot word, one lane of a vector register. -/
abbrev Word := BitVec 32
/-- A 64-bit scalar value. -/
abbrev DWord := BitVec 64
/-- The data of a vector register, of an accumulator row or of a latch row: lane l stands at bits 32l+31..32l (R46). -/
abbrev VData := BitVec 1024
/-- A scalar or vector register number. -/
abbrev Reg := Fin 32
/-- A mask register number, or a bin number. -/
abbrev MReg := Fin 8
/-- A handle register number. -/
abbrev HReg := Fin 16
/-- A lane group. -/
abbrev Group := Fin 8

/-- The elements of a list, each once, at its last place. -/
def distinct {α : Type} [DecidableEq α] : List α → List α
  | [] => []
  | a :: r => let d := distinct r; if a ∈ d then d else a :: d

end Sys2Proof
end

