-- ==== Sys2Proof/Config.lean ====
section
/-! DEFINITION. What the spec leaves open: free values, opaque, drawn with the counter State.fresh (log 6), and what is fixed
from outside (log 13). No statement may rest on a value of one. -/

namespace Sys2Proof.Config

/-- Frozen cycles of a freeze whose length the spec does not fix (R17, R42). Free. -/
opaque frozen : Nat → Nat
/-- The part of a fetch latency beyond L2 (R31 "not fixed"). Free. -/
opaque fetchBeyond : Nat → Nat
/-- The hash by which a request takes a port in switched topology, from the destination and the line, COLLID and CHUNK, or TOKEN (R451 "a fixed hash"). Free. -/
opaque portHash : Nat → Nat → Nat
/-- Which way of a full core-cache set is evicted (R244 names no policy). Free. -/
opaque victim : Nat → Nat
/-- A result that the RISC-V base or a unit leaves open. Free. -/
opaque freeWord : Nat → DWord
/-- Bytes of a Falcon-1024 signature and of keys and digests (R475-R477): byte i of draw n. Free. -/
opaque cryptoByte : Nat → Nat → Byte

end Sys2Proof.Config
end

