-- ==== Sys2Proof/Syntax.lean ====
section
/-! DEFINITION. The instructions and steps of the Emdor X9: one constructor of `Instr` for each row of the table of operations
and events. The slot rows carry the operand fields of their words (R82 to R91, R371); the rows of other steps carry what the
step is about. -/

namespace Sys2Proof

/-- The format tags (R43). -/
inductive Tag where
  | raw | int32 | int16 | int8 | uint8 | int4 | fp64 | fp32 | bf16 | fp16 | e4m3 | e5m2 | fp4b | res13 | res14 | poison
  deriving DecidableEq, Repr

/-- The rounding directions of VAR (R55). -/
inductive Rnd where
  | rne | rz | ru | rd
  deriving DecidableEq, Repr

/-- The scopes of the header (R73, R260). -/
inductive Scope where
  | core | cluster | die | package | fabric
  deriving DecidableEq, Repr

/-- The two half-cores (R188); in protected mode the one sequencer is A. -/
inductive Half where
  | a | b
  deriving DecidableEq, Repr

/-- The slots of a bundle (R27, R93). -/
inductive Slot where
  | s | v0 | v1 | m | c0 | c1 | header | pool
  deriving DecidableEq, Repr

/-- Register-register operations of RV64I, Zba and Zbb (R1). -/
inductive AluRR where
  | add | sub | sll | slt | sltu | xor | srl | sra | or | and | addw | subw | sllw | srlw | sraw
  | addUw | sh1add | sh2add | sh3add | sh1addUw | sh2addUw | sh3addUw
  | andn | orn | xnor | max | maxu | min | minu | rol | ror | rolw | rorw
  deriving DecidableEq, Repr

/-- Register-immediate operations of RV64I. -/
inductive AluRI where
  | addi | slti | sltiu | xori | ori | andi | addiw
  deriving DecidableEq, Repr

/-- Shifts by a six-bit immediate (RV64I, Zba, Zbb). -/
inductive AluSh where
  | slli | srli | srai | slliUw | rori
  deriving DecidableEq, Repr

/-- Word shifts by a five-bit immediate. -/
inductive AluShW where
  | slliw | srliw | sraiw | roriw
  deriving DecidableEq, Repr

/-- One-operand operations of Zbb. -/
inductive AluUn where
  | clz | ctz | cpop | clzw | ctzw | cpopw | sextB | sextH | zextH | orcB | rev8
  deriving DecidableEq, Repr

/-- The integer operations of the scalar slot (R1). -/
inductive AluInstr where
  | rr (op : AluRR) (d a b : Reg)
  | ri (op : AluRI) (d a : Reg) (i : BitVec 12)
  | sh (op : AluSh) (d a : Reg) (n : BitVec 6)
  | shw (op : AluShW) (d a : Reg) (n : BitVec 5)
  | un (op : AluUn) (d a : Reg)
  | lui (d : Reg) (i : BitVec 20)
  | auipc (d : Reg) (i : BitVec 20)
  deriving DecidableEq, Repr

/-- The multiplies of the M extension. -/
inductive MulOp where
  | mul | mulh | mulhsu | mulhu | mulw
  deriving DecidableEq, Repr

/-- The divisions of the M extension. -/
inductive DivOp where
  | div | divu | rem | remu | divw | divuw | remw | remuw
  deriving DecidableEq, Repr

/-- Rounding modes of the F and D extensions, the dynamic one among them; codes 5 and 6 are reserved. -/
inductive FRm where
  | rne | rtz | rdn | rup | rmm | res5 | res6 | dyn
  deriving DecidableEq, Repr

inductive FArith where
  | add | sub | mul | div
  deriving DecidableEq, Repr
inductive FFma where
  | madd | msub | nmsub | nmadd
  deriving DecidableEq, Repr
inductive FSgn where
  | j | jn | jx
  deriving DecidableEq, Repr
inductive FCmp where
  | eq | lt | le
  deriving DecidableEq, Repr
/-- Integer types of scalar conversions. -/
inductive FInt where
  | w | wu | l | lu
  deriving DecidableEq, Repr

/-- The F and D operations (R1, R13); `dbl` selects FP64. Loads and stores stand under the load and store rows. -/
inductive FpInstr where
  | arith (op : FArith) (dbl : Bool) (rm : FRm) (d a b : Reg)
  | sqrt (dbl : Bool) (rm : FRm) (d a : Reg)
  | fma (op : FFma) (dbl : Bool) (rm : FRm) (d a b c : Reg)
  | sgn (op : FSgn) (dbl : Bool) (d a b : Reg)
  | minmax (max : Bool) (dbl : Bool) (d a b : Reg)
  | cmp (op : FCmp) (dbl : Bool) (d a b : Reg)
  | fclass (dbl : Bool) (d a : Reg)
  | toInt (t : FInt) (dbl : Bool) (rm : FRm) (d a : Reg)
  | ofInt (t : FInt) (dbl : Bool) (rm : FRm) (d a : Reg)
  | cvt (toDbl : Bool) (rm : FRm) (d a : Reg)
  | mvToX (dbl : Bool) (d a : Reg)
  | mvOfX (dbl : Bool) (d a : Reg)
  deriving DecidableEq, Repr

inductive LoadOp where
  | lb | lh | lw | ld | lbu | lhu | lwu | flw | fld
  deriving DecidableEq, Repr
inductive StoreOp where
  | sb | sh | sw | sd | fsw | fsd
  deriving DecidableEq, Repr
inductive BranchCond where
  | beq | bne | blt | bge | bltu | bgeu
  deriving DecidableEq, Repr
inductive AmoOp where
  | swap | add | xor | and | or | min | max | minu | maxu
  deriving DecidableEq, Repr

/-- What an access asks of a leaf (R232). -/
inductive AccessKind where
  | read | write | fetch | atomic
  deriving DecidableEq, Repr

/-- The completion part of a ticketed command (R371) and its ACQ and REL bits. -/
structure Compl where
  xr : Reg
  xb : Reg
  xg : Reg
  acq : Bool
  rel : Bool
  deriving DecidableEq, Repr

/-- One side of a copy: a handle register or core SRAM (R372). -/
inductive Side where
  | handle (h : HReg)
  | sram
  deriving DecidableEq, Repr

/-- The operands of CPY and CPY2D (R371). -/
structure CopyArgs where
  src : Side
  dst : Side
  xs : Reg
  xd : Reg
  xn : Reg
  hint : Fin 4
  f : Compl
  deriving DecidableEq, Repr

/-- The operands of the commands that name two handles and a third register (R371). -/
structure EngArgs where
  hs : HReg
  hd : HReg
  xs : Reg
  xd : Reg
  xn : Reg
  f : Compl
  deriving DecidableEq, Repr

/-- An agent other than the modelled core: a core or half-core of some package (R261, R275). -/
structure Agent where
  pkg : BitVec 17
  core : BitVec 7
  half : Half
  deriving DecidableEq, Repr

/-- What executes at a home slice (R283). -/
inductive HomeOp where
  | lr (bytes : Nat)
  | sc (bytes : Nat) (v : DWord) (ok : Bool)
  | amo (op : AmoOp) (bytes : Nat) (v : DWord)
  | cas (bytes : Nat) (cmp new : DWord)
  | badd (inc limit : Word)
  | topk (k : Nat) (id : Word) (score : BitVec 16)
  | lane (t : Tag) (v : Word)
  | binit (n : Word)
  | barr (named : Option DWord)
  | bread (g : DWord)
  /-- A claim of a routing engine on an expert's counter (R298, R356), with what the home takes a page for (R362): the receive rows, the
  home die, the page list and the bytes of a row. -/
  | claim (cap : Word) (die : Fin 8) (plist rowBytes : Nat)
  /-- What an engine asks of an expert's home package (R365, R366), with the expert's descriptor: 0 EXBIND, 1 EXREL, 2 whether the
  expert's PARKED is 0. -/
  | expert (what : Fin 3) (desc : List Byte)
  deriving DecidableEq, Repr

/-- What comes with the tag of the request that it makes or answers (R451). -/
structure Tagged (α : Type) where
  tag : Nat
  val : α
  deriving DecidableEq, Repr

/-- A line fetched ahead (R29, R259): whether it lies on the alternative path, and whether its copies in the L1I and in the middle level
are uncorrectable. -/
structure FetchAhead where
  alt : Bool
  l1Bad : Bool
  midBad : Bool
  deriving DecidableEq, Repr

/-- What a promotion's answer names beside its line (R276): SEQ and scope. -/
structure Promoted where
  q : Word
  scope : Scope
  deriving DecidableEq, Repr

/-- A request for one 64 B line at its home slice (R252): `write` gives the bytes written, as address and value, and `bad` tells that
they carry an uncorrectable error (R254). -/
structure LineReq where
  pa : Nat
  hint : Fin 4
  write : List (Nat × Byte)
  bad : Bool
  who : Agent
  /-- The request's tag, where it comes from another package (R451). -/
  tag : Nat
  deriving DecidableEq, Repr

/-- A seal (R347). -/
structure Seal where
  res : BitVec 61
  nfin : Word
  nnf : Word
  deriving DecidableEq, Repr

/-- A collective chunk: header and payload (R348). -/
structure Chunk where
  collid : Word
  attempt : Byte
  stage : BitVec 16
  bytes : Nat
  isVoid : Bool
  sum : Bool
  tag : Tag
  chunk : Word
  dpkg : BitVec 17
  ddie : Fin 8
  spkg : BitVec 17
  sdie : Fin 8
  fault : DWord
  sl : Seal
  hcrc : Word
  payload : List Byte
  deriving DecidableEq, Repr

/-- A waybill (R358) with its row, and the place it is sent to. -/
structure RoutedRow where
  token : Word
  srow : Word
  expert : Word
  layer : BitVec 16
  gate : BitVec 16
  spkg : BitVec 17
  rank : Fin 8
  qnf : Bool
  qsat : Bool
  slot : Fin 1024
  nnf : BitVec 16
  res : BitVec 61
  row : List Byte
  tag : Tag
  /-- The receive buffer the row is written to (R354): row bytes, page list, row map, residency entry. -/
  rowBytes : Nat
  plist : Nat
  map : Nat
  entry : Fin 4096
  /-- Where the combine entry of its choice stands (R370). -/
  combine : Nat
  /-- The ROUTE command and item that sent it (0 and 0 where another package did). -/
  q : Fin 2
  num : Word
  item : Nat
  deriving DecidableEq, Repr

/-- An array or channel whose corrected errors are counted (R442). -/
inductive ErrArray where
  | core (array : Fin 16)
  | channel (ch : Fin 16)
  deriving DecidableEq, Repr

/-- What the patrol scrubber finds in the line it reads (R443). -/
inductive ScrubFind where
  | clean | corrected (raced : Bool) | uncorrectable
  deriving DecidableEq, Repr

/-- Why issue stops (R416). -/
inductive StopWhy where
  | park | preempt
  deriving DecidableEq, Repr

/-- A word of an array that is uncorrectable as a bundle reads it (R441). -/
inductive ArrayWord where
  | x (r : Reg) | f (r : Reg) | v (g : Group) (r : Reg) | m (g : Group) (r : MReg) | h (r : HReg)
  | acc (g : Group) (bank blk : Fin 4) | latch (g : Group) (l : Fin 4) (row : Fin 8) | shelf (g : Group) (idx : Fin 512)
  deriving DecidableEq, Repr

/-- A fault of the hardware that a bundle meets as it issues: differing commit signatures (R37, R38), or an uncorrectable word
that a slot reads (R441). -/
inductive IssueFault where
  | signature
  | word (sl : Slot) (w : ArrayWord)
  deriving DecidableEq, Repr

/-- A source of events (R473). -/
inductive EventSource where
  | core (hb : Half)
  | die (d : Fin 8)
  deriving DecidableEq, Repr

/-- The answer to a request (R284, R451): the value or the bytes read, "unsupported" (R286), an uncorrectable read half (R285), the
acknowledgement of a write or a chunk, the record of a routed row (R361), or that the promotion it waited for is lost (R456). -/
inductive HomeResp where
  | value (v : DWord)
  | data (bytes : List Byte) (bad : Bool)
  | unsupported
  | uncorrectable
  | ack
  | row (record : DWord)
  | failed
  deriving DecidableEq, Repr

/-- A write or invalidation from another die (R447). -/
inductive Incoming where
  | replica (die : Fin 8)
  | invalidate (die : Fin 8) (line : Nat)
  | guest (die : Fin 8) (line : Nat) (bytes : List (Nat × Byte))
  deriving DecidableEq, Repr

/-- The rows of the table of operations and events, one constructor a row, in the table's order; the steps that only other agents bring come last. -/
inductive Instr where
  | bundleIssue (w : Option IssueFault)
  | indexedBundleIssue (w : Option IssueFault)
  | resultLanding (fails : Option (Fin 2))
  | promotionServiceEnd
  | migrationComplete (asid : BitVec 12) (va : DWord) (leaf : DWord)
  | scalarAlu (op : AluInstr)
  | scalarMul (op : MulOp) (d : Reg) (a : Reg) (b : Reg)
  | scalarDiv (op : DivOp) (d : Reg) (a : Reg) (b : Reg)
  | scalarFp (op : FpInstr)
  | scalarLoad (w : LoadOp) (d : Reg) (a : Reg) (i : BitVec 12)
  | scalarStore (w : StoreOp) (a : Reg) (b : Reg) (i : BitVec 12)
  | branch (c : BranchCond) (a : Reg) (b : Reg) (i : BitVec 12)
  | jal (d : Reg) (i : BitVec 20)
  | jalr (d : Reg) (a : Reg) (i : BitVec 12)
  | lr (dbl : Bool) (aq : Bool) (rl : Bool) (d : Reg) (a : Reg)
  | sc (dbl : Bool) (aq : Bool) (rl : Bool) (d : Reg) (a : Reg) (b : Reg)
  | amo (op : AmoOp) (dbl : Bool) (aq : Bool) (rl : Bool) (d : Reg) (a : Reg) (b : Reg)
  | amocasW (aq : Bool) (rl : Bool) (d : Reg) (a : Reg) (b : Reg)
  | amocasD (aq : Bool) (rl : Bool) (d : Reg) (a : Reg) (b : Reg)
  | fence (fm : Fin 16) (p : Fin 16) (s : Fin 16)
  | fenceI
  | ecall
  | ebreak
  | csrrw (n : BitVec 12) (d : Reg) (a : Reg)
  | csrrs (n : BitVec 12) (d : Reg) (a : Reg)
  | csrrc (n : BitVec 12) (d : Reg) (a : Reg)
  | csrrwi (n : BitVec 12) (d : Reg) (u : BitVec 5)
  | csrrsi (n : BitVec 12) (d : Reg) (u : BitVec 5)
  | csrrci (n : BitVec 12) (d : Reg) (u : BitVec 5)
  | wait (i : BitVec 12) (a : Reg)
  | loop (i : BitVec 12) (a : Reg)
  | jtab (c : Reg) (b : Reg) (a : Reg)
  | yield (d : Reg)
  | taskend
  | shwr (b : Reg) (a : Reg) (d : Reg)
  | shrd (a : Reg) (d : Reg)
  | shclr (d : Reg)
  | shsw (b : Reg) (a : Reg) (d : Reg)
  | shtag (b : Reg) (a : Reg) (d : Reg)
  | shelfSwap
  | spawn (a : Reg) (d : Reg)
  | spawng (a : Reg) (d : Reg)
  | xlate (b : Reg) (a : Reg) (h : Fin 16)
  | xprobe (w : Fin 4) (h : Fin 16) (d : Reg)
  | hrel (h : Fin 16)
  | hinv (b : Reg) (a : Reg) (d : Reg)
  | splnt (b : Reg) (a : Reg) (d : Reg)
  | amoBadd (b : Reg) (a : Reg) (d : Reg)
  | amoTopk (b : Reg) (a : Reg) (d : Reg)
  | fenceS (s : Fin 4) (p : Fin 4)
  | acqp (a : Reg) (d : Reg)
  | binit (b : Reg) (a : Reg) (d : Reg)
  | barr (b : Reg) (a : Reg) (d : Reg)
  | bwait (b : Reg) (a : Reg) (d : Reg)
  | barw (a : Reg) (d : Reg)
  | pin (b : Reg) (a : Reg) (d : Reg)
  | unpin (a : Reg) (d : Reg)
  | prefl2 (b : Reg) (a : Reg) (d : Reg)
  | bmode (b : Reg) (a : Reg) (d : Reg)
  | binset (b : Reg) (a : Reg) (d : Reg)
  | binq (a : Reg) (d : Reg)
  | strmAdd (a : Reg) (d : Reg)
  | strmDel (a : Reg) (d : Reg)
  | trap (a : Reg)
  | tret
  | halt
  | banksw (a : Reg) (d : Reg)
  | ctxsave (b : Reg) (a : Reg)
  | ctxload (b : Reg) (a : Reg)
  | ctxEngineDone
  | evpost (b : Reg) (a : Reg)
  | rdtime (a : Reg) (d : Reg)
  | vadd (d : Reg) (a : Reg) (b : Reg) (m : MReg)
  | vaddLit (d : Reg) (a : Reg) (b : Reg) (m : MReg)
  | vsub (d : Reg) (a : Reg) (b : Reg) (m : MReg)
  | vsubLit (d : Reg) (a : Reg) (b : Reg) (m : MReg)
  | vmul (d : Reg) (a : Reg) (b : Reg) (m : MReg)
  | vmulLit (d : Reg) (a : Reg) (b : Reg) (m : MReg)
  | vmulh (d : Reg) (a : Reg) (b : Reg) (m : MReg)
  | vmulhu (d : Reg) (a : Reg) (b : Reg) (m : MReg)
  | vmadd (d : Reg) (a : Reg) (b : Reg) (c : Reg) (m : MReg)
  | vmaddLit (d : Reg) (a : Reg) (b : Reg) (c : Reg) (m : MReg)
  | vaddsat (d : Reg) (a : Reg) (b : Reg) (m : MReg)
  | vsubsat (d : Reg) (a : Reg) (b : Reg) (m : MReg)
  | vaddsatu (d : Reg) (a : Reg) (b : Reg) (m : MReg)
  | vsubsatu (d : Reg) (a : Reg) (b : Reg) (m : MReg)
  | vabs (d : Reg) (a : Reg) (m : MReg)
  | vneg (d : Reg) (a : Reg) (m : MReg)
  | vmin (d : Reg) (a : Reg) (b : Reg) (m : MReg)
  | vminLit (d : Reg) (a : Reg) (b : Reg) (m : MReg)
  | vmax (d : Reg) (a : Reg) (b : Reg) (m : MReg)
  | vmaxLit (d : Reg) (a : Reg) (b : Reg) (m : MReg)
  | vminu (d : Reg) (a : Reg) (b : Reg) (m : MReg)
  | vmaxu (d : Reg) (a : Reg) (b : Reg) (m : MReg)
  | vand (d : Reg) (a : Reg) (b : Reg) (m : MReg)
  | vandLit (d : Reg) (a : Reg) (b : Reg) (m : MReg)
  | vor (d : Reg) (a : Reg) (b : Reg) (m : MReg)
  | vorLit (d : Reg) (a : Reg) (b : Reg) (m : MReg)
  | vxor (d : Reg) (a : Reg) (b : Reg) (m : MReg)
  | vxorLit (d : Reg) (a : Reg) (b : Reg) (m : MReg)
  | vandn (d : Reg) (a : Reg) (b : Reg) (m : MReg)
  | vnot (d : Reg) (a : Reg) (m : MReg)
  | vshl (d : Reg) (a : Reg) (b : Reg) (m : MReg)
  | vshlLit (d : Reg) (a : Reg) (b : Reg) (m : MReg)
  | vshr (d : Reg) (a : Reg) (b : Reg) (m : MReg)
  | vshrLit (d : Reg) (a : Reg) (b : Reg) (m : MReg)
  | vsra (d : Reg) (a : Reg) (b : Reg) (m : MReg)
  | vsraLit (d : Reg) (a : Reg) (b : Reg) (m : MReg)
  | vrol (d : Reg) (a : Reg) (b : Reg) (m : MReg)
  | vror (d : Reg) (a : Reg) (b : Reg) (m : MReg)
  | vclz (d : Reg) (a : Reg) (m : MReg)
  | vpopc (d : Reg) (a : Reg) (m : MReg)
  | vcmp (d : Fin 8) (a : Reg) (b : Reg) (c : Fin 8) (m : MReg)
  | vcmpLit (d : Fin 8) (a : Reg) (b : Reg) (c : Fin 8) (m : MReg)
  | vcmpu (d : Fin 8) (a : Reg) (b : Reg) (c : Fin 8) (m : MReg)
  | vsel (d : Reg) (a : Reg) (b : Reg) (m : MReg)
  | vmov (d : Reg) (a : Reg) (m : MReg)
  | vbcast (d : Reg) (b : Reg) (t : Tag) (m : MReg)
  | vlaneid (d : Reg) (m : MReg) (v : Fin 4)
  | vfadd (d : Reg) (a : Reg) (b : Reg) (m : MReg) (r : Rnd)
  | vfaddLit (d : Reg) (a : Reg) (b : Reg) (m : MReg) (r : Rnd)
  | vfsub (d : Reg) (a : Reg) (b : Reg) (m : MReg) (r : Rnd)
  | vfsubLit (d : Reg) (a : Reg) (b : Reg) (m : MReg) (r : Rnd)
  | vfmul (d : Reg) (a : Reg) (b : Reg) (m : MReg) (r : Rnd)
  | vfmulLit (d : Reg) (a : Reg) (b : Reg) (m : MReg) (r : Rnd)
  | vfma (d : Reg) (a : Reg) (b : Reg) (c : Reg) (m : MReg) (r : Rnd)
  | vfmaLit (d : Reg) (a : Reg) (b : Reg) (c : Reg) (m : MReg) (r : Rnd)
  | vfms (d : Reg) (a : Reg) (b : Reg) (c : Reg) (m : MReg) (r : Rnd)
  | vfnma (d : Reg) (a : Reg) (b : Reg) (c : Reg) (m : MReg) (r : Rnd)
  | vfnms (d : Reg) (a : Reg) (b : Reg) (c : Reg) (m : MReg) (r : Rnd)
  | vfmin (d : Reg) (a : Reg) (b : Reg) (m : MReg)
  | vfmax (d : Reg) (a : Reg) (b : Reg) (m : MReg)
  | vfabs (d : Reg) (a : Reg) (m : MReg)
  | vfneg (d : Reg) (a : Reg) (m : MReg)
  | vfcmp (d : Fin 8) (a : Reg) (b : Reg) (c : Fin 8) (m : MReg)
  | vfcmpLit (d : Fin 8) (a : Reg) (b : Reg) (c : Fin 8) (m : MReg)
  | vfclass (d : Reg) (a : Reg) (m : MReg)
  | vrcp (d : Reg) (a : Reg) (m : MReg) (r : Rnd)
  | vrsq (d : Reg) (a : Reg) (m : MReg) (r : Rnd)
  | vsqrt (d : Reg) (a : Reg) (m : MReg) (r : Rnd)
  | vdiv (d : Reg) (a : Reg) (b : Reg) (m : MReg) (r : Rnd)
  | vexp2 (d : Reg) (a : Reg) (m : MReg) (r : Rnd)
  | vlog2 (d : Reg) (a : Reg) (m : MReg) (r : Rnd)
  | vredadd (d : Reg) (a : Reg) (m : MReg)
  | vredmax (d : Reg) (a : Reg) (m : MReg)
  | vredmin (d : Reg) (a : Reg) (m : MReg)
  | vrediadd (d : Reg) (a : Reg) (m : MReg)
  | vredimax (d : Reg) (a : Reg) (m : MReg)
  | vredimin (d : Reg) (a : Reg) (m : MReg)
  | vcvt (d : Reg) (a : Reg) (p : Fin 16) (t : Tag) (m : MReg) (r : Rnd)
  | vcvtsat (d : Reg) (a : Reg) (p : Fin 16) (t : Tag) (m : MReg) (r : Rnd)
  | vqnt4 (d : Reg) (a : Reg) (b : Reg) (m : MReg)
  | vdqnt4 (d : Reg) (a : Reg) (p : Fin 8) (t : Tag) (m : MReg)
  | vpack (d : Reg) (a : Reg) (b : Reg) (m : MReg)
  | vunpacklo (d : Reg) (a : Reg) (m : MReg)
  | vunpackhi (d : Reg) (a : Reg) (m : MReg)
  | vperm (d : Reg) (a : Reg) (b : Reg) (m : MReg)
  | vslide (d : Reg) (a : Reg) (b : Reg) (s : Reg) (m : MReg)
  | vslideLit (d : Reg) (a : Reg) (b : Reg) (c : Reg) (m : MReg)
  | vzip (d : Reg) (a : Reg) (b : Reg) (m : MReg) (h : Fin 2)
  | vunzip (d : Reg) (a : Reg) (b : Reg) (m : MReg) (h : Fin 2)
  | vld (d : Reg) (a : Reg) (k : Reg) (t : Tag) (m : MReg)
  | vst (s : Reg) (a : Reg) (k : Reg) (m : MReg)
  | vlds (d : Reg) (a : Reg) (k : Reg) (t : Tag) (m : MReg)
  | vsts (s : Reg) (a : Reg) (k : Reg) (m : MReg)
  | vldg (d : Reg) (a : Reg) (k : Reg) (t : Tag) (m : MReg)
  | vstsc (s : Reg) (a : Reg) (k : Reg) (m : MReg)
  | nsh (d : Reg) (a : Reg) (m : MReg) (v : Fin 4)
  | nshr (d : Reg) (a : Reg) (m : MReg) (v : Fin 4)
  | vldx (d : Reg) (a : Reg) (b : Reg) (k : Reg) (m : MReg) (h : Fin 4)
  | vstx (s : Reg) (a : Reg) (b : Reg) (k : Reg) (m : MReg) (h : Fin 4)
  | vldxg (d : Reg) (a : Reg) (b : Reg) (k : Reg) (m : MReg) (h : Fin 4)
  | vstxs (s : Reg) (a : Reg) (b : Reg) (k : Reg) (m : MReg) (h : Fin 4)
  | vamoadd (d : Reg) (a : Reg) (b : Reg) (c : Reg) (m : MReg)
  | vpush (d : Reg) (b : Fin 8)
  | vpop (d : Reg) (b : Fin 8)
  | vacr (d : Reg) (a : Reg) (c : Fin 4) (m : MReg)
  | vacrD (d : Reg) (a : Reg) (h : Fin 2) (c : Fin 4) (m : MReg)
  | vacrSt (d : Reg) (c : Fin 4) (m : MReg)
  | vacw (d : Reg) (a : Reg) (c : Fin 4) (m : MReg)
  | vacwD (d : Reg) (a : Reg) (h : Fin 2) (c : Fin 4) (m : MReg)
  | vtagset (d : Reg) (a : Reg) (t : Tag) (m : MReg)
  | vtagrd (d : Reg) (a : Reg) (m : MReg)
  | vres (d : Reg) (a : Reg) (m : MReg)
  | vresAcc (d : Reg) (a : Reg) (c : Reg) (m : MReg)
  | vmsk (d : Fin 8) (a : Fin 8) (b : Fin 8) (f : Fin 8)
  | vmpopc (d : Reg) (a : Fin 8) (m : MReg)
  | vmfirst (d : Reg) (a : Fin 8) (m : MReg)
  | vmset (d : Fin 8) (b : Reg)
  | vmsetNz (d : Fin 8) (a : Reg)
  | mnop
  | mac (l : Fin 4) (b : Fin 8) (a : Fin 4) (r : Fin 4) (w : Fin 8) (z : Bool)
  | macz (l : Fin 4) (b : Fin 8) (a : Fin 4) (r : Fin 4) (w : Fin 8) (z : Bool)
  | mwin (l : Fin 4) (b : Fin 8) (a : Fin 4) (r : Fin 4) (w : Fin 8) (z : Bool)
  | mdrain (q : Fin 2) (p : Fin 8) (a : Fin 4) (r : Fin 4) (v : Reg) (c : Fin 8) (z : Bool)
  | mdrainz (q : Fin 2) (p : Fin 8) (a : Fin 4) (r : Fin 4) (v : Reg) (c : Fin 8) (z : Bool)
  | mlatch (l : Fin 4) (w : Fin 8) (v : Reg)
  | mzero (a : Fin 4) (c : Fin 8)
  | binWatchdogExpiry
  | cpy (x : CopyArgs) (tag : Tag) (sel : Bool)
  | cpy2d (x : CopyArgs)
  | cpyg (hs : HReg) (xs : Reg) (xd : Reg) (xn : Reg) (hint : Fin 4) (f : Compl)
  | cpys (hd : HReg) (xs : Reg) (xd : Reg) (xn : Reg) (hint : Fin 4) (f : Compl)
  | cpyl (src : Side) (xs : Reg) (latch : Fin 4) (gmask : Byte) (tag : Tag) (f : Compl)
  | cpysh (hs : HReg) (xs : Reg) (xd : Reg) (xn : Reg) (gmask : Byte) (f : Compl)
  | cpybin (src : Side) (xs : Reg) (xn : Reg) (bin : MReg) (f : Compl)
  | route (x : EngArgs)
  | routec (x : EngArgs)
  | red (x : EngArgs) (sel : Bool)
  | bcast (x : EngArgs) (sel : Bool)
  | agath (x : EngArgs) (sel : Bool)
  | sealck (hs : HReg) (hd : HReg) (xs : Reg) (xd : Reg) (xn : Reg) (tag : Tag) (mode : Bool)
  | sealgen (x : EngArgs) (tag : Tag)
  | exbind (hs : HReg) (xs : Reg) (xd : Reg) (acq : Bool)
  | exfetch (xs : Reg) (f : Compl)
  | exrel (hs : HReg) (xs : Reg) (f : Compl)
  | expin (xs : Reg) (pin : Bool) (f : Compl)
  | yarddrain (xs : Reg) (xd : Reg) (xn : Reg) (acq : Bool)
  | cwait (xs : Reg) (xd : Reg)
  | cfence (q : Fin 4)
  | cstat (xs : Reg) (xd : Reg) (sel : Fin 4)
  | commandStart (q : Fin 2)
  | commandItem (q : Fin 2) (n : Word)
  | commandFinish (q : Fin 2) (n : Word)
  | expertFetchStart (e : Fin 4096)
  | expertFetchEnd (e : Fin 4096) (flash : Option (List Byte))
  | modeChangeInForce
  | rendezvous
  | rdvWatchdogExpiry
  | asyncCauseTaken
  | rewind (bad : Bool)
  | hostQueueConsume
  | spawnReady (die : Fin 8) (id : Nat)
  | schedulerChoice (die : Fin 8)
  | taskStart (die : Fin 8) (id : Nat)
  | quantumExpiry (hb : Half)
  | contextResume (hb : Half)
  | matrixStateSwitch
  | streamPeriodStart (id : BitVec 14)
  | streamBudgetExhausted (hb : Half)
  | deviceRegisterWrite (off : Nat) (wide : Bool) (v : DWord) (host : Bool)
  | stopOfIssue (hb : Half) (why : StopWhy)
  | remoteTimeout (tag : Nat)
  | landingDataArrival (tag : Nat) (bytes : List Byte) (bad : Bool)
  | scalarMissFill (bytes : Tagged (List Byte)) (bad : Bool)
  | fetchLineArrival (va : DWord) (how : FetchAhead)
  | pageTableWalk (va : DWord) (k : AccessKind)
  | asyncSet (core : Fin 128) (hb : Half) (bank : Fin 2) (v : Byte) (host : Bool)
  | asyncPendClear (core : Fin 128) (hb : Half) (bank : Fin 2) (v : Byte)
  | pfackRetry (hb : Half) (bank : Fin 2)
  | pfackDeliver (hb : Half) (bank : Fin 2)
  | cmodeWrite (core : Fin 128) (v : Word)
  | atticcfgWrite (core : Fin 128) (v : Word)
  | migrationRequest (asid : BitVec 12) (va : DWord)
  | migrationHoldoffExpiry (asid : BitVec 12) (va : DWord)
  | errorThreshold (src : ErrArray)
  | patrolScrubRead (ch : Fin 16) (c : ScrubFind)
  | hqtailWrite (v : Word)
  | waylineFlit (port : Fin 128) (ok : Bool)
  | portDown (port : Fin 128)
  | portUp (port : Fin 128) (peer : BitVec 17) (atom : Bool)
  | hostWrite (off : Nat) (bytes : List Byte)
  | hostRead (off : Nat) (n : Nat)
  | portRetrain (port : Fin 3)
  | poollimWrite (die : Fin 8) (v : DWord)
  | powerGrant (grant : Vector (BitVec 16) 8) (step : Vector (Fin 11) 8)
  | wake (core : Fin 128)
  | wakeb (core : Fin 128)
  | captureClear (die : Fin 8) (u : Fin 32)
  | eventDelivery (src : EventSource)
  | svraise (v : Word) (firmware : Bool)
  | attestationRequest (w : DWord)
  | attestationReportDone
  | reset (signed : Bool) (ver : Word)
  | homeResponseArrival (r : Tagged HomeResp)
  | incomingWriteOrInvalidation (w : Incoming)
  | rootPortLinkTrained (port : Fin 3) (speed : Fin 7) (width : Fin 17)
  | rootPortLinkDown (port : Fin 3)
  | homeRequest (r : LineReq)
  | homeAtomic (who : Tagged Agent) (op : HomeOp) (pa : Nat) (sc : Scope) (rel : Option Word)
  | acqpHomeResolve (who : Tagged Agent) (pa : Nat) (sc : Scope)
  | promotionRequest (hb : Half) (line : Nat) (q : Word) (sc : Scope)
  | promotionAnswer (line : Nat) (to_ : Promoted)
  | routedRowArrival (die : Fin 8) (w : Tagged RoutedRow)
  | chunkArrival (die : Fin 8) (c : Tagged Chunk)
  deriving DecidableEq, Repr

end Sys2Proof
end

