-- ==== Sys2Proof/WellFormed.lean ====
section
/-! DEFINITION. Which terms of `Instr` some encoding stands for: the operand values that a word may carry without a decode trap
0x07 or 0x08 (R85, R92 and the entries named). A step that is no slot word carries no such condition. -/

namespace Sys2Proof

/-- Tags 0 to 12: the tags of data (R43). -/
def Tag.isData : Tag → Bool
  | .res13 | .res14 | .poison => false
  | _ => true

/-- Tags 0 to 11: those VBCAST may give (R138) and those of a seal's payload (R347). -/
def Tag.isBcast : Tag → Bool
  | .fp4b => false
  | t => t.isData

/-- The formats of VCVT (R148). -/
def Tag.isCvt : Tag → Bool
  | .int32 | .int16 | .int8 | .uint8 | .int4 | .fp64 | .fp32 | .bf16 | .fp16 | .e4m3 | .e5m2 => true
  | _ => false

/-- The number of parts VDQNT4 has for a target (R151); 0 for a tag that is none. -/
def Tag.dqParts : Tag → Nat
  | .fp32 => 8
  | .bf16 | .fp16 => 4
  | .e4m3 | .e5m2 => 2
  | _ => 0

/-- A rounding mode that an F or D word may carry. -/
def FRm.legal : FRm → Bool
  | .res5 | .res6 => false
  | _ => true

def FpInstr.rmLegal : FpInstr → Bool
  | .arith _ _ rm _ _ _ | .sqrt _ rm _ _ | .fma _ _ rm _ _ _ _ | .toInt _ _ rm _ _ | .ofInt _ _ rm _ _ | .cvt _ rm _ _ => rm.legal
  | .sgn _ _ _ _ _ | .minmax _ _ _ _ _ | .cmp _ _ _ _ _ | .fclass _ _ _ | .mvToX _ _ _ | .mvOfX _ _ _ => true

/-- Well-formed: some word of the slot stands for the term. -/
def Instr.wf : Instr → Bool
  | .bundleIssue _ => true
  | .indexedBundleIssue _ => true
  | .resultLanding _ => true
  | .landingDataArrival _ _ _ => true
  | .scalarMissFill _ _ => true
  | .fetchLineArrival _ _ => true
  | .pageTableWalk _ _ => true
  | .homeRequest _ => true
  | .homeAtomic _ _ _ _ _ => true
  | .acqpHomeResolve _ _ _ => true
  | .promotionRequest _ _ _ _ => true
  | .promotionServiceEnd => true
  | .promotionAnswer _ _ => true
  | .scalarAlu _ => true
  | .scalarMul _ _ _ _ => true
  | .scalarDiv _ _ _ _ => true
  | .scalarFp op => op.rmLegal
  | .scalarLoad _ _ _ _ => true
  | .scalarStore _ _ _ _ => true
  | .branch _ _ _ _ => true
  | .jal _ _ => true
  | .jalr _ _ _ => true
  | .lr _ _ _ _ _ => true
  | .sc _ _ _ _ _ _ => true
  | .amo _ _ _ _ _ _ _ => true
  | .amocasW _ _ _ _ _ => true
  | .amocasD _ _ _ _ _ => true
  | .fence _ _ _ => true
  | .fenceI => true
  | .ecall => true
  | .ebreak => true
  | .csrrw _ _ _ => true
  | .csrrs _ _ _ => true
  | .csrrc _ _ _ => true
  | .csrrwi _ _ _ => true
  | .csrrsi _ _ _ => true
  | .csrrci _ _ _ => true
  | .wait _ _ => true
  | .loop _ _ => true
  | .jtab _ _ _ => true
  | .yield _ => true
  | .taskend => true
  | .shwr _ _ _ => true
  | .shrd _ _ => true
  | .shclr _ => true
  | .shsw _ _ _ => true
  | .shtag _ _ _ => true
  | .shelfSwap => true
  | .spawn _ _ => true
  | .spawng _ _ => true
  | .xlate _ _ _ => true
  | .xprobe _ _ _ => true
  | .hrel _ => true
  | .hinv _ _ _ => true
  | .splnt _ _ _ => true
  | .amoBadd _ _ _ => true
  | .amoTopk _ _ _ => true
  | .fenceS _ _ => true
  | .acqp _ _ => true
  | .binit _ _ _ => true
  | .barr _ _ _ => true
  | .bwait _ _ _ => true
  | .barw _ _ => true
  | .pin _ _ _ => true
  | .unpin _ _ => true
  | .prefl2 _ _ _ => true
  | .bmode _ _ _ => true
  | .binset _ _ _ => true
  | .binq _ _ => true
  | .strmAdd _ _ => true
  | .strmDel _ _ => true
  | .trap _ => true
  | .tret => true
  | .halt => true
  | .banksw _ _ => true
  | .ctxsave _ _ => true
  | .ctxload _ _ => true
  | .ctxEngineDone => true
  | .evpost _ _ => true
  | .rdtime _ _ => true
  | .vadd _ _ _ _ => true
  | .vaddLit _ _ _ _ => true
  | .vsub _ _ _ _ => true
  | .vsubLit _ _ _ _ => true
  | .vmul _ _ _ _ => true
  | .vmulLit _ _ _ _ => true
  | .vmulh _ _ _ _ => true
  | .vmulhu _ _ _ _ => true
  | .vmadd _ _ _ _ _ => true
  | .vmaddLit _ _ _ _ _ => true
  | .vaddsat _ _ _ _ => true
  | .vsubsat _ _ _ _ => true
  | .vaddsatu _ _ _ _ => true
  | .vsubsatu _ _ _ _ => true
  | .vabs _ _ _ => true
  | .vneg _ _ _ => true
  | .vmin _ _ _ _ => true
  | .vminLit _ _ _ _ => true
  | .vmax _ _ _ _ => true
  | .vmaxLit _ _ _ _ => true
  | .vminu _ _ _ _ => true
  | .vmaxu _ _ _ _ => true
  | .vand _ _ _ _ => true
  | .vandLit _ _ _ _ => true
  | .vor _ _ _ _ => true
  | .vorLit _ _ _ _ => true
  | .vxor _ _ _ _ => true
  | .vxorLit _ _ _ _ => true
  | .vandn _ _ _ _ => true
  | .vnot _ _ _ => true
  | .vshl _ _ _ _ => true
  | .vshlLit _ _ _ _ => true
  | .vshr _ _ _ _ => true
  | .vshrLit _ _ _ _ => true
  | .vsra _ _ _ _ => true
  | .vsraLit _ _ _ _ => true
  | .vrol _ _ _ _ => true
  | .vror _ _ _ _ => true
  | .vclz _ _ _ => true
  | .vpopc _ _ _ => true
  | .vcmp d _ _ c _ => decide (d ≠ 0 ∧ c.val < 6)
  | .vcmpLit d _ _ c _ => decide (d ≠ 0 ∧ c.val < 6)
  | .vcmpu d _ _ c _ => decide (d ≠ 0 ∧ c.val < 6)
  | .vsel _ _ _ _ => true
  | .vmov _ _ _ => true
  | .vbcast _ _ t _ => t.isBcast
  | .vlaneid _ _ _ => true
  | .vfadd _ _ _ _ _ => true
  | .vfaddLit _ _ _ _ _ => true
  | .vfsub _ _ _ _ _ => true
  | .vfsubLit _ _ _ _ _ => true
  | .vfmul _ _ _ _ _ => true
  | .vfmulLit _ _ _ _ _ => true
  | .vfma _ _ _ _ _ _ => true
  | .vfmaLit _ _ _ _ _ _ => true
  | .vfms _ _ _ _ _ _ => true
  | .vfnma _ _ _ _ _ _ => true
  | .vfnms _ _ _ _ _ _ => true
  | .vfmin _ _ _ _ => true
  | .vfmax _ _ _ _ => true
  | .vfabs _ _ _ => true
  | .vfneg _ _ _ => true
  | .vfcmp d _ _ _ _ => decide (d ≠ 0)
  | .vfcmpLit d _ _ _ _ => decide (d ≠ 0)
  | .vfclass _ _ _ => true
  | .vrcp _ _ _ _ => true
  | .vrsq _ _ _ _ => true
  | .vsqrt _ _ _ _ => true
  | .vdiv _ _ _ _ _ => true
  | .vexp2 _ _ _ _ => true
  | .vlog2 _ _ _ _ => true
  | .vredadd _ _ _ => true
  | .vredmax _ _ _ => true
  | .vredmin _ _ _ => true
  | .vrediadd _ _ _ => true
  | .vredimax _ _ _ => true
  | .vredimin _ _ _ => true
  | .vcvt _ _ _ t _ _ => t.isCvt
  | .vcvtsat _ _ _ t _ _ => t.isCvt
  | .vqnt4 _ _ _ _ => true
  | .vdqnt4 _ _ p t _ => decide (t.dqParts ≠ 0 ∧ p.val < t.dqParts)
  | .vpack _ _ _ _ => true
  | .vunpacklo _ _ _ => true
  | .vunpackhi _ _ _ => true
  | .vperm _ _ _ _ => true
  | .vslide _ _ _ _ _ => true
  | .vslideLit _ _ _ _ _ => true
  | .vzip _ _ _ _ _ => true
  | .vunzip _ _ _ _ _ => true
  | .vld _ _ _ t _ => t.isData
  | .vst _ _ _ _ => true
  | .vlds _ _ _ t _ => t.isData
  | .vsts _ _ _ _ => true
  | .vldg _ _ _ t _ => t.isData
  | .vstsc _ _ _ _ => true
  | .nsh _ _ _ v => decide (v.val < 2)
  | .nshr _ _ _ _ => true
  | .vldx _ _ _ _ _ _ => true
  | .vstx _ _ _ _ _ _ => true
  | .vldxg _ _ _ _ _ _ => true
  | .vstxs _ _ _ _ _ _ => true
  | .vamoadd _ _ _ _ _ => true
  | .vpush _ _ => true
  | .vpop _ _ => true
  | .vacr _ _ _ _ => true
  | .vacrD _ _ _ _ _ => true
  | .vacrSt _ _ _ => true
  | .vacw _ _ _ _ => true
  | .vacwD _ _ _ _ _ => true
  | .vtagset _ _ t _ => decide (t.isData ∨ t = .poison)
  | .vtagrd _ _ _ => true
  | .vres _ _ _ => true
  | .vresAcc _ _ _ _ => true
  | .vmsk d _ b f => decide (d ≠ 0 ∧ (f.val < 6 ∨ b = 0))
  | .vmpopc _ _ _ => true
  | .vmfirst _ _ _ => true
  | .vmset d _ => decide (d ≠ 0)
  | .vmsetNz d _ => decide (d ≠ 0)
  | .mnop => true
  | .mac _ _ _ _ _ _ => true
  | .macz _ _ _ _ _ _ => true
  | .mwin _ _ _ _ _ _ => true
  | .mdrain _ _ _ _ _ _ _ => true
  | .mdrainz _ _ _ _ _ _ _ => true
  | .mlatch _ _ _ => true
  | .mzero _ _ => true
  | .binWatchdogExpiry => true
  | .cpy _ _ _ => true
  | .cpy2d x => decide (x.xn ≠ 0 ∧ x.xn ≠ 31)
  | .cpyg _ _ _ _ _ _ => true
  | .cpys _ _ _ _ _ _ => true
  | .cpyl _ _ _ _ _ f => decide (f.rel = false)
  | .cpysh _ _ _ _ _ f => decide (f.rel = false)
  | .cpybin _ _ _ _ f => decide (f.rel = false)
  | .route _ => true
  | .routec _ => true
  | .red _ _ => true
  | .bcast _ _ => true
  | .agath _ _ => true
  | .sealck _ _ _ _ _ _ _ => true
  | .sealgen _ _ => true
  | .exbind _ _ _ _ => true
  | .exfetch _ f => decide (f.acq = false ∧ f.rel = false)
  | .exrel _ _ f => decide (f.acq = false)
  | .expin _ _ f => decide (f.acq = false ∧ f.rel = false)
  | .yarddrain _ _ _ _ => true
  | .cwait _ _ => true
  | .cfence _ => true
  | .cstat _ _ _ => true
  | .commandStart _ => true
  | .commandItem _ _ => true
  | .commandFinish _ _ => true
  | .chunkArrival _ _ => true
  | .routedRowArrival _ _ => true
  | .expertFetchStart _ => true
  | .expertFetchEnd _ _ => true
  | .cmodeWrite _ _ => true
  | .modeChangeInForce => true
  | .atticcfgWrite _ _ => true
  | .rendezvous => true
  | .rdvWatchdogExpiry => true
  | .asyncCauseTaken => true
  | .asyncSet _ _ _ _ _ => true
  | .asyncPendClear _ _ _ _ => true
  | .pfackRetry _ _ => true
  | .pfackDeliver _ _ => true
  | .migrationRequest _ _ => true
  | .migrationComplete _ _ _ => true
  | .migrationHoldoffExpiry _ _ => true
  | .rewind _ => true
  | .errorThreshold _ => true
  | .patrolScrubRead _ _ => true
  | .hostQueueConsume => true
  | .spawnReady _ _ => true
  | .schedulerChoice _ => true
  | .taskStart _ _ => true
  | .quantumExpiry _ => true
  | .stopOfIssue _ _ => true
  | .contextResume _ => true
  | .matrixStateSwitch => true
  | .streamPeriodStart _ => true
  | .streamBudgetExhausted _ => true
  | .hqtailWrite _ => true
  | .waylineFlit _ _ => true
  | .portDown _ => true
  | .portUp _ _ _ => true
  | .remoteTimeout _ => true
  | .hostWrite _ _ => true
  | .hostRead _ _ => true
  | .portRetrain _ => true
  | .poollimWrite _ _ => true
  | .powerGrant _ _ => true
  | .wake _ => true
  | .wakeb _ => true
  | .captureClear _ _ => true
  | .eventDelivery _ => true
  | .svraise _ _ => true
  | .attestationRequest _ => true
  | .attestationReportDone => true
  | .reset _ _ => true
  | .deviceRegisterWrite _ _ _ _ => true
  | .homeResponseArrival _ => true
  | .incomingWriteOrInvalidation _ => true
  | .rootPortLinkTrained _ _ _ => true
  | .rootPortLinkDown _ => true

end Sys2Proof
end

