-- ==== Sys2Proof/Decode.lean ====
section
/-! DEFINITION. Decoding of slot words, bundles and shelf entries (R73 to R92), total on any words, with the cause that a refused
word raises; the encoder, written from the same tables; and the table words the host asks about. -/

namespace Sys2Proof

/-! ## Fields -/

/-- Bits [lo+n-1 : lo] of a word. -/
def fld (w lo n : Nat) : Nat := w / 2 ^ lo % 2 ^ n
/-- A register field. -/
def reg (w lo : Nat) : Reg := Fin.ofNat 32 (w / 2 ^ lo)
/-- A field with k values. -/
def fin (k : Nat) [NeZero k] (w lo : Nat) : Fin k := Fin.ofNat k (w / 2 ^ lo)
/-- A field kept as bits. -/
def bits (n w lo : Nat) : BitVec n := BitVec.ofNat n (w / 2 ^ lo)
/-- A one-bit field. -/
def flag (w lo : Nat) : Bool := fld w lo 1 == 1

/-- The code of a tag (R43). -/
def Tag.code : Tag → Nat
  | .raw => 0 | .int32 => 1 | .int16 => 2 | .int8 => 3 | .uint8 => 4 | .int4 => 5 | .fp64 => 6 | .fp32 => 7 | .bf16 => 8
  | .fp16 => 9 | .e4m3 => 10 | .e5m2 => 11 | .fp4b => 12 | .res13 => 13 | .res14 => 14 | .poison => 15

/-- The tag of a code. -/
def Tag.ofCode : Nat → Tag
  | 0 => .raw | 1 => .int32 | 2 => .int16 | 3 => .int8 | 4 => .uint8 | 5 => .int4 | 6 => .fp64 | 7 => .fp32 | 8 => .bf16
  | 9 => .fp16 | 10 => .e4m3 | 11 => .e5m2 | 12 => .fp4b | 13 => .res13 | 14 => .res14 | _ => .poison

/-- The code of a rounding direction in VAR (R55). -/
def Rnd.code : Rnd → Nat
  | .rne => 0 | .rz => 1 | .ru => 2 | .rd => 3
def Rnd.ofCode : Nat → Rnd
  | 0 => .rne | 1 => .rz | 2 => .ru | _ => .rd

/-- The code of a scope (R73), and the scope of a code below 5. -/
def Scope.code : Scope → Nat
  | .core => 0 | .cluster => 1 | .die => 2 | .package => 3 | .fabric => 4
def Scope.ofCode : Nat → Scope
  | 0 => .core | 1 => .cluster | 2 => .die | 3 => .package | _ => .fabric

def FRm.code : FRm → Nat
  | .rne => 0 | .rtz => 1 | .rdn => 2 | .rup => 3 | .rmm => 4 | .res5 => 5 | .res6 => 6 | .dyn => 7
def FRm.ofCode : Nat → FRm
  | 0 => .rne | 1 => .rtz | 2 => .rdn | 3 => .rup | 4 => .rmm | 5 => .res5 | 6 => .res6 | _ => .dyn

/-- The number of a slot in tval (R27, R93). -/
def Slot.code : Slot → Nat
  | .s => 0 | .v0 => 1 | .v1 => 2 | .m => 3 | .c0 => 4 | .c1 => 5 | .header => 6 | .pool => 7

def tagAt (w lo : Nat) : Tag := Tag.ofCode (fld w lo 4)
def rndAt (w : Nat) : Rnd := Rnd.ofCode (fld w 0 2)

/-- The outcome of decoding one slot word: an instruction, or the cause it raises. -/
abbrev Dec := Except Nat Instr

/-- The instruction if every listed field (low bit, width) is zero; otherwise cause 0x08 (R85). -/
def zeros (w : Nat) (zs : List (Nat × Nat)) (i : Instr) : Dec :=
  if zs.all (fun z => fld w z.1 z.2 == 0) then .ok i else .error 0x08

/-- The instruction, if its operand values are among those the entry allows; otherwise cause 0x08. -/
def Dec.checked (r : Dec) : Dec :=
  match r with
  | .ok i => if i.wf then .ok i else .error 0x08
  | .error c => .error c

/-! ## Which slot a row's word stands in -/

/-- The kinds of rows: words of the S slot, of V0 and V1, of M, of C0 and C1, and steps that are no slot words. -/
inductive Kind where
  | scalar | vector | matrix | copy | step
  deriving DecidableEq, Repr

/-- The slot a row's word stands in. -/
def Instr.kind : Instr → Kind
  | .bundleIssue .. => .step
  | .indexedBundleIssue .. => .step
  | .resultLanding .. => .step
  | .landingDataArrival .. => .step
  | .scalarMissFill .. => .step
  | .fetchLineArrival .. => .step
  | .pageTableWalk .. => .step
  | .homeRequest .. => .step
  | .homeAtomic .. => .step
  | .acqpHomeResolve .. => .step
  | .promotionRequest .. => .step
  | .promotionServiceEnd => .step
  | .promotionAnswer .. => .step
  | .scalarAlu .. => .scalar
  | .scalarMul .. => .scalar
  | .scalarDiv .. => .scalar
  | .scalarFp .. => .scalar
  | .scalarLoad .. => .scalar
  | .scalarStore .. => .scalar
  | .branch .. => .scalar
  | .jal .. => .scalar
  | .jalr .. => .scalar
  | .lr .. => .scalar
  | .sc .. => .scalar
  | .amo .. => .scalar
  | .amocasW .. => .scalar
  | .amocasD .. => .scalar
  | .fence .. => .scalar
  | .fenceI => .scalar
  | .ecall => .scalar
  | .ebreak => .scalar
  | .csrrw .. => .scalar
  | .csrrs .. => .scalar
  | .csrrc .. => .scalar
  | .csrrwi .. => .scalar
  | .csrrsi .. => .scalar
  | .csrrci .. => .scalar
  | .wait .. => .scalar
  | .loop .. => .scalar
  | .jtab .. => .scalar
  | .yield .. => .scalar
  | .taskend => .scalar
  | .shwr .. => .scalar
  | .shrd .. => .scalar
  | .shclr .. => .scalar
  | .shsw .. => .scalar
  | .shtag .. => .scalar
  | .shelfSwap => .step
  | .spawn .. => .scalar
  | .spawng .. => .scalar
  | .xlate .. => .scalar
  | .xprobe .. => .scalar
  | .hrel .. => .scalar
  | .hinv .. => .scalar
  | .splnt .. => .scalar
  | .amoBadd .. => .scalar
  | .amoTopk .. => .scalar
  | .fenceS .. => .scalar
  | .acqp .. => .scalar
  | .binit .. => .scalar
  | .barr .. => .scalar
  | .bwait .. => .scalar
  | .barw .. => .scalar
  | .pin .. => .scalar
  | .unpin .. => .scalar
  | .prefl2 .. => .scalar
  | .bmode .. => .scalar
  | .binset .. => .scalar
  | .binq .. => .scalar
  | .strmAdd .. => .scalar
  | .strmDel .. => .scalar
  | .trap .. => .scalar
  | .tret => .scalar
  | .halt => .scalar
  | .banksw .. => .scalar
  | .ctxsave .. => .scalar
  | .ctxload .. => .scalar
  | .ctxEngineDone => .step
  | .evpost .. => .scalar
  | .rdtime .. => .scalar
  | .vadd .. => .vector
  | .vaddLit .. => .vector
  | .vsub .. => .vector
  | .vsubLit .. => .vector
  | .vmul .. => .vector
  | .vmulLit .. => .vector
  | .vmulh .. => .vector
  | .vmulhu .. => .vector
  | .vmadd .. => .vector
  | .vmaddLit .. => .vector
  | .vaddsat .. => .vector
  | .vsubsat .. => .vector
  | .vaddsatu .. => .vector
  | .vsubsatu .. => .vector
  | .vabs .. => .vector
  | .vneg .. => .vector
  | .vmin .. => .vector
  | .vminLit .. => .vector
  | .vmax .. => .vector
  | .vmaxLit .. => .vector
  | .vminu .. => .vector
  | .vmaxu .. => .vector
  | .vand .. => .vector
  | .vandLit .. => .vector
  | .vor .. => .vector
  | .vorLit .. => .vector
  | .vxor .. => .vector
  | .vxorLit .. => .vector
  | .vandn .. => .vector
  | .vnot .. => .vector
  | .vshl .. => .vector
  | .vshlLit .. => .vector
  | .vshr .. => .vector
  | .vshrLit .. => .vector
  | .vsra .. => .vector
  | .vsraLit .. => .vector
  | .vrol .. => .vector
  | .vror .. => .vector
  | .vclz .. => .vector
  | .vpopc .. => .vector
  | .vcmp .. => .vector
  | .vcmpLit .. => .vector
  | .vcmpu .. => .vector
  | .vsel .. => .vector
  | .vmov .. => .vector
  | .vbcast .. => .vector
  | .vlaneid .. => .vector
  | .vfadd .. => .vector
  | .vfaddLit .. => .vector
  | .vfsub .. => .vector
  | .vfsubLit .. => .vector
  | .vfmul .. => .vector
  | .vfmulLit .. => .vector
  | .vfma .. => .vector
  | .vfmaLit .. => .vector
  | .vfms .. => .vector
  | .vfnma .. => .vector
  | .vfnms .. => .vector
  | .vfmin .. => .vector
  | .vfmax .. => .vector
  | .vfabs .. => .vector
  | .vfneg .. => .vector
  | .vfcmp .. => .vector
  | .vfcmpLit .. => .vector
  | .vfclass .. => .vector
  | .vrcp .. => .vector
  | .vrsq .. => .vector
  | .vsqrt .. => .vector
  | .vdiv .. => .vector
  | .vexp2 .. => .vector
  | .vlog2 .. => .vector
  | .vredadd .. => .vector
  | .vredmax .. => .vector
  | .vredmin .. => .vector
  | .vrediadd .. => .vector
  | .vredimax .. => .vector
  | .vredimin .. => .vector
  | .vcvt .. => .vector
  | .vcvtsat .. => .vector
  | .vqnt4 .. => .vector
  | .vdqnt4 .. => .vector
  | .vpack .. => .vector
  | .vunpacklo .. => .vector
  | .vunpackhi .. => .vector
  | .vperm .. => .vector
  | .vslide .. => .vector
  | .vslideLit .. => .vector
  | .vzip .. => .vector
  | .vunzip .. => .vector
  | .vld .. => .vector
  | .vst .. => .vector
  | .vlds .. => .vector
  | .vsts .. => .vector
  | .vldg .. => .vector
  | .vstsc .. => .vector
  | .nsh .. => .vector
  | .nshr .. => .vector
  | .vldx .. => .vector
  | .vstx .. => .vector
  | .vldxg .. => .vector
  | .vstxs .. => .vector
  | .vamoadd .. => .vector
  | .vpush .. => .vector
  | .vpop .. => .vector
  | .vacr .. => .vector
  | .vacrD .. => .vector
  | .vacrSt .. => .vector
  | .vacw .. => .vector
  | .vacwD .. => .vector
  | .vtagset .. => .vector
  | .vtagrd .. => .vector
  | .vres .. => .vector
  | .vresAcc .. => .vector
  | .vmsk .. => .vector
  | .vmpopc .. => .vector
  | .vmfirst .. => .vector
  | .vmset .. => .vector
  | .vmsetNz .. => .vector
  | .mnop => .matrix
  | .mac .. => .matrix
  | .macz .. => .matrix
  | .mwin .. => .matrix
  | .mdrain .. => .matrix
  | .mdrainz .. => .matrix
  | .mlatch .. => .matrix
  | .mzero .. => .matrix
  | .binWatchdogExpiry => .step
  | .cpy .. => .copy
  | .cpy2d .. => .copy
  | .cpyg .. => .copy
  | .cpys .. => .copy
  | .cpyl .. => .copy
  | .cpysh .. => .copy
  | .cpybin .. => .copy
  | .route .. => .copy
  | .routec .. => .copy
  | .red .. => .copy
  | .bcast .. => .copy
  | .agath .. => .copy
  | .sealck .. => .copy
  | .sealgen .. => .copy
  | .exbind .. => .copy
  | .exfetch .. => .copy
  | .exrel .. => .copy
  | .expin .. => .copy
  | .yarddrain .. => .copy
  | .cwait .. => .copy
  | .cfence .. => .copy
  | .cstat .. => .copy
  | .commandStart .. => .step
  | .commandItem .. => .step
  | .commandFinish .. => .step
  | .chunkArrival .. => .step
  | .routedRowArrival .. => .step
  | .expertFetchStart .. => .step
  | .expertFetchEnd .. => .step
  | .cmodeWrite .. => .step
  | .modeChangeInForce => .step
  | .atticcfgWrite .. => .step
  | .rendezvous => .step
  | .rdvWatchdogExpiry => .step
  | .asyncCauseTaken => .step
  | .asyncSet .. => .step
  | .asyncPendClear .. => .step
  | .pfackRetry .. => .step
  | .pfackDeliver .. => .step
  | .migrationRequest .. => .step
  | .migrationComplete .. => .step
  | .migrationHoldoffExpiry .. => .step
  | .rewind .. => .step
  | .errorThreshold .. => .step
  | .patrolScrubRead .. => .step
  | .hostQueueConsume => .step
  | .spawnReady .. => .step
  | .schedulerChoice .. => .step
  | .taskStart .. => .step
  | .quantumExpiry .. => .step
  | .stopOfIssue .. => .step
  | .contextResume .. => .step
  | .matrixStateSwitch => .step
  | .streamPeriodStart .. => .step
  | .streamBudgetExhausted .. => .step
  | .hqtailWrite .. => .step
  | .waylineFlit .. => .step
  | .portDown .. => .step
  | .portUp .. => .step
  | .remoteTimeout .. => .step
  | .hostWrite .. => .step
  | .hostRead .. => .step
  | .portRetrain .. => .step
  | .poollimWrite .. => .step
  | .powerGrant .. => .step
  | .wake .. => .step
  | .wakeb .. => .step
  | .captureClear .. => .step
  | .eventDelivery .. => .step
  | .svraise .. => .step
  | .attestationRequest .. => .step
  | .attestationReportDone => .step
  | .reset .. => .step
  | .deviceRegisterWrite .. => .step
  | .homeResponseArrival .. => .step
  | .incomingWriteOrInvalidation .. => .step
  | .rootPortLinkTrained .. => .step
  | .rootPortLinkDown .. => .step

/-! ## The scalar slot: the RISC-V encodings of R1 (log 5), then NKX (R87, R91) -/

/-- Integer register-register words (opcodes OP and OP-32). -/
def decodeOp (w32 : Bool) (w : Nat) : Dec :=
  let d := reg w 7; let a := reg w 15; let b := reg w 20
  let rr (op : AluRR) : Dec := .ok (.scalarAlu (.rr op d a b))
  let mu (op : MulOp) : Dec := .ok (.scalarMul op d a b)
  let dv (op : DivOp) : Dec := .ok (.scalarDiv op d a b)
  match w32, fld w 25 7, fld w 12 3 with
  | false, 0x00, 0 => rr .add | false, 0x20, 0 => rr .sub | false, 0x00, 1 => rr .sll | false, 0x00, 2 => rr .slt
  | false, 0x00, 3 => rr .sltu | false, 0x00, 4 => rr .xor | false, 0x00, 5 => rr .srl | false, 0x20, 5 => rr .sra
  | false, 0x00, 6 => rr .or | false, 0x00, 7 => rr .and
  | false, 0x01, 0 => mu .mul | false, 0x01, 1 => mu .mulh | false, 0x01, 2 => mu .mulhsu | false, 0x01, 3 => mu .mulhu
  | false, 0x01, 4 => dv .div | false, 0x01, 5 => dv .divu | false, 0x01, 6 => dv .rem | false, 0x01, 7 => dv .remu
  | false, 0x10, 2 => rr .sh1add | false, 0x10, 4 => rr .sh2add | false, 0x10, 6 => rr .sh3add
  | false, 0x20, 7 => rr .andn | false, 0x20, 6 => rr .orn | false, 0x20, 4 => rr .xnor
  | false, 0x05, 4 => rr .min | false, 0x05, 5 => rr .minu | false, 0x05, 6 => rr .max | false, 0x05, 7 => rr .maxu
  | false, 0x30, 1 => rr .rol | false, 0x30, 5 => rr .ror
  | true, 0x00, 0 => rr .addw | true, 0x20, 0 => rr .subw | true, 0x00, 1 => rr .sllw | true, 0x00, 5 => rr .srlw
  | true, 0x20, 5 => rr .sraw
  | true, 0x01, 0 => mu .mulw | true, 0x01, 4 => dv .divw | true, 0x01, 5 => dv .divuw | true, 0x01, 6 => dv .remw
  | true, 0x01, 7 => dv .remuw
  | true, 0x04, 0 => rr .addUw | true, 0x10, 2 => rr .sh1addUw | true, 0x10, 4 => rr .sh2addUw | true, 0x10, 6 => rr .sh3addUw
  | true, 0x30, 1 => rr .rolw | true, 0x30, 5 => rr .rorw
  | true, 0x04, 4 => if fld w 20 5 == 0 then .ok (.scalarAlu (.un .zextH d a)) else .error 0x07
  | _, _, _ => .error 0x07

/-- Integer register-immediate words (opcodes OP-IMM and OP-IMM-32). -/
def decodeOpImm (w32 : Bool) (w : Nat) : Dec :=
  let d := reg w 7; let a := reg w 15
  let ri (op : AluRI) : Dec := .ok (.scalarAlu (.ri op d a (bits 12 w 20)))
  let sh (op : AluSh) : Dec := .ok (.scalarAlu (.sh op d a (bits 6 w 20)))
  let sw (op : AluShW) : Dec := .ok (.scalarAlu (.shw op d a (bits 5 w 20)))
  let un (op : AluUn) : Dec := .ok (.scalarAlu (.un op d a))
  match w32, fld w 12 3 with
  | false, 0 => ri .addi | false, 2 => ri .slti | false, 3 => ri .sltiu | false, 4 => ri .xori | false, 6 => ri .ori
  | false, 7 => ri .andi
  | false, 1 =>
    match fld w 26 6, fld w 20 6 with
    | 0x00, _ => sh .slli
    | 0x18, 0 => un .clz | 0x18, 1 => un .ctz | 0x18, 2 => un .cpop | 0x18, 4 => un .sextB | 0x18, 5 => un .sextH
    | _, _ => .error 0x07
  | false, 5 =>
    match fld w 26 6, fld w 20 6 with
    | 0x00, _ => sh .srli | 0x10, _ => sh .srai | 0x18, _ => sh .rori
    | 0x0A, 7 => un .orcB | 0x1A, 0x38 => un .rev8
    | _, _ => .error 0x07
  | true, 0 => ri .addiw
  | true, 1 =>
    match fld w 25 7, fld w 20 5 with
    | 0x00, _ => sw .slliw
    | 0x04, _ => sh .slliUw | 0x05, _ => sh .slliUw
    | 0x30, 0 => un .clzw | 0x30, 1 => un .ctzw | 0x30, 2 => un .cpopw
    | _, _ => .error 0x07
  | true, 5 =>
    match fld w 25 7 with
    | 0x00 => sw .srliw | 0x20 => sw .sraiw | 0x30 => sw .roriw
    | _ => .error 0x07
  | _, _ => .error 0x07

/-- Words of opcode OP-FP (F and D). -/
def decodeFp (w : Nat) : Dec :=
  let d := reg w 7; let a := reg w 15; let b := reg w 20; let rm := FRm.ofCode (fld w 12 3); let f3 := fld w 12 3
  let dbl := fld w 25 2 == 1
  let ok (i : FpInstr) : Dec := if i.rmLegal then .ok (.scalarFp i) else .error 0x07
  if fld w 26 1 = 1 then .error 0x07 else
  match fld w 27 5, f3, fld w 20 5 with
  | 0x00, _, _ => ok (.arith .add dbl rm d a b)
  | 0x01, _, _ => ok (.arith .sub dbl rm d a b)
  | 0x02, _, _ => ok (.arith .mul dbl rm d a b)
  | 0x03, _, _ => ok (.arith .div dbl rm d a b)
  | 0x0B, _, 0 => ok (.sqrt dbl rm d a)
  | 0x04, 0, _ => ok (.sgn .j dbl d a b) | 0x04, 1, _ => ok (.sgn .jn dbl d a b) | 0x04, 2, _ => ok (.sgn .jx dbl d a b)
  | 0x05, 0, _ => ok (.minmax false dbl d a b) | 0x05, 1, _ => ok (.minmax true dbl d a b)
  | 0x14, 2, _ => ok (.cmp .eq dbl d a b) | 0x14, 1, _ => ok (.cmp .lt dbl d a b) | 0x14, 0, _ => ok (.cmp .le dbl d a b)
  | 0x1C, 1, 0 => ok (.fclass dbl d a) | 0x1C, 0, 0 => ok (.mvToX dbl d a)
  | 0x1E, 0, 0 => ok (.mvOfX dbl d a)
  | 0x18, _, 0 => ok (.toInt .w dbl rm d a) | 0x18, _, 1 => ok (.toInt .wu dbl rm d a)
  | 0x18, _, 2 => ok (.toInt .l dbl rm d a) | 0x18, _, 3 => ok (.toInt .lu dbl rm d a)
  | 0x1A, _, 0 => ok (.ofInt .w dbl rm d a) | 0x1A, _, 1 => ok (.ofInt .wu dbl rm d a)
  | 0x1A, _, 2 => ok (.ofInt .l dbl rm d a) | 0x1A, _, 3 => ok (.ofInt .lu dbl rm d a)
  | 0x08, _, 1 => if dbl then .error 0x07 else ok (.cvt false rm d a)
  | 0x08, _, 0 => if dbl then ok (.cvt true rm d a) else .error 0x07
  | _, _, _ => .error 0x07

/-- Words of the fused multiply-adds (opcodes MADD, MSUB, NMSUB, NMADD). -/
def decodeFma (op : FFma) (w : Nat) : Dec :=
  let i : FpInstr := .fma op (fld w 25 2 == 1) (FRm.ofCode (fld w 12 3)) (reg w 7) (reg w 15) (reg w 20) (reg w 27)
  if fld w 26 1 = 1 ∨ !i.rmLegal then .error 0x07 else .ok (.scalarFp i)

/-- Words of opcode AMO: the A extension and Zacas (R1, R287). -/
def decodeAmo (w : Nat) : Dec :=
  let d := reg w 7; let a := reg w 15; let b := reg w 20; let aq := flag w 26; let rl := flag w 25
  match fld w 12 3 with
  | 2 | 3 =>
    let dbl := fld w 12 3 == 3
    let am (op : AmoOp) : Dec := .ok (.amo op dbl aq rl d a b)
    match fld w 27 5 with
    | 0x02 => if fld w 20 5 == 0 then .ok (.lr dbl aq rl d a) else .error 0x07
    | 0x03 => .ok (.sc dbl aq rl d a b)
    | 0x01 => am .swap | 0x00 => am .add | 0x04 => am .xor | 0x0C => am .and | 0x08 => am .or
    | 0x10 => am .min | 0x14 => am .max | 0x18 => am .minu | 0x1C => am .maxu
    | 0x05 => .ok (if dbl then .amocasD aq rl d a b else .amocasW aq rl d a b)
    | _ => .error 0x07
  | _ => .error 0x07

/-- Words of opcode SYSTEM (R11, R12, R102). -/
def decodeSystem (w : Nat) : Dec :=
  let d := reg w 7; let n := bits 12 w 20
  match fld w 12 3 with
  | 1 => .ok (.csrrw n d (reg w 15)) | 2 => .ok (.csrrs n d (reg w 15)) | 3 => .ok (.csrrc n d (reg w 15))
  | 5 => .ok (.csrrwi n d (bits 5 w 15)) | 6 => .ok (.csrrsi n d (bits 5 w 15)) | 7 => .ok (.csrrci n d (bits 5 w 15))
  | 0 =>
    if fld w 25 7 = 0x09 ∧ fld w 7 5 = 0 then .error 0x02                  -- SFENCE.VMA
    else if fld w 7 13 = 0 then
      match fld w 20 12 with
      | 0x000 => .ok .ecall | 0x001 => .ok .ebreak
      | 0x302 | 0x102 | 0x105 => .error 0x02                                 -- MRET, SRET, WFI
      | _ => .error 0x07
    else .error 0x07
  | _ => .error 0x07

/-- Words of opcode BRANCH. -/
def decodeBranch (w : Nat) : Dec :=
  let i : BitVec 12 := BitVec.ofNat 12 (fld w 8 4 + fld w 25 6 * 2 ^ 4 + fld w 7 1 * 2 ^ 10 + fld w 31 1 * 2 ^ 11)
  let br (c : BranchCond) : Dec := .ok (.branch c (reg w 15) (reg w 20) i)
  match fld w 12 3 with
  | 0 => br .beq | 1 => br .bne | 4 => br .blt | 5 => br .bge | 6 => br .bltu | 7 => br .bgeu
  | _ => .error 0x07

def decodeLoad (fp : Bool) (w : Nat) : Dec :=
  let ld (op : LoadOp) : Dec := .ok (.scalarLoad op (reg w 7) (reg w 15) (bits 12 w 20))
  match fp, fld w 12 3 with
  | false, 0 => ld .lb | false, 1 => ld .lh | false, 2 => ld .lw | false, 3 => ld .ld | false, 4 => ld .lbu | false, 5 => ld .lhu
  | false, 6 => ld .lwu | true, 2 => ld .flw | true, 3 => ld .fld
  | _, _ => .error 0x07

def decodeStore (fp : Bool) (w : Nat) : Dec :=
  let i : BitVec 12 := BitVec.ofNat 12 (fld w 7 5 + fld w 25 7 * 2 ^ 5)
  let st (op : StoreOp) : Dec := .ok (.scalarStore op (reg w 15) (reg w 20) i)
  match fp, fld w 12 3 with
  | false, 0 => st .sb | false, 1 => st .sh | false, 2 => st .sw | false, 3 => st .sd | true, 2 => st .fsw | true, 3 => st .fsd
  | _, _ => .error 0x07

/-- The NKX words of custom-0 (R91). -/
def decodeCustom0 (w : Nat) : Dec :=
  match fld w 12 3 with
  | 0 => zeros w [(7, 5)] (.wait (bits 12 w 20) (reg w 15))
  | 1 => zeros w [(7, 5)] (.loop (bits 12 w 20) (reg w 15))
  | 2 => zeros w [(7, 5), (25, 2)] (.jtab (reg w 27) (reg w 20) (reg w 15))
  | 3 =>
    match fld w 25 7 with
    | 0x00 => zeros w [(15, 10)] (.yield (reg w 7))
    | 0x01 => zeros w [(7, 5), (15, 10)] (.taskend)
    | _ => .error 0x07
  | 4 =>
    match fld w 25 7 with
    | 0x00 => .ok (.shwr (reg w 20) (reg w 15) (reg w 7))
    | 0x01 => zeros w [(20, 5)] (.shrd (reg w 15) (reg w 7))
    | 0x02 => zeros w [(15, 10)] (.shclr (reg w 7))
    | 0x03 => .ok (.shsw (reg w 20) (reg w 15) (reg w 7))
    | 0x04 => .ok (.shtag (reg w 20) (reg w 15) (reg w 7))
    | _ => .error 0x07
  | 5 =>
    match fld w 25 7 with
    | 0x00 => zeros w [(20, 5)] (.spawn (reg w 15) (reg w 7))
    | 0x01 => zeros w [(20, 5)] (.spawng (reg w 15) (reg w 7))
    | _ => .error 0x07
  | _ => .error 0x07

/-- The NKX words of custom-1 (R91). -/
def decodeCustom1 (w : Nat) : Dec :=
  match fld w 12 3 with
  | 0 =>
    match fld w 25 7 with
    | 0x00 => zeros w [(11, 1)] (.xlate (reg w 20) (reg w 15) (fin 16 w 7))
    | 0x01 => zeros w [(19, 1), (22, 3)] (.xprobe (fin 4 w 20) (fin 16 w 15) (reg w 7))
    | 0x02 => zeros w [(7, 5), (19, 6)] (.hrel (fin 16 w 15))
    | 0x03 => .ok (.hinv (reg w 20) (reg w 15) (reg w 7))
    | 0x04 => .ok (.splnt (reg w 20) (reg w 15) (reg w 7))
    | _ => .error 0x07
  | 1 =>
    match fld w 25 7 with
    | 0x00 => .ok (.amoBadd (reg w 20) (reg w 15) (reg w 7))
    | 0x01 => .ok (.amoTopk (reg w 20) (reg w 15) (reg w 7))
    | _ => .error 0x07
  | 2 =>
    match fld w 25 7 with
    | 0x00 => zeros w [(7, 5), (17, 3), (22, 3)] (.fenceS (fin 4 w 20) (fin 4 w 15))
    | 0x01 => zeros w [(20, 5)] (.acqp (reg w 15) (reg w 7))
    | _ => .error 0x07
  | 3 =>
    match fld w 25 7 with
    | 0x00 => .ok (.binit (reg w 20) (reg w 15) (reg w 7))
    | 0x01 => .ok (.barr (reg w 20) (reg w 15) (reg w 7))
    | 0x02 => .ok (.bwait (reg w 20) (reg w 15) (reg w 7))
    | 0x03 => zeros w [(20, 5)] (.barw (reg w 15) (reg w 7))
    | _ => .error 0x07
  | 4 =>
    match fld w 25 7 with
    | 0x00 => .ok (.pin (reg w 20) (reg w 15) (reg w 7))
    | 0x01 => zeros w [(20, 5)] (.unpin (reg w 15) (reg w 7))
    | 0x02 => .ok (.prefl2 (reg w 20) (reg w 15) (reg w 7))
    | _ => .error 0x07
  | 5 =>
    match fld w 25 7 with
    | 0x00 => .ok (.bmode (reg w 20) (reg w 15) (reg w 7))
    | 0x01 => .ok (.binset (reg w 20) (reg w 15) (reg w 7))
    | 0x02 => zeros w [(20, 5)] (.binq (reg w 15) (reg w 7))
    | _ => .error 0x07
  | _ => .error 0x07

/-- The NKX words of custom-2 (R91). -/
def decodeCustom2 (w : Nat) : Dec :=
  match fld w 12 3 with
  | 0 =>
    match fld w 25 7 with
    | 0x00 => zeros w [(20, 5)] (.strmAdd (reg w 15) (reg w 7))
    | 0x01 => zeros w [(20, 5)] (.strmDel (reg w 15) (reg w 7))
    | _ => .error 0x07
  | _ => .error 0x07

/-- The NKX words of custom-3 (R91). -/
def decodeCustom3 (w : Nat) : Dec :=
  match fld w 12 3 with
  | 0 =>
    match fld w 25 7 with
    | 0x00 => zeros w [(7, 5), (20, 5)] (.trap (reg w 15))
    | 0x01 => zeros w [(7, 5), (15, 10)] (.tret)
    | 0x02 => zeros w [(7, 5), (15, 10)] (.halt)
    | _ => .error 0x07
  | 1 =>
    match fld w 25 7 with
    | 0x00 => zeros w [(20, 5)] (.banksw (reg w 15) (reg w 7))
    | 0x01 => zeros w [(7, 5)] (.ctxsave (reg w 20) (reg w 15))
    | 0x02 => zeros w [(7, 5)] (.ctxload (reg w 20) (reg w 15))
    | _ => .error 0x07
  | 2 =>
    match fld w 25 7 with
    | 0x00 => zeros w [(7, 5)] (.evpost (reg w 20) (reg w 15))
    | 0x01 => zeros w [(20, 5)] (.rdtime (reg w 15) (reg w 7))
    | _ => .error 0x07
  | _ => .error 0x07

/-- The scalar slot word (R9, R11, R86, R91, R92). -/
def decodeS (w : Nat) : Dec :=
  if fld w 0 2 ≠ 3 then .error 0x01 else
  match fld w 0 7 with
  | 0x33 => decodeOp false w | 0x3B => decodeOp true w | 0x13 => decodeOpImm false w | 0x1B => decodeOpImm true w
  | 0x37 => .ok (.scalarAlu (.lui (reg w 7) (bits 20 w 12))) | 0x17 => .ok (.scalarAlu (.auipc (reg w 7) (bits 20 w 12)))
  | 0x6F => .ok (.jal (reg w 7) (BitVec.ofNat 20 (fld w 21 10 + fld w 20 1 * 2 ^ 10 + fld w 12 8 * 2 ^ 11 + fld w 31 1 * 2 ^ 19)))
  | 0x67 => if fld w 12 3 = 0 then .ok (.jalr (reg w 7) (reg w 15) (bits 12 w 20)) else .error 0x07
  | 0x63 => decodeBranch w
  | 0x03 => decodeLoad false w | 0x07 => decodeLoad true w | 0x23 => decodeStore false w | 0x27 => decodeStore true w
  | 0x2F => decodeAmo w | 0x73 => decodeSystem w | 0x53 => decodeFp w
  | 0x43 => decodeFma .madd w | 0x47 => decodeFma .msub w | 0x4B => decodeFma .nmsub w | 0x4F => decodeFma .nmadd w
  | 0x0F =>
    match fld w 12 3 with
    | 0 => .ok (.fence (fin 16 w 28) (fin 16 w 24) (fin 16 w 20))
    | 1 => .ok .fenceI
    | _ => .error 0x07
  | 0x0B => decodeCustom0 w | 0x2B => decodeCustom1 w | 0x5B => decodeCustom2 w | 0x7B => decodeCustom3 w
  | _ => .error 0x07

/-! ## The vector slots (R82, R88) -/

/-- V-OPs 0x00 to 0x2F. -/
def decodeVInt (w : Nat) : Dec :=
  match fld w 25 7 with
  | 0x00 => zeros w [(0, 2), (5, 5)] (.vadd (reg w 20) (reg w 15) (reg w 10) (fin 8 w 2))
  | 0x01 => zeros w [(0, 2), (5, 5)] (.vaddLit (reg w 20) (reg w 15) (reg w 10) (fin 8 w 2))
  | 0x02 => zeros w [(0, 2), (5, 5)] (.vsub (reg w 20) (reg w 15) (reg w 10) (fin 8 w 2))
  | 0x03 => zeros w [(0, 2), (5, 5)] (.vsubLit (reg w 20) (reg w 15) (reg w 10) (fin 8 w 2))
  | 0x04 => zeros w [(0, 2), (5, 5)] (.vmul (reg w 20) (reg w 15) (reg w 10) (fin 8 w 2))
  | 0x05 => zeros w [(0, 2), (5, 5)] (.vmulLit (reg w 20) (reg w 15) (reg w 10) (fin 8 w 2))
  | 0x06 => zeros w [(0, 2), (5, 5)] (.vmulh (reg w 20) (reg w 15) (reg w 10) (fin 8 w 2))
  | 0x07 => zeros w [(0, 2), (5, 5)] (.vmulhu (reg w 20) (reg w 15) (reg w 10) (fin 8 w 2))
  | 0x08 => zeros w [(0, 2)] (.vmadd (reg w 20) (reg w 15) (reg w 10) (reg w 5) (fin 8 w 2))
  | 0x09 => zeros w [(0, 2)] (.vmaddLit (reg w 20) (reg w 15) (reg w 10) (reg w 5) (fin 8 w 2))
  | 0x0A => zeros w [(0, 2), (5, 5)] (.vaddsat (reg w 20) (reg w 15) (reg w 10) (fin 8 w 2))
  | 0x0B => zeros w [(0, 2), (5, 5)] (.vsubsat (reg w 20) (reg w 15) (reg w 10) (fin 8 w 2))
  | 0x0C => zeros w [(0, 2), (5, 5)] (.vaddsatu (reg w 20) (reg w 15) (reg w 10) (fin 8 w 2))
  | 0x0D => zeros w [(0, 2), (5, 5)] (.vsubsatu (reg w 20) (reg w 15) (reg w 10) (fin 8 w 2))
  | 0x0E => zeros w [(0, 2), (5, 10)] (.vabs (reg w 20) (reg w 15) (fin 8 w 2))
  | 0x0F => zeros w [(0, 2), (5, 10)] (.vneg (reg w 20) (reg w 15) (fin 8 w 2))
  | 0x10 => zeros w [(0, 2), (5, 5)] (.vmin (reg w 20) (reg w 15) (reg w 10) (fin 8 w 2))
  | 0x11 => zeros w [(0, 2), (5, 5)] (.vminLit (reg w 20) (reg w 15) (reg w 10) (fin 8 w 2))
  | 0x12 => zeros w [(0, 2), (5, 5)] (.vmax (reg w 20) (reg w 15) (reg w 10) (fin 8 w 2))
  | 0x13 => zeros w [(0, 2), (5, 5)] (.vmaxLit (reg w 20) (reg w 15) (reg w 10) (fin 8 w 2))
  | 0x14 => zeros w [(0, 2), (5, 5)] (.vminu (reg w 20) (reg w 15) (reg w 10) (fin 8 w 2))
  | 0x15 => zeros w [(0, 2), (5, 5)] (.vmaxu (reg w 20) (reg w 15) (reg w 10) (fin 8 w 2))
  | 0x16 => zeros w [(0, 2), (5, 5)] (.vand (reg w 20) (reg w 15) (reg w 10) (fin 8 w 2))
  | 0x17 => zeros w [(0, 2), (5, 5)] (.vandLit (reg w 20) (reg w 15) (reg w 10) (fin 8 w 2))
  | 0x18 => zeros w [(0, 2), (5, 5)] (.vor (reg w 20) (reg w 15) (reg w 10) (fin 8 w 2))
  | 0x19 => zeros w [(0, 2), (5, 5)] (.vorLit (reg w 20) (reg w 15) (reg w 10) (fin 8 w 2))
  | 0x1A => zeros w [(0, 2), (5, 5)] (.vxor (reg w 20) (reg w 15) (reg w 10) (fin 8 w 2))
  | 0x1B => zeros w [(0, 2), (5, 5)] (.vxorLit (reg w 20) (reg w 15) (reg w 10) (fin 8 w 2))
  | 0x1C => zeros w [(0, 2), (5, 5)] (.vandn (reg w 20) (reg w 15) (reg w 10) (fin 8 w 2))
  | 0x1D => zeros w [(0, 2), (5, 10)] (.vnot (reg w 20) (reg w 15) (fin 8 w 2))
  | 0x1E => zeros w [(0, 2), (5, 5)] (.vshl (reg w 20) (reg w 15) (reg w 10) (fin 8 w 2))
  | 0x1F => zeros w [(0, 2), (5, 5)] (.vshlLit (reg w 20) (reg w 15) (reg w 10) (fin 8 w 2))
  | 0x20 => zeros w [(0, 2), (5, 5)] (.vshr (reg w 20) (reg w 15) (reg w 10) (fin 8 w 2))
  | 0x21 => zeros w [(0, 2), (5, 5)] (.vshrLit (reg w 20) (reg w 15) (reg w 10) (fin 8 w 2))
  | 0x22 => zeros w [(0, 2), (5, 5)] (.vsra (reg w 20) (reg w 15) (reg w 10) (fin 8 w 2))
  | 0x23 => zeros w [(0, 2), (5, 5)] (.vsraLit (reg w 20) (reg w 15) (reg w 10) (fin 8 w 2))
  | 0x24 => zeros w [(0, 2), (5, 5)] (.vrol (reg w 20) (reg w 15) (reg w 10) (fin 8 w 2))
  | 0x25 => zeros w [(0, 2), (5, 5)] (.vror (reg w 20) (reg w 15) (reg w 10) (fin 8 w 2))
  | 0x26 => zeros w [(0, 2), (5, 10)] (.vclz (reg w 20) (reg w 15) (fin 8 w 2))
  | 0x27 => zeros w [(0, 2), (5, 10)] (.vpopc (reg w 20) (reg w 15) (fin 8 w 2))
  | 0x28 => zeros w [(0, 2), (8, 2), (23, 2)] (.vcmp (fin 8 w 20) (reg w 15) (reg w 10) (fin 8 w 5) (fin 8 w 2))
  | 0x29 => zeros w [(0, 2), (8, 2), (23, 2)] (.vcmpLit (fin 8 w 20) (reg w 15) (reg w 10) (fin 8 w 5) (fin 8 w 2))
  | 0x2A => zeros w [(0, 2), (8, 2), (23, 2)] (.vcmpu (fin 8 w 20) (reg w 15) (reg w 10) (fin 8 w 5) (fin 8 w 2))
  | 0x2B => zeros w [(0, 2), (5, 5)] (.vsel (reg w 20) (reg w 15) (reg w 10) (fin 8 w 2))
  | 0x2C => zeros w [(0, 2), (5, 10)] (.vmov (reg w 20) (reg w 15) (fin 8 w 2))
  | 0x2D => zeros w [(0, 2), (9, 1), (15, 5)] (.vbcast (reg w 20) (reg w 10) (tagAt w 5) (fin 8 w 2))
  | 0x2E => zeros w [(5, 15)] (.vlaneid (reg w 20) (fin 8 w 2) (fin 4 w 0))
  | _ => .error 0x03

/-- V-OPs 0x30 to 0x4F. -/
def decodeVFp (w : Nat) : Dec :=
  match fld w 25 7 with
  | 0x30 => zeros w [(5, 5)] (.vfadd (reg w 20) (reg w 15) (reg w 10) (fin 8 w 2) (rndAt w))
  | 0x31 => zeros w [(5, 5)] (.vfaddLit (reg w 20) (reg w 15) (reg w 10) (fin 8 w 2) (rndAt w))
  | 0x32 => zeros w [(5, 5)] (.vfsub (reg w 20) (reg w 15) (reg w 10) (fin 8 w 2) (rndAt w))
  | 0x33 => zeros w [(5, 5)] (.vfsubLit (reg w 20) (reg w 15) (reg w 10) (fin 8 w 2) (rndAt w))
  | 0x34 => zeros w [(5, 5)] (.vfmul (reg w 20) (reg w 15) (reg w 10) (fin 8 w 2) (rndAt w))
  | 0x35 => zeros w [(5, 5)] (.vfmulLit (reg w 20) (reg w 15) (reg w 10) (fin 8 w 2) (rndAt w))
  | 0x36 => .ok (.vfma (reg w 20) (reg w 15) (reg w 10) (reg w 5) (fin 8 w 2) (rndAt w))
  | 0x37 => .ok (.vfmaLit (reg w 20) (reg w 15) (reg w 10) (reg w 5) (fin 8 w 2) (rndAt w))
  | 0x38 => .ok (.vfms (reg w 20) (reg w 15) (reg w 10) (reg w 5) (fin 8 w 2) (rndAt w))
  | 0x39 => .ok (.vfnma (reg w 20) (reg w 15) (reg w 10) (reg w 5) (fin 8 w 2) (rndAt w))
  | 0x3A => .ok (.vfnms (reg w 20) (reg w 15) (reg w 10) (reg w 5) (fin 8 w 2) (rndAt w))
  | 0x3B => zeros w [(0, 2), (5, 5)] (.vfmin (reg w 20) (reg w 15) (reg w 10) (fin 8 w 2))
  | 0x3C => zeros w [(0, 2), (5, 5)] (.vfmax (reg w 20) (reg w 15) (reg w 10) (fin 8 w 2))
  | 0x3D => zeros w [(0, 2), (5, 10)] (.vfabs (reg w 20) (reg w 15) (fin 8 w 2))
  | 0x3E => zeros w [(0, 2), (5, 10)] (.vfneg (reg w 20) (reg w 15) (fin 8 w 2))
  | 0x3F => zeros w [(0, 2), (8, 2), (23, 2)] (.vfcmp (fin 8 w 20) (reg w 15) (reg w 10) (fin 8 w 5) (fin 8 w 2))
  | 0x40 => zeros w [(0, 2), (5, 10)] (.vfclass (reg w 20) (reg w 15) (fin 8 w 2))
  | 0x41 => zeros w [(5, 10)] (.vrcp (reg w 20) (reg w 15) (fin 8 w 2) (rndAt w))
  | 0x42 => zeros w [(5, 10)] (.vrsq (reg w 20) (reg w 15) (fin 8 w 2) (rndAt w))
  | 0x43 => zeros w [(5, 10)] (.vsqrt (reg w 20) (reg w 15) (fin 8 w 2) (rndAt w))
  | 0x44 => zeros w [(5, 5)] (.vdiv (reg w 20) (reg w 15) (reg w 10) (fin 8 w 2) (rndAt w))
  | 0x45 => zeros w [(5, 10)] (.vexp2 (reg w 20) (reg w 15) (fin 8 w 2) (rndAt w))
  | 0x46 => zeros w [(5, 10)] (.vlog2 (reg w 20) (reg w 15) (fin 8 w 2) (rndAt w))
  | 0x47 => zeros w [(0, 2), (5, 10)] (.vredadd (reg w 20) (reg w 15) (fin 8 w 2))
  | 0x48 => zeros w [(0, 2), (5, 10)] (.vredmax (reg w 20) (reg w 15) (fin 8 w 2))
  | 0x49 => zeros w [(0, 2), (5, 10)] (.vredmin (reg w 20) (reg w 15) (fin 8 w 2))
  | 0x4A => zeros w [(0, 2), (5, 10)] (.vrediadd (reg w 20) (reg w 15) (fin 8 w 2))
  | 0x4B => zeros w [(0, 2), (5, 10)] (.vredimax (reg w 20) (reg w 15) (fin 8 w 2))
  | 0x4C => zeros w [(0, 2), (5, 10)] (.vredimin (reg w 20) (reg w 15) (fin 8 w 2))
  | 0x4D => zeros w [(0, 2), (8, 2), (23, 2)] (.vfcmpLit (fin 8 w 20) (reg w 15) (reg w 10) (fin 8 w 5) (fin 8 w 2))
  | _ => .error 0x03

/-- V-OPs 0x50 to 0x7F. -/
def decodeVMove (w : Nat) : Dec :=
  match fld w 25 7 with
  | 0x50 => zeros w [(9, 1), (14, 1)] (.vcvt (reg w 20) (reg w 15) (fin 16 w 10) (tagAt w 5) (fin 8 w 2) (rndAt w))
  | 0x51 => zeros w [(9, 1), (14, 1)] (.vcvtsat (reg w 20) (reg w 15) (fin 16 w 10) (tagAt w 5) (fin 8 w 2) (rndAt w))
  | 0x52 => zeros w [(0, 2), (5, 5)] (.vqnt4 (reg w 20) (reg w 15) (reg w 10) (fin 8 w 2))
  | 0x53 => zeros w [(0, 2), (9, 1), (13, 2)] (.vdqnt4 (reg w 20) (reg w 15) (fin 8 w 10) (tagAt w 5) (fin 8 w 2))
  | 0x54 => zeros w [(0, 2), (5, 5)] (.vpack (reg w 20) (reg w 15) (reg w 10) (fin 8 w 2))
  | 0x55 => zeros w [(0, 2), (5, 10)] (.vunpacklo (reg w 20) (reg w 15) (fin 8 w 2))
  | 0x56 => zeros w [(0, 2), (5, 10)] (.vunpackhi (reg w 20) (reg w 15) (fin 8 w 2))
  | 0x57 => zeros w [(0, 2), (5, 5)] (.vperm (reg w 20) (reg w 15) (reg w 10) (fin 8 w 2))
  | 0x58 => zeros w [(0, 2)] (.vslide (reg w 20) (reg w 15) (reg w 10) (reg w 5) (fin 8 w 2))
  | 0x59 => zeros w [(0, 2)] (.vslideLit (reg w 20) (reg w 15) (reg w 10) (reg w 5) (fin 8 w 2))
  | 0x5A => zeros w [(1, 1), (5, 5)] (.vzip (reg w 20) (reg w 15) (reg w 10) (fin 8 w 2) (fin 2 w 0))
  | 0x5B => zeros w [(1, 1), (5, 5)] (.vunzip (reg w 20) (reg w 15) (reg w 10) (fin 8 w 2) (fin 2 w 0))
  | 0x60 => zeros w [(0, 2), (9, 1)] (.vld (reg w 20) (reg w 15) (reg w 10) (tagAt w 5) (fin 8 w 2))
  | 0x61 => zeros w [(0, 2), (5, 5)] (.vst (reg w 20) (reg w 15) (reg w 10) (fin 8 w 2))
  | 0x62 => zeros w [(0, 2), (9, 1)] (.vlds (reg w 20) (reg w 15) (reg w 10) (tagAt w 5) (fin 8 w 2))
  | 0x63 => zeros w [(0, 2), (5, 5)] (.vsts (reg w 20) (reg w 15) (reg w 10) (fin 8 w 2))
  | 0x64 => zeros w [(0, 2), (9, 1)] (.vldg (reg w 20) (reg w 15) (reg w 10) (tagAt w 5) (fin 8 w 2))
  | 0x65 => zeros w [(0, 2), (5, 5)] (.vstsc (reg w 20) (reg w 15) (reg w 10) (fin 8 w 2))
  | 0x68 => zeros w [(5, 10)] (.nsh (reg w 20) (reg w 15) (fin 8 w 2) (fin 4 w 0))
  | 0x69 => zeros w [(5, 10)] (.nshr (reg w 20) (reg w 15) (fin 8 w 2) (fin 4 w 0))
  | 0x6C => .ok (.vldx (reg w 20) (reg w 15) (reg w 10) (reg w 5) (fin 8 w 2) (fin 4 w 0))
  | 0x6D => .ok (.vstx (reg w 20) (reg w 15) (reg w 10) (reg w 5) (fin 8 w 2) (fin 4 w 0))
  | 0x6E => .ok (.vldxg (reg w 20) (reg w 15) (reg w 10) (reg w 5) (fin 8 w 2) (fin 4 w 0))
  | 0x6F => .ok (.vstxs (reg w 20) (reg w 15) (reg w 10) (reg w 5) (fin 8 w 2) (fin 4 w 0))
  | 0x70 => zeros w [(0, 2)] (.vamoadd (reg w 20) (reg w 15) (reg w 10) (reg w 5) (fin 8 w 2))
  | 0x71 => zeros w [(0, 5), (8, 12)] (.vpush (reg w 20) (fin 8 w 5))
  | 0x72 => zeros w [(0, 5), (8, 12)] (.vpop (reg w 20) (fin 8 w 5))
  | 0x73 =>
    match fld w 0 2 with
    | 0 => zeros w [(7, 8)] (.vacr (reg w 20) (reg w 15) (fin 4 w 5) (fin 8 w 2))
    | 1 => zeros w [(7, 3), (11, 4)] (.vacrD (reg w 20) (reg w 15) (fin 2 w 10) (fin 4 w 5) (fin 8 w 2))
    | 2 => zeros w [(7, 13)] (.vacrSt (reg w 20) (fin 4 w 5) (fin 8 w 2))
    | _ => .error 0x08
  | 0x74 =>
    match fld w 0 2 with
    | 0 => zeros w [(7, 8)] (.vacw (reg w 20) (reg w 15) (fin 4 w 5) (fin 8 w 2))
    | 1 => zeros w [(7, 3), (11, 4)] (.vacwD (reg w 20) (reg w 15) (fin 2 w 10) (fin 4 w 5) (fin 8 w 2))
    | _ => .error 0x08
  | 0x78 => zeros w [(0, 2), (9, 6)] (.vtagset (reg w 20) (reg w 15) (tagAt w 5) (fin 8 w 2))
  | 0x79 => zeros w [(0, 2), (5, 10)] (.vtagrd (reg w 20) (reg w 15) (fin 8 w 2))
  | 0x7A =>
    match fld w 0 2 with
    | 0 => zeros w [(5, 10)] (.vres (reg w 20) (reg w 15) (fin 8 w 2))
    | 1 => zeros w [(10, 5)] (.vresAcc (reg w 20) (reg w 15) (reg w 5) (fin 8 w 2))
    | _ => .error 0x08
  | 0x7B => zeros w [(0, 5), (8, 2), (13, 2), (18, 2), (23, 2)] (.vmsk (fin 8 w 20) (fin 8 w 15) (fin 8 w 10) (fin 8 w 5))
  | 0x7C => zeros w [(0, 2), (5, 10), (18, 2)] (.vmpopc (reg w 20) (fin 8 w 15) (fin 8 w 2))
  | 0x7D => zeros w [(0, 2), (5, 10), (18, 2)] (.vmfirst (reg w 20) (fin 8 w 15) (fin 8 w 2))
  | 0x7E =>
    match fld w 0 2 with
    | 0 => zeros w [(2, 8), (15, 5), (23, 2)] (.vmset (fin 8 w 20) (reg w 10))
    | 1 => zeros w [(2, 13), (23, 2)] (.vmsetNz (fin 8 w 20) (reg w 15))
    | _ => .error 0x08
  | _ => .error 0x03

/-- A vector slot word. -/
def decodeV (w : Nat) : Dec :=
  Dec.checked (match fld w 25 7 / 16 with
    | 0 | 1 | 2 => decodeVInt w
    | 3 | 4 => decodeVFp w
    | _ => decodeVMove w)

/-! ## The matrix slot (R83, R89, R208) -/

/-- A matrix slot word. -/
def decodeM (w : Nat) : Dec :=
  match fld w 28 4 with
  | 0x0 => zeros w [(0, 28)] (.mnop)
  | 0x1 => zeros w [(0, 7), (8, 8)] (.mac (fin 4 w 26) (fin 8 w 23) (fin 4 w 21) (fin 4 w 19) (fin 8 w 16) (flag w 7))
  | 0x2 => zeros w [(0, 7), (8, 8)] (.macz (fin 4 w 26) (fin 8 w 23) (fin 4 w 21) (fin 4 w 19) (fin 8 w 16) (flag w 7))
  | 0x3 => zeros w [(0, 7), (8, 8)] (.mwin (fin 4 w 26) (fin 8 w 23) (fin 4 w 21) (fin 4 w 19) (fin 8 w 16) (flag w 7))
  | 0x4 => zeros w [(0, 7), (16, 3), (27, 1)] (.mdrain (fin 2 w 26) (fin 8 w 23) (fin 4 w 21) (fin 4 w 19) (reg w 11) (fin 8 w 8) (flag w 7))
  | 0x5 => zeros w [(0, 7), (16, 3), (27, 1)] (.mdrainz (fin 2 w 26) (fin 8 w 23) (fin 4 w 21) (fin 4 w 19) (reg w 11) (fin 8 w 8) (flag w 7))
  | 0x6 => zeros w [(0, 11), (19, 7)] (.mlatch (fin 4 w 26) (fin 8 w 16) (reg w 11))
  | 0x7 => zeros w [(0, 8), (11, 10), (23, 5)] (.mzero (fin 4 w 21) (fin 8 w 8))
  | _ => .error 0x04

/-! ## The copy slots (R84, R90, R371) -/

/-- The completion part and the ACQ and REL bits (R371). -/
def complAt (w : Nat) : Compl :=
  { xr := reg w 27, xb := reg w 22, xg := reg w 17, acq := flag w 34, rel := flag w 33 }

/-- The operands of two handles and a third register. -/
def engAt (w : Nat) : EngArgs :=
  { hs := fin 16 w 54, hd := fin 16 w 50, xs := reg w 45, xd := reg w 40, xn := reg w 35, f := complAt w }

/-- A side of a copy from its kind field and its handle field; reserved kinds, and a handle named beside core SRAM, raise 0x08
(R372, R85). -/
def sideAt (k h : Nat) : Option Side :=
  match k with
  | 0 => some (.handle (Fin.ofNat 16 h))
  | 1 => if h = 0 then some .sram else none
  | _ => none

/-- The operands of CPY and CPY2D (R371, R372). -/
def copyAt (w : Nat) : Option CopyArgs :=
  match sideAt (fld w 0 2) (fld w 54 4), sideAt (fld w 2 2) (fld w 50 4) with
  | some s, some d =>
    some { src := s, dst := d, xs := reg w 45, xd := reg w 40, xn := reg w 35, hint := fin 4 w 4, f := complAt w }
  | _, _ => none

/-- A copy slot, its lower-addressed word in bits 31..0. -/
def decodeC (w : Nat) : Dec :=
  Dec.checked (match fld w 58 6 with
    | 0x00 =>
      match copyAt w with
      | some x => zeros w [(10, 7)] (.cpy x (tagAt w 6) (flag w 32))
      | none => .error 0x08
    | 0x01 =>
      match copyAt w with
      | some x => zeros w [(6, 11), (32, 1)] (.cpy2d x)
      | none => .error 0x08
    | 0x02 => zeros w [(0, 4), (6, 11), (32, 1), (50, 4)]
        (.cpyg (fin 16 w 54) (reg w 45) (reg w 40) (reg w 35) (fin 4 w 4) (complAt w))
    | 0x03 => zeros w [(0, 4), (6, 11), (32, 1), (54, 4)]
        (.cpys (fin 16 w 50) (reg w 45) (reg w 40) (reg w 35) (fin 4 w 4) (complAt w))
    | 0x10 =>
      match sideAt (fld w 0 2) (fld w 54 4) with
      | some s => zeros w [(16, 1), (32, 1), (35, 5), (40, 5), (50, 4)]
          (.cpyl s (reg w 45) (fin 4 w 2) (bits 8 w 4) (tagAt w 12) (complAt w))
      | none => .error 0x08
    | 0x11 => zeros w [(8, 9), (32, 1), (50, 4)]
        (.cpysh (fin 16 w 54) (reg w 45) (reg w 40) (reg w 35) (bits 8 w 0) (complAt w))
    | 0x12 =>
      match sideAt (fld w 0 2) (fld w 54 4) with
      | some s => zeros w [(5, 12), (32, 1), (40, 5), (50, 4)] (.cpybin s (reg w 45) (reg w 35) (fin 8 w 2) (complAt w))
      | none => .error 0x08
    | 0x18 => zeros w [(0, 17), (32, 1)] (.route (engAt w))
    | 0x19 => zeros w [(0, 17), (32, 1)] (.routec (engAt w))
    | 0x20 => zeros w [(0, 17)] (.red (engAt w) (flag w 32))
    | 0x21 => zeros w [(0, 17)] (.bcast (engAt w) (flag w 32))
    | 0x22 => zeros w [(0, 17)] (.agath (engAt w) (flag w 32))
    | 0x23 => zeros w [(5, 27), (32, 3)]
        (.sealck (fin 16 w 54) (fin 16 w 50) (reg w 45) (reg w 40) (reg w 35) (tagAt w 0) (flag w 4))
    | 0x24 => zeros w [(4, 13), (32, 1)] (.sealgen (engAt w) (tagAt w 0))
    | 0x28 => zeros w [(0, 34), (35, 5), (50, 4)] (.exbind (fin 16 w 54) (reg w 45) (reg w 40) (flag w 34))
    | 0x29 => zeros w [(0, 17), (32, 1), (35, 5), (40, 5), (50, 4), (54, 4)] (.exfetch (reg w 45) (complAt w))
    | 0x2A => zeros w [(0, 17), (32, 1), (35, 5), (40, 5), (50, 4)] (.exrel (fin 16 w 54) (reg w 45) (complAt w))
    | 0x2B => zeros w [(1, 16), (32, 1), (35, 5), (40, 5), (50, 4), (54, 4)] (.expin (reg w 45) (flag w 0) (complAt w))
    | 0x2C => zeros w [(0, 34), (50, 4), (54, 4)] (.yarddrain (reg w 45) (reg w 40) (reg w 35) (flag w 34))
    | 0x30 => zeros w [(0, 40), (50, 4), (54, 4)] (.cwait (reg w 45) (reg w 40))
    | 0x31 => zeros w [(2, 56)] (.cfence (fin 4 w 0))
    | 0x32 => zeros w [(2, 38), (50, 4), (54, 4)] (.cstat (reg w 45) (reg w 40) (fin 4 w 0))
    | _ => .error 0x06)

/-- The word or words of one slot of a kind. -/
def decodeSlot (k : Kind) (w : Nat) : Dec :=
  match k with
  | .scalar => decodeS w
  | .vector => decodeV w
  | .matrix => decodeM w
  | .copy => decodeC w
  | .step => .error 0x07

/-! ## The encoder -/

def AluRR.enc : AluRR → Nat × Nat × Bool
  | .add => (0x00, 0, false) | .sub => (0x20, 0, false) | .sll => (0x00, 1, false) | .slt => (0x00, 2, false)
  | .sltu => (0x00, 3, false) | .xor => (0x00, 4, false) | .srl => (0x00, 5, false) | .sra => (0x20, 5, false)
  | .or => (0x00, 6, false) | .and => (0x00, 7, false)
  | .addw => (0x00, 0, true) | .subw => (0x20, 0, true) | .sllw => (0x00, 1, true) | .srlw => (0x00, 5, true)
  | .sraw => (0x20, 5, true)
  | .addUw => (0x04, 0, true) | .sh1add => (0x10, 2, false) | .sh2add => (0x10, 4, false) | .sh3add => (0x10, 6, false)
  | .sh1addUw => (0x10, 2, true) | .sh2addUw => (0x10, 4, true) | .sh3addUw => (0x10, 6, true)
  | .andn => (0x20, 7, false) | .orn => (0x20, 6, false) | .xnor => (0x20, 4, false)
  | .max => (0x05, 6, false) | .maxu => (0x05, 7, false) | .min => (0x05, 4, false) | .minu => (0x05, 5, false)
  | .rol => (0x30, 1, false) | .ror => (0x30, 5, false) | .rolw => (0x30, 1, true) | .rorw => (0x30, 5, true)

/-- A word of the R-layout (R87). -/
def encR (f7 : Nat) (b a : Reg) (f3 : Nat) (d : Reg) (op : Nat) : Nat :=
  f7 * 2 ^ 25 + b.val * 2 ^ 20 + a.val * 2 ^ 15 + f3 * 2 ^ 12 + d.val * 2 ^ 7 + op
/-- A word of the I-layout (R87). -/
def encI (i : Nat) (a : Reg) (f3 : Nat) (d : Reg) (op : Nat) : Nat :=
  i * 2 ^ 20 + a.val * 2 ^ 15 + f3 * 2 ^ 12 + d.val * 2 ^ 7 + op

def encodeAlu : AluInstr → Nat
  | .rr op d a b => encR op.enc.1 b a op.enc.2.1 d (if op.enc.2.2 then 0x3B else 0x33)
  | .ri .addi d a i => encI i.toNat a 0 d 0x13 | .ri .slti d a i => encI i.toNat a 2 d 0x13
  | .ri .sltiu d a i => encI i.toNat a 3 d 0x13 | .ri .xori d a i => encI i.toNat a 4 d 0x13
  | .ri .ori d a i => encI i.toNat a 6 d 0x13 | .ri .andi d a i => encI i.toNat a 7 d 0x13
  | .ri .addiw d a i => encI i.toNat a 0 d 0x1B
  | .sh .slli d a n => encI n.toNat a 1 d 0x13 | .sh .srli d a n => encI n.toNat a 5 d 0x13
  | .sh .srai d a n => encI (0x400 + n.toNat) a 5 d 0x13 | .sh .rori d a n => encI (0x600 + n.toNat) a 5 d 0x13
  | .sh .slliUw d a n => encI (0x080 + n.toNat) a 1 d 0x1B
  | .shw .slliw d a n => encI n.toNat a 1 d 0x1B | .shw .srliw d a n => encI n.toNat a 5 d 0x1B
  | .shw .sraiw d a n => encI (0x400 + n.toNat) a 5 d 0x1B | .shw .roriw d a n => encI (0x600 + n.toNat) a 5 d 0x1B
  | .un .clz d a => encI 0x600 a 1 d 0x13 | .un .ctz d a => encI 0x601 a 1 d 0x13 | .un .cpop d a => encI 0x602 a 1 d 0x13
  | .un .clzw d a => encI 0x600 a 1 d 0x1B | .un .ctzw d a => encI 0x601 a 1 d 0x1B | .un .cpopw d a => encI 0x602 a 1 d 0x1B
  | .un .sextB d a => encI 0x604 a 1 d 0x13 | .un .sextH d a => encI 0x605 a 1 d 0x13 | .un .zextH d a => encI 0x080 a 4 d 0x3B
  | .un .orcB d a => encI 0x287 a 5 d 0x13 | .un .rev8 d a => encI 0x6B8 a 5 d 0x13
  | .lui d i => i.toNat * 2 ^ 12 + d.val * 2 ^ 7 + 0x37
  | .auipc d i => i.toNat * 2 ^ 12 + d.val * 2 ^ 7 + 0x17

def FInt.code : FInt → Reg
  | .w => 0 | .wu => 1 | .l => 2 | .lu => 3
def MulOp.code : MulOp → Nat × Nat
  | .mul => (0, 0x33) | .mulh => (1, 0x33) | .mulhsu => (2, 0x33) | .mulhu => (3, 0x33) | .mulw => (0, 0x3B)
def DivOp.code : DivOp → Nat × Nat
  | .div => (4, 0x33) | .divu => (5, 0x33) | .rem => (6, 0x33) | .remu => (7, 0x33)
  | .divw => (4, 0x3B) | .divuw => (5, 0x3B) | .remw => (6, 0x3B) | .remuw => (7, 0x3B)
def FArith.code : FArith → Nat
  | .add => 0 | .sub => 1 | .mul => 2 | .div => 3
def FFma.code : FFma → Nat
  | .madd => 0x43 | .msub => 0x47 | .nmsub => 0x4B | .nmadd => 0x4F
def FSgn.code : FSgn → Nat
  | .j => 0 | .jn => 1 | .jx => 2
def FCmp.code : FCmp → Nat
  | .le => 0 | .lt => 1 | .eq => 2

def encodeFp : FpInstr → Nat
  | .arith op dbl rm d a b => encR (op.code * 4 + dbl.toNat) b a rm.code d 0x53
  | .sqrt dbl rm d a => encR (0x0B * 4 + dbl.toNat) 0 a rm.code d 0x53
  | .fma op dbl rm d a b c => encR (c.val * 4 + dbl.toNat) b a rm.code d op.code
  | .sgn op dbl d a b => encR (0x04 * 4 + dbl.toNat) b a op.code d 0x53
  | .minmax mx dbl d a b => encR (0x05 * 4 + dbl.toNat) b a mx.toNat d 0x53
  | .cmp op dbl d a b => encR (0x14 * 4 + dbl.toNat) b a op.code d 0x53
  | .fclass dbl d a => encR (0x1C * 4 + dbl.toNat) 0 a 1 d 0x53
  | .toInt t dbl rm d a => encR (0x18 * 4 + dbl.toNat) t.code a rm.code d 0x53
  | .ofInt t dbl rm d a => encR (0x1A * 4 + dbl.toNat) t.code a rm.code d 0x53
  | .cvt toDbl rm d a => encR (0x08 * 4 + toDbl.toNat) (if toDbl then 0 else 1) a rm.code d 0x53
  | .mvToX dbl d a => encR (0x1C * 4 + dbl.toNat) 0 a 0 d 0x53
  | .mvOfX dbl d a => encR (0x1E * 4 + dbl.toNat) 0 a 0 d 0x53

def LoadOp.code : LoadOp → Nat × Nat
  | .lb => (0, 0x03) | .lh => (1, 0x03) | .lw => (2, 0x03) | .ld => (3, 0x03) | .lbu => (4, 0x03) | .lhu => (5, 0x03)
  | .lwu => (6, 0x03) | .flw => (2, 0x07) | .fld => (3, 0x07)
def StoreOp.code : StoreOp → Nat × Nat
  | .sb => (0, 0x23) | .sh => (1, 0x23) | .sw => (2, 0x23) | .sd => (3, 0x23) | .fsw => (2, 0x27) | .fsd => (3, 0x27)
def BranchCond.code : BranchCond → Nat
  | .beq => 0 | .bne => 1 | .blt => 4 | .bge => 5 | .bltu => 6 | .bgeu => 7
def AmoOp.code : AmoOp → Nat
  | .swap => 0x01 | .add => 0x00 | .xor => 0x04 | .and => 0x0C | .or => 0x08 | .min => 0x10 | .max => 0x14 | .minu => 0x18
  | .maxu => 0x1C

/-- A word of opcode AMO. -/
def encA (f5 : Nat) (aq rl : Bool) (b a : Reg) (dbl : Bool) (d : Reg) : Nat :=
  encR (f5 * 4 + aq.toNat * 2 + rl.toNat) b a (if dbl then 3 else 2) d 0x2F

/-- The fields common to ticketed commands. -/
def encCompl (f : Compl) : Nat :=
  f.xr.val * 2 ^ 27 + f.xb.val * 2 ^ 22 + f.xg.val * 2 ^ 17 + f.acq.toNat * 2 ^ 34 + f.rel.toNat * 2 ^ 33
def encEng (x : EngArgs) : Nat :=
  x.hs.val * 2 ^ 54 + x.hd.val * 2 ^ 50 + x.xs.val * 2 ^ 45 + x.xd.val * 2 ^ 40 + x.xn.val * 2 ^ 35 + encCompl x.f
def Side.kind : Side → Nat
  | .handle _ => 0 | .sram => 1
def Side.reg : Side → Nat
  | .handle h => h.val | .sram => 0
def encCopy (x : CopyArgs) : Nat :=
  x.src.reg * 2 ^ 54 + x.dst.reg * 2 ^ 50 + x.xs.val * 2 ^ 45 + x.xd.val * 2 ^ 40 + x.xn.val * 2 ^ 35 + encCompl x.f
    + x.src.kind + x.dst.kind * 2 ^ 2 + x.hint.val * 2 ^ 4

/-- Fields put together: the constant bits, and each field's value at its low bit. -/
def pack (base : Nat) (fs : List (Nat × Nat)) : Nat := fs.foldl (fun w f => w + f.2 * 2 ^ f.1) base

/-- The words of the RISC-V rows and of the NKX rows of the S slot. -/
def encodeScalar : Instr → Nat
  | .scalarAlu op => encodeAlu op
  | .scalarMul op d a b => encR 1 b a op.code.1 d op.code.2
  | .scalarDiv op d a b => encR 1 b a op.code.1 d op.code.2
  | .scalarFp op => encodeFp op
  | .scalarLoad w d a i => encI i.toNat a w.code.1 d w.code.2
  | .scalarStore w a b i => (i.toNat / 2 ^ 5) * 2 ^ 25 + b.val * 2 ^ 20 + a.val * 2 ^ 15 + w.code.1 * 2 ^ 12 + (i.toNat % 2 ^ 5) * 2 ^ 7 + w.code.2
  | .branch c a b i => fld i.toNat 11 1 * 2 ^ 31 + fld i.toNat 4 6 * 2 ^ 25 + b.val * 2 ^ 20 + a.val * 2 ^ 15 + c.code * 2 ^ 12
      + fld i.toNat 0 4 * 2 ^ 8 + fld i.toNat 10 1 * 2 ^ 7 + 0x63
  | .jal d i => fld i.toNat 19 1 * 2 ^ 31 + fld i.toNat 0 10 * 2 ^ 21 + fld i.toNat 10 1 * 2 ^ 20 + fld i.toNat 11 8 * 2 ^ 12 + d.val * 2 ^ 7 + 0x6F
  | .jalr d a i => encI i.toNat a 0 d 0x67
  | .lr dbl aq rl d a => encA 0x02 aq rl 0 a dbl d
  | .sc dbl aq rl d a b => encA 0x03 aq rl b a dbl d
  | .amo op dbl aq rl d a b => encA op.code aq rl b a dbl d
  | .amocasW aq rl d a b => encA 0x05 aq rl b a false d
  | .amocasD aq rl d a b => encA 0x05 aq rl b a true d
  | .fence fm p sl => fm.val * 2 ^ 28 + p.val * 2 ^ 24 + sl.val * 2 ^ 20 + 0x0F
  | .fenceI  => 0x100F
  | .ecall  => 0x00000073
  | .ebreak  => 0x00100073
  | .csrrw n d a => encI n.toNat a 1 d 0x73
  | .csrrs n d a => encI n.toNat a 2 d 0x73
  | .csrrc n d a => encI n.toNat a 3 d 0x73
  | .csrrwi n d u => n.toNat * 2 ^ 20 + u.toNat * 2 ^ 15 + 5 * 2 ^ 12 + d.val * 2 ^ 7 + 0x73
  | .csrrsi n d u => n.toNat * 2 ^ 20 + u.toNat * 2 ^ 15 + 6 * 2 ^ 12 + d.val * 2 ^ 7 + 0x73
  | .csrrci n d u => n.toNat * 2 ^ 20 + u.toNat * 2 ^ 15 + 7 * 2 ^ 12 + d.val * 2 ^ 7 + 0x73
  | .wait i a => pack 0x0000000B [(20, i.toNat), (15, a.val)]
  | .loop i a => pack 0x0000100B [(20, i.toNat), (15, a.val)]
  | .jtab c b a => pack 0x0000200B [(27, c.val), (20, b.val), (15, a.val)]
  | .yield d => pack 0x0000300B [(7, d.val)]
  | .taskend  => pack 0x0200300B []
  | .shwr b a d => pack 0x0000400B [(20, b.val), (15, a.val), (7, d.val)]
  | .shrd a d => pack 0x0200400B [(15, a.val), (7, d.val)]
  | .shclr d => pack 0x0400400B [(7, d.val)]
  | .shsw b a d => pack 0x0600400B [(20, b.val), (15, a.val), (7, d.val)]
  | .shtag b a d => pack 0x0800400B [(20, b.val), (15, a.val), (7, d.val)]
  | .spawn a d => pack 0x0000500B [(15, a.val), (7, d.val)]
  | .spawng a d => pack 0x0200500B [(15, a.val), (7, d.val)]
  | .xlate b a h => pack 0x0000002B [(20, b.val), (15, a.val), (7, h.val)]
  | .xprobe w h d => pack 0x0200002B [(20, w.val), (15, h.val), (7, d.val)]
  | .hrel h => pack 0x0400002B [(15, h.val)]
  | .hinv b a d => pack 0x0600002B [(20, b.val), (15, a.val), (7, d.val)]
  | .splnt b a d => pack 0x0800002B [(20, b.val), (15, a.val), (7, d.val)]
  | .amoBadd b a d => pack 0x0000102B [(20, b.val), (15, a.val), (7, d.val)]
  | .amoTopk b a d => pack 0x0200102B [(20, b.val), (15, a.val), (7, d.val)]
  | .fenceS sl p => pack 0x0000202B [(20, sl.val), (15, p.val)]
  | .acqp a d => pack 0x0200202B [(15, a.val), (7, d.val)]
  | .binit b a d => pack 0x0000302B [(20, b.val), (15, a.val), (7, d.val)]
  | .barr b a d => pack 0x0200302B [(20, b.val), (15, a.val), (7, d.val)]
  | .bwait b a d => pack 0x0400302B [(20, b.val), (15, a.val), (7, d.val)]
  | .barw a d => pack 0x0600302B [(15, a.val), (7, d.val)]
  | .pin b a d => pack 0x0000402B [(20, b.val), (15, a.val), (7, d.val)]
  | .unpin a d => pack 0x0200402B [(15, a.val), (7, d.val)]
  | .prefl2 b a d => pack 0x0400402B [(20, b.val), (15, a.val), (7, d.val)]
  | .bmode b a d => pack 0x0000502B [(20, b.val), (15, a.val), (7, d.val)]
  | .binset b a d => pack 0x0200502B [(20, b.val), (15, a.val), (7, d.val)]
  | .binq a d => pack 0x0400502B [(15, a.val), (7, d.val)]
  | .strmAdd a d => pack 0x0000005B [(15, a.val), (7, d.val)]
  | .strmDel a d => pack 0x0200005B [(15, a.val), (7, d.val)]
  | .trap a => pack 0x0000007B [(15, a.val)]
  | .tret  => pack 0x0200007B []
  | .halt  => pack 0x0400007B []
  | .banksw a d => pack 0x0000107B [(15, a.val), (7, d.val)]
  | .ctxsave b a => pack 0x0200107B [(20, b.val), (15, a.val)]
  | .ctxload b a => pack 0x0400107B [(20, b.val), (15, a.val)]
  | .evpost b a => pack 0x0000207B [(20, b.val), (15, a.val)]
  | .rdtime a d => pack 0x0200207B [(15, a.val), (7, d.val)]
  | _ => 0

/-- The words of V-OPs 0x00 to 0x2F. -/
def encodeVInt : Instr → Nat
  | .vadd d a b m => pack 0x00000000 [(20, d.val), (15, a.val), (10, b.val), (2, m.val)]
  | .vaddLit d a b m => pack 0x02000000 [(20, d.val), (15, a.val), (10, b.val), (2, m.val)]
  | .vsub d a b m => pack 0x04000000 [(20, d.val), (15, a.val), (10, b.val), (2, m.val)]
  | .vsubLit d a b m => pack 0x06000000 [(20, d.val), (15, a.val), (10, b.val), (2, m.val)]
  | .vmul d a b m => pack 0x08000000 [(20, d.val), (15, a.val), (10, b.val), (2, m.val)]
  | .vmulLit d a b m => pack 0x0A000000 [(20, d.val), (15, a.val), (10, b.val), (2, m.val)]
  | .vmulh d a b m => pack 0x0C000000 [(20, d.val), (15, a.val), (10, b.val), (2, m.val)]
  | .vmulhu d a b m => pack 0x0E000000 [(20, d.val), (15, a.val), (10, b.val), (2, m.val)]
  | .vmadd d a b c m => pack 0x10000000 [(20, d.val), (15, a.val), (10, b.val), (5, c.val), (2, m.val)]
  | .vmaddLit d a b c m => pack 0x12000000 [(20, d.val), (15, a.val), (10, b.val), (5, c.val), (2, m.val)]
  | .vaddsat d a b m => pack 0x14000000 [(20, d.val), (15, a.val), (10, b.val), (2, m.val)]
  | .vsubsat d a b m => pack 0x16000000 [(20, d.val), (15, a.val), (10, b.val), (2, m.val)]
  | .vaddsatu d a b m => pack 0x18000000 [(20, d.val), (15, a.val), (10, b.val), (2, m.val)]
  | .vsubsatu d a b m => pack 0x1A000000 [(20, d.val), (15, a.val), (10, b.val), (2, m.val)]
  | .vabs d a m => pack 0x1C000000 [(20, d.val), (15, a.val), (2, m.val)]
  | .vneg d a m => pack 0x1E000000 [(20, d.val), (15, a.val), (2, m.val)]
  | .vmin d a b m => pack 0x20000000 [(20, d.val), (15, a.val), (10, b.val), (2, m.val)]
  | .vminLit d a b m => pack 0x22000000 [(20, d.val), (15, a.val), (10, b.val), (2, m.val)]
  | .vmax d a b m => pack 0x24000000 [(20, d.val), (15, a.val), (10, b.val), (2, m.val)]
  | .vmaxLit d a b m => pack 0x26000000 [(20, d.val), (15, a.val), (10, b.val), (2, m.val)]
  | .vminu d a b m => pack 0x28000000 [(20, d.val), (15, a.val), (10, b.val), (2, m.val)]
  | .vmaxu d a b m => pack 0x2A000000 [(20, d.val), (15, a.val), (10, b.val), (2, m.val)]
  | .vand d a b m => pack 0x2C000000 [(20, d.val), (15, a.val), (10, b.val), (2, m.val)]
  | .vandLit d a b m => pack 0x2E000000 [(20, d.val), (15, a.val), (10, b.val), (2, m.val)]
  | .vor d a b m => pack 0x30000000 [(20, d.val), (15, a.val), (10, b.val), (2, m.val)]
  | .vorLit d a b m => pack 0x32000000 [(20, d.val), (15, a.val), (10, b.val), (2, m.val)]
  | .vxor d a b m => pack 0x34000000 [(20, d.val), (15, a.val), (10, b.val), (2, m.val)]
  | .vxorLit d a b m => pack 0x36000000 [(20, d.val), (15, a.val), (10, b.val), (2, m.val)]
  | .vandn d a b m => pack 0x38000000 [(20, d.val), (15, a.val), (10, b.val), (2, m.val)]
  | .vnot d a m => pack 0x3A000000 [(20, d.val), (15, a.val), (2, m.val)]
  | .vshl d a b m => pack 0x3C000000 [(20, d.val), (15, a.val), (10, b.val), (2, m.val)]
  | .vshlLit d a b m => pack 0x3E000000 [(20, d.val), (15, a.val), (10, b.val), (2, m.val)]
  | .vshr d a b m => pack 0x40000000 [(20, d.val), (15, a.val), (10, b.val), (2, m.val)]
  | .vshrLit d a b m => pack 0x42000000 [(20, d.val), (15, a.val), (10, b.val), (2, m.val)]
  | .vsra d a b m => pack 0x44000000 [(20, d.val), (15, a.val), (10, b.val), (2, m.val)]
  | .vsraLit d a b m => pack 0x46000000 [(20, d.val), (15, a.val), (10, b.val), (2, m.val)]
  | .vrol d a b m => pack 0x48000000 [(20, d.val), (15, a.val), (10, b.val), (2, m.val)]
  | .vror d a b m => pack 0x4A000000 [(20, d.val), (15, a.val), (10, b.val), (2, m.val)]
  | .vclz d a m => pack 0x4C000000 [(20, d.val), (15, a.val), (2, m.val)]
  | .vpopc d a m => pack 0x4E000000 [(20, d.val), (15, a.val), (2, m.val)]
  | .vcmp d a b c m => pack 0x50000000 [(20, d.val), (15, a.val), (10, b.val), (5, c.val), (2, m.val)]
  | .vcmpLit d a b c m => pack 0x52000000 [(20, d.val), (15, a.val), (10, b.val), (5, c.val), (2, m.val)]
  | .vcmpu d a b c m => pack 0x54000000 [(20, d.val), (15, a.val), (10, b.val), (5, c.val), (2, m.val)]
  | .vsel d a b m => pack 0x56000000 [(20, d.val), (15, a.val), (10, b.val), (2, m.val)]
  | .vmov d a m => pack 0x58000000 [(20, d.val), (15, a.val), (2, m.val)]
  | .vbcast d b t m => pack 0x5A000000 [(20, d.val), (10, b.val), (5, t.code), (2, m.val)]
  | .vlaneid d m v => pack 0x5C000000 [(20, d.val), (2, m.val), (0, v.val)]
  | _ => 0

/-- The words of V-OPs 0x30 to 0x4F. -/
def encodeVFp : Instr → Nat
  | .vfadd d a b m r => pack 0x60000000 [(20, d.val), (15, a.val), (10, b.val), (2, m.val), (0, r.code)]
  | .vfaddLit d a b m r => pack 0x62000000 [(20, d.val), (15, a.val), (10, b.val), (2, m.val), (0, r.code)]
  | .vfsub d a b m r => pack 0x64000000 [(20, d.val), (15, a.val), (10, b.val), (2, m.val), (0, r.code)]
  | .vfsubLit d a b m r => pack 0x66000000 [(20, d.val), (15, a.val), (10, b.val), (2, m.val), (0, r.code)]
  | .vfmul d a b m r => pack 0x68000000 [(20, d.val), (15, a.val), (10, b.val), (2, m.val), (0, r.code)]
  | .vfmulLit d a b m r => pack 0x6A000000 [(20, d.val), (15, a.val), (10, b.val), (2, m.val), (0, r.code)]
  | .vfma d a b c m r => pack 0x6C000000 [(20, d.val), (15, a.val), (10, b.val), (5, c.val), (2, m.val), (0, r.code)]
  | .vfmaLit d a b c m r => pack 0x6E000000 [(20, d.val), (15, a.val), (10, b.val), (5, c.val), (2, m.val), (0, r.code)]
  | .vfms d a b c m r => pack 0x70000000 [(20, d.val), (15, a.val), (10, b.val), (5, c.val), (2, m.val), (0, r.code)]
  | .vfnma d a b c m r => pack 0x72000000 [(20, d.val), (15, a.val), (10, b.val), (5, c.val), (2, m.val), (0, r.code)]
  | .vfnms d a b c m r => pack 0x74000000 [(20, d.val), (15, a.val), (10, b.val), (5, c.val), (2, m.val), (0, r.code)]
  | .vfmin d a b m => pack 0x76000000 [(20, d.val), (15, a.val), (10, b.val), (2, m.val)]
  | .vfmax d a b m => pack 0x78000000 [(20, d.val), (15, a.val), (10, b.val), (2, m.val)]
  | .vfabs d a m => pack 0x7A000000 [(20, d.val), (15, a.val), (2, m.val)]
  | .vfneg d a m => pack 0x7C000000 [(20, d.val), (15, a.val), (2, m.val)]
  | .vfcmp d a b c m => pack 0x7E000000 [(20, d.val), (15, a.val), (10, b.val), (5, c.val), (2, m.val)]
  | .vfcmpLit d a b c m => pack 0x9A000000 [(20, d.val), (15, a.val), (10, b.val), (5, c.val), (2, m.val)]
  | .vfclass d a m => pack 0x80000000 [(20, d.val), (15, a.val), (2, m.val)]
  | .vrcp d a m r => pack 0x82000000 [(20, d.val), (15, a.val), (2, m.val), (0, r.code)]
  | .vrsq d a m r => pack 0x84000000 [(20, d.val), (15, a.val), (2, m.val), (0, r.code)]
  | .vsqrt d a m r => pack 0x86000000 [(20, d.val), (15, a.val), (2, m.val), (0, r.code)]
  | .vdiv d a b m r => pack 0x88000000 [(20, d.val), (15, a.val), (10, b.val), (2, m.val), (0, r.code)]
  | .vexp2 d a m r => pack 0x8A000000 [(20, d.val), (15, a.val), (2, m.val), (0, r.code)]
  | .vlog2 d a m r => pack 0x8C000000 [(20, d.val), (15, a.val), (2, m.val), (0, r.code)]
  | .vredadd d a m => pack 0x8E000000 [(20, d.val), (15, a.val), (2, m.val)]
  | .vredmax d a m => pack 0x90000000 [(20, d.val), (15, a.val), (2, m.val)]
  | .vredmin d a m => pack 0x92000000 [(20, d.val), (15, a.val), (2, m.val)]
  | .vrediadd d a m => pack 0x94000000 [(20, d.val), (15, a.val), (2, m.val)]
  | .vredimax d a m => pack 0x96000000 [(20, d.val), (15, a.val), (2, m.val)]
  | .vredimin d a m => pack 0x98000000 [(20, d.val), (15, a.val), (2, m.val)]
  | _ => 0

/-- The words of V-OPs 0x50 to 0x7F. -/
def encodeVMove : Instr → Nat
  | .vcvt d a p t m r => pack 0xA0000000 [(20, d.val), (15, a.val), (10, p.val), (5, t.code), (2, m.val), (0, r.code)]
  | .vcvtsat d a p t m r => pack 0xA2000000 [(20, d.val), (15, a.val), (10, p.val), (5, t.code), (2, m.val), (0, r.code)]
  | .vqnt4 d a b m => pack 0xA4000000 [(20, d.val), (15, a.val), (10, b.val), (2, m.val)]
  | .vdqnt4 d a p t m => pack 0xA6000000 [(20, d.val), (15, a.val), (10, p.val), (5, t.code), (2, m.val)]
  | .vpack d a b m => pack 0xA8000000 [(20, d.val), (15, a.val), (10, b.val), (2, m.val)]
  | .vunpacklo d a m => pack 0xAA000000 [(20, d.val), (15, a.val), (2, m.val)]
  | .vunpackhi d a m => pack 0xAC000000 [(20, d.val), (15, a.val), (2, m.val)]
  | .vperm d a b m => pack 0xAE000000 [(20, d.val), (15, a.val), (10, b.val), (2, m.val)]
  | .vslide d a b sl m => pack 0xB0000000 [(20, d.val), (15, a.val), (10, b.val), (5, sl.val), (2, m.val)]
  | .vslideLit d a b c m => pack 0xB2000000 [(20, d.val), (15, a.val), (10, b.val), (5, c.val), (2, m.val)]
  | .vzip d a b m h => pack 0xB4000000 [(20, d.val), (15, a.val), (10, b.val), (2, m.val), (0, h.val)]
  | .vunzip d a b m h => pack 0xB6000000 [(20, d.val), (15, a.val), (10, b.val), (2, m.val), (0, h.val)]
  | .vld d a k t m => pack 0xC0000000 [(20, d.val), (15, a.val), (10, k.val), (5, t.code), (2, m.val)]
  | .vst sl a k m => pack 0xC2000000 [(20, sl.val), (15, a.val), (10, k.val), (2, m.val)]
  | .vlds d a k t m => pack 0xC4000000 [(20, d.val), (15, a.val), (10, k.val), (5, t.code), (2, m.val)]
  | .vsts sl a k m => pack 0xC6000000 [(20, sl.val), (15, a.val), (10, k.val), (2, m.val)]
  | .vldg d a k t m => pack 0xC8000000 [(20, d.val), (15, a.val), (10, k.val), (5, t.code), (2, m.val)]
  | .vstsc sl a k m => pack 0xCA000000 [(20, sl.val), (15, a.val), (10, k.val), (2, m.val)]
  | .nsh d a m v => pack 0xD0000000 [(20, d.val), (15, a.val), (2, m.val), (0, v.val)]
  | .nshr d a m v => pack 0xD2000000 [(20, d.val), (15, a.val), (2, m.val), (0, v.val)]
  | .vldx d a b k m h => pack 0xD8000000 [(20, d.val), (15, a.val), (10, b.val), (5, k.val), (2, m.val), (0, h.val)]
  | .vstx sl a b k m h => pack 0xDA000000 [(20, sl.val), (15, a.val), (10, b.val), (5, k.val), (2, m.val), (0, h.val)]
  | .vldxg d a b k m h => pack 0xDC000000 [(20, d.val), (15, a.val), (10, b.val), (5, k.val), (2, m.val), (0, h.val)]
  | .vstxs sl a b k m h => pack 0xDE000000 [(20, sl.val), (15, a.val), (10, b.val), (5, k.val), (2, m.val), (0, h.val)]
  | .vamoadd d a b c m => pack 0xE0000000 [(20, d.val), (15, a.val), (10, b.val), (5, c.val), (2, m.val)]
  | .vpush d b => pack 0xE2000000 [(20, d.val), (5, b.val)]
  | .vpop d b => pack 0xE4000000 [(20, d.val), (5, b.val)]
  | .vacr d a c m => pack 0xE6000000 [(20, d.val), (15, a.val), (5, c.val), (2, m.val)]
  | .vacrD d a h c m => pack 0xE6000001 [(20, d.val), (15, a.val), (10, h.val), (5, c.val), (2, m.val)]
  | .vacrSt d c m => pack 0xE6000002 [(20, d.val), (5, c.val), (2, m.val)]
  | .vacw d a c m => pack 0xE8000000 [(20, d.val), (15, a.val), (5, c.val), (2, m.val)]
  | .vacwD d a h c m => pack 0xE8000001 [(20, d.val), (15, a.val), (10, h.val), (5, c.val), (2, m.val)]
  | .vtagset d a t m => pack 0xF0000000 [(20, d.val), (15, a.val), (5, t.code), (2, m.val)]
  | .vtagrd d a m => pack 0xF2000000 [(20, d.val), (15, a.val), (2, m.val)]
  | .vres d a m => pack 0xF4000000 [(20, d.val), (15, a.val), (2, m.val)]
  | .vresAcc d a c m => pack 0xF4000001 [(20, d.val), (15, a.val), (5, c.val), (2, m.val)]
  | .vmsk d a b f => pack 0xF6000000 [(20, d.val), (15, a.val), (10, b.val), (5, f.val)]
  | .vmpopc d a m => pack 0xF8000000 [(20, d.val), (15, a.val), (2, m.val)]
  | .vmfirst d a m => pack 0xFA000000 [(20, d.val), (15, a.val), (2, m.val)]
  | .vmset d b => pack 0xFC000000 [(20, d.val), (10, b.val)]
  | .vmsetNz d a => pack 0xFC000001 [(20, d.val), (15, a.val)]
  | _ => 0

/-- The words of the matrix slot. -/
def encodeM : Instr → Nat
  | .mnop  => pack 0x00000000 []
  | .mac l b a r w z => pack 0x10000000 [(26, l.val), (23, b.val), (21, a.val), (19, r.val), (16, w.val), (7, z.toNat)]
  | .macz l b a r w z => pack 0x20000000 [(26, l.val), (23, b.val), (21, a.val), (19, r.val), (16, w.val), (7, z.toNat)]
  | .mwin l b a r w z => pack 0x30000000 [(26, l.val), (23, b.val), (21, a.val), (19, r.val), (16, w.val), (7, z.toNat)]
  | .mdrain q p a r v c z => pack 0x40000000 [(26, q.val), (23, p.val), (21, a.val), (19, r.val), (11, v.val), (8, c.val), (7, z.toNat)]
  | .mdrainz q p a r v c z => pack 0x50000000 [(26, q.val), (23, p.val), (21, a.val), (19, r.val), (11, v.val), (8, c.val), (7, z.toNat)]
  | .mlatch l w v => pack 0x60000000 [(26, l.val), (16, w.val), (11, v.val)]
  | .mzero a c => pack 0x70000000 [(21, a.val), (8, c.val)]
  | _ => 0

/-- The words of the copy slots. -/
def encodeC : Instr → Nat
  | .cpy x tag sel => encCopy x + tag.code * 2 ^ 6 + sel.toNat * 2 ^ 32
  | .cpy2d x => 0x01 * 2 ^ 58 + encCopy x
  | .cpyg hs xs xd xn hint f => 0x02 * 2 ^ 58 + hs.val * 2 ^ 54 + xs.val * 2 ^ 45 + xd.val * 2 ^ 40 + xn.val * 2 ^ 35 + encCompl f + hint.val * 2 ^ 4
  | .cpys hd xs xd xn hint f => 0x03 * 2 ^ 58 + hd.val * 2 ^ 50 + xs.val * 2 ^ 45 + xd.val * 2 ^ 40 + xn.val * 2 ^ 35 + encCompl f + hint.val * 2 ^ 4
  | .cpyl src xs latch gmask tag f => 0x10 * 2 ^ 58 + src.reg * 2 ^ 54 + xs.val * 2 ^ 45 + encCompl f + src.kind + latch.val * 2 ^ 2 + gmask.toNat * 2 ^ 4
      + tag.code * 2 ^ 12
  | .cpysh hs xs xd xn gmask f => 0x11 * 2 ^ 58 + hs.val * 2 ^ 54 + xs.val * 2 ^ 45 + xd.val * 2 ^ 40 + xn.val * 2 ^ 35 + encCompl f + gmask.toNat
  | .cpybin src xs xn bin f => 0x12 * 2 ^ 58 + src.reg * 2 ^ 54 + xs.val * 2 ^ 45 + xn.val * 2 ^ 35 + encCompl f + src.kind + bin.val * 2 ^ 2
  | .route x => 0x18 * 2 ^ 58 + encEng x
  | .routec x => 0x19 * 2 ^ 58 + encEng x
  | .red x sel => 0x20 * 2 ^ 58 + encEng x + sel.toNat * 2 ^ 32
  | .bcast x sel => 0x21 * 2 ^ 58 + encEng x + sel.toNat * 2 ^ 32
  | .agath x sel => 0x22 * 2 ^ 58 + encEng x + sel.toNat * 2 ^ 32
  | .sealck hs hd xs xd xn tag mode => 0x23 * 2 ^ 58 + hs.val * 2 ^ 54 + hd.val * 2 ^ 50 + xs.val * 2 ^ 45 + xd.val * 2 ^ 40 + xn.val * 2 ^ 35 + tag.code + mode.toNat * 2 ^ 4
  | .sealgen x tag => 0x24 * 2 ^ 58 + encEng x + tag.code
  | .exbind hs xs xd acq => 0x28 * 2 ^ 58 + hs.val * 2 ^ 54 + xs.val * 2 ^ 45 + xd.val * 2 ^ 40 + acq.toNat * 2 ^ 34
  | .exfetch xs f => 0x29 * 2 ^ 58 + xs.val * 2 ^ 45 + encCompl f
  | .exrel hs xs f => 0x2A * 2 ^ 58 + hs.val * 2 ^ 54 + xs.val * 2 ^ 45 + encCompl f
  | .expin xs pin f => 0x2B * 2 ^ 58 + xs.val * 2 ^ 45 + encCompl f + pin.toNat
  | .yarddrain xs xd xn acq => 0x2C * 2 ^ 58 + xs.val * 2 ^ 45 + xd.val * 2 ^ 40 + xn.val * 2 ^ 35 + acq.toNat * 2 ^ 34
  | .cwait xs xd => 0x30 * 2 ^ 58 + xs.val * 2 ^ 45 + xd.val * 2 ^ 40
  | .cfence q => 0x31 * 2 ^ 58 + q.val
  | .cstat xs xd sel => 0x32 * 2 ^ 58 + xs.val * 2 ^ 45 + xd.val * 2 ^ 40 + sel.val
  | _ => 0

/-- The word of a well-formed instruction (32 bits; 64 for a copy slot, its lower-addressed word in bits 31..0); 0 for a step that
is no slot word. -/
def encode (i : Instr) : Nat :=
  match i.kind with
  | .scalar => encodeScalar i
  | .vector => encodeVInt i + encodeVFp i + encodeVMove i
  | .matrix => encodeM i
  | .copy => encodeC i
  | .step => 0

/-- The width in bits of a row's word: 32, or 64 in a copy slot. -/
def Instr.width (i : Instr) : Nat :=
  match i.kind with
  | .copy => 64
  | .step => 0
  | _ => 32

/-! ## Traps found in words -/

/-- A cause with its detail (R41, R107). -/
structure Trap where
  cause : Nat
  tval : DWord
  deriving DecidableEq, Repr

/-- The word form of tval (R93). `shelf` gives the lane group of a shelf entry's word. -/
def wordForm (sl : Slot) (shelf : Option Group) (w : Nat) : DWord :=
  BitVec.ofNat 64 (fld w 0 32 + sl.code * 2 ^ 32
    + match shelf with | some g => g.val * 2 ^ 36 + 2 ^ 39 | none => 0)

/-- The word of a slot that tval reports: the high word of a copy slot (R93, R395). -/
def reportWord (sl : Slot) (w : Nat) : Nat :=
  match sl with
  | .c0 | .c1 => w / 2 ^ 32
  | _ => w

/-! ## Bundles (R73 to R80) -/

/-- The header word (R73). -/
structure Header where
  grp : Byte
  lit : Nat
  c1 : Bool
  c0 : Bool
  m : Bool
  v1 : Bool
  v0 : Bool
  s : Bool
  rdv : Bool
  seg : Bool
  scope : Nat
  wait : Nat
  indexed : Bool
  len : Nat
  deriving DecidableEq, Repr

def decodeHeader (w : Nat) : Header :=
  { grp := bits 8 w 24, lit := fld w 18 3, c1 := flag w 17, c0 := flag w 16, m := flag w 15, v1 := flag w 14, v0 := flag w 13,
    s := flag w 12, rdv := flag w 11, seg := flag w 10, scope := fld w 7 3, wait := fld w 3 4, indexed := flag w 2, len := fld w 0 2 }

def encodeHeader (h : Header) : Nat :=
  h.grp.toNat * 2 ^ 24 + h.lit * 2 ^ 18 + h.c1.toNat * 2 ^ 17 + h.c0.toNat * 2 ^ 16 + h.m.toNat * 2 ^ 15 + h.v1.toNat * 2 ^ 14
    + h.v0.toNat * 2 ^ 13 + h.s.toNat * 2 ^ 12 + h.rdv.toNat * 2 ^ 11 + h.seg.toNat * 2 ^ 10 + h.scope * 2 ^ 7 + h.wait * 2 ^ 3
    + h.indexed.toNat * 2 ^ 2 + h.len

/-- The index word (R79). -/
structure IndexWord where
  idx : Nat
  xa : Reg
  xb : Reg
  lb : Nat
  deriving DecidableEq, Repr

def decodeIndex (w : Nat) : IndexWord := { idx := fld w 23 9, xa := reg w 18, xb := reg w 13, lb := fld w 10 3 }

/-- The slots a header names, in the order their words follow it, with the words each takes (R74). Whether an indexed bundle with IX = 0 has
an index word is open (R75): the model counts and checks one there (DESIGN CHOICE, log 95). -/
def Header.slots (h : Header) : List (Slot × Nat) :=
  (if h.s then [(.s, 1)] else []) ++
  (if h.indexed then [(.v0, 1)] else
    (if h.v0 then [(.v0, 1)] else []) ++ (if h.v1 then [(.v1, 1)] else []) ++ (if h.m then [(.m, 1)] else []) ++
    (if h.c0 then [(.c0, 2)] else []) ++ (if h.c1 then [(.c1, 2)] else []))

/-- W of R74. -/
def Header.words (h : Header) : Nat := 1 + (h.slots.map (·.2)).sum + h.lit

/-- Slot words taken from the words after the header; a copy slot's two words become one number, the lower-addressed below. -/
def takeSlots : List (Slot × Nat) → List Nat → List (Slot × Nat)
  | [], _ => []
  | (s, 1) :: r, ws => (s, ws.headD 0) :: takeSlots r ws.tail
  | (s, _) :: r, ws => (s, ws.headD 0 + ws.tail.headD 0 * 2 ^ 32) :: takeSlots r ws.tail.tail

/-- A bundle as its words give it: slot words, the literal pool from index 0 on, and the padding (R74). -/
structure RawBundle where
  hdr : Header
  hword : Nat
  slots : List (Slot × Nat)
  pool : List Nat
  padding : List Nat
  deriving DecidableEq, Repr

def splitBundle (ws : List Nat) : RawBundle :=
  let h := decodeHeader (ws.headD 0)
  let n := 4 * (h.len + 1)
  let used := 1 + (h.slots.map (·.2)).sum
  { hdr := h, hword := ws.headD 0, slots := takeSlots h.slots ws.tail,
    pool := ((ws.take n).drop (n - h.lit)).reverse, padding := ((ws.take n).take (n - h.lit)).drop used }

def slotKind : Slot → Kind
  | .s => .scalar
  | .v0 | .v1 => .vector
  | .m => .matrix
  | .c0 | .c1 => .copy
  | .header | .pool => .step

/-- Traps of the header and of the bundle's layout (R74, R75, R79). -/
def RawBundle.headerTraps (b : RawBundle) : List Trap :=
  let t (c : Nat) : Trap := { cause := c, tval := wordForm .header none b.hword }
  (if fld b.hword 21 3 ≠ 0 ∨ b.hdr.scope ≥ 5 then [t 0x00] else []) ++
  (if b.hdr.indexed ∧ (!b.hdr.v0 ∨ b.hdr.v1 ∨ b.hdr.m ∨ b.hdr.c0 ∨ b.hdr.c1) then [t 0x0B] else []) ++
  (if 4 * (b.hdr.len + 1) < b.hdr.words ∨ b.padding.any (· ≠ 0) then [t 0x0A] else [])

/-- The decoded slots of a bundle. -/
def RawBundle.decoded (b : RawBundle) : List (Slot × Nat × Instr) :=
  (b.slots.filter (fun p => !(b.hdr.indexed && p.1 == .v0))).filterMap fun (s, w) =>
    match decodeSlot (slotKind s) w with
    | .ok i => some (s, w, i)
    | .error _ => none

/-- The slot words that decode to no instruction, each with its cause. -/
def RawBundle.odd (b : RawBundle) : List (Slot × Nat × Nat) :=
  (b.slots.filter (fun p => !(b.hdr.indexed && p.1 == .v0))).filterMap fun (s, w) =>
    match decodeSlot (slotKind s) w with
    | .ok _ => none
    | .error c => some (s, w, c)

/-- The index word of an indexed bundle. -/
def RawBundle.index (b : RawBundle) : IndexWord :=
  decodeIndex (match b.slots.find? (fun p => p.1 == .v0) with | some (_, w) => w | none => 0)

/-! ## Shelf entries (R81) -/

/-- The words in use of an entry's header: VALID, then C1, C0, M, V1, V0 and CLASS. -/
def entryValid (h : Nat) : Bool := flag h 15
def entryClass (h : Nat) : Nat := fld h 0 4
/-- The words of an entry by slot, as far as the header marks them in use. -/
def entrySlots (ws : List Nat) : List (Slot × Nat) :=
  let h := ws.headD 0
  let w (n : Nat) := (ws.drop n).headD 0
  (if flag h 8 then [(Slot.v0, w 1)] else []) ++ (if flag h 9 then [(Slot.v1, w 2)] else []) ++
  (if flag h 10 then [(Slot.m, w 3)] else []) ++ (if flag h 11 then [(Slot.c0, w 4 + w 5 * 2 ^ 32)] else []) ++
  (if flag h 12 then [(Slot.c1, w 6 + w 7 * 2 ^ 32)] else [])
/-- Malformed header of an entry: a reserved bit, CLASS 8-15, or a non-zero word whose presence bit is clear (R81, R181). -/
def entryMalformed (ws : List Nat) : Bool :=
  let h := ws.headD 0
  let w (n : Nat) := (ws.drop n).headD 0
  fld h 16 16 != 0 || fld h 13 2 != 0 || fld h 4 4 != 0 || entryClass h ≥ 8 ||
  (!flag h 8 && w 1 != 0) || (!flag h 9 && w 2 != 0) || (!flag h 10 && w 3 != 0) ||
  (!flag h 11 && (w 4 != 0 || w 5 != 0)) || (!flag h 12 && (w 6 != 0 || w 7 != 0))
/-- The entry word (1-7) that holds a slot's reported word. -/
def entryWordOf : Slot → Nat
  | .v0 => 1 | .v1 => 2 | .m => 3 | .c0 => 5 | .c1 => 7 | _ => 0

/-! ## The words of the table -/

/-- A slot word that a table row may give, without its slot (log 12): a custom word of the scalar slot first; then a matrix word,
unless the same bits are a vector word with every operand field zero; then a vector word; then any scalar word. -/
def decodeTableWord (nbits w : Nat) : Option Instr :=
  let ok (d : Dec) : Option Instr := match d with | .ok i => some i | .error _ => none
  if nbits = 64 then ok (decodeC w)
  else if nbits ≠ 32 then none
  else
    let custom := fld w 0 7 == 0x0B || fld w 0 7 == 0x2B || fld w 0 7 == 0x5B || fld w 0 7 == 0x7B
    let s := if custom then ok (decodeS w) else none
    let v := ok (decodeV w)
    let m := if fld w 3 22 == 0 && v.isSome then none else ok (decodeM w)
    match s, m, v with
    | some i, _, _ => some i
    | none, some i, _ => some i
    | none, none, some i => some i
    | none, none, none => ok (decodeS w)

end Sys2Proof
end

