-- ==== Sys2Proof/Machine/State.lean ====
section
/-! DEFINITION. The state of the machine: one package with one core in detail (log 1), as plain data; the state right after
reset; the reasons a step can stop. INVENTORY.md lists every field with its rule and reset value. -/

namespace Sys2Proof.Machine

/-- Bytes of a memory: strictly rising addresses, no entry equal to what an unlisted address reads as (zero, log 4). -/
abbrev Mem := List Host.Cell
/-- A sparse table: strictly rising keys, no entry equal to the table's default. -/
abbrev Table (α : Type) := List (Nat × α)
/-- A location of memory: a global physical address (R226) below 2^60, or 2^60 plus a cellar address (R228). -/
abbrev Loc := Nat

/-! ## Registers of a context -/

/-- A vector register of one lane group: data and format tag (R43, R46). -/
structure VReg where
  data : VData
  tag : Tag
  deriving DecidableEq, Repr

/-- The states of a handle (R238). -/
inductive HState where
  | empty | valid | revoked | faulted
  deriving DecidableEq, Repr

/-- A handle register (R238). -/
structure HandleReg where
  vbase : DWord
  pbase : DWord
  state : HState
  size : Fin 3
  cause : Byte
  attr : BitVec 10
  epoch : Word
  asid : BitVec 12
  deriving DecidableEq, Repr

/-- The registers of one context bank (R118, R171). -/
structure Regs where
  x : Vector DWord 32
  f : Vector DWord 32
  v : Vector (Vector VReg 32) 8
  m : Vector (Vector Word 8) 8
  h : Vector HandleReg 16
  deriving DecidableEq, Repr

/-- The context CSRs (R103, R104, R105, R195, R435). tstat.SHB and lpdepth are computed. -/
structure Csrs where
  fflags : BitVec 5
  frm : BitVec 3
  instret : DWord
  sbmode : BitVec 2
  vflags : Byte
  rdvEn : Bool
  rdvSize : BitVec 16
  rdvCount : Word
  ilkcyc : DWord
  tcause : Byte
  tepc : DWord
  tval : DWord
  tnext : DWord
  tscratch : DWord
  tcause2 : Byte
  intrap : Bool
  sbm : BitVec 2
  pprv : Bool
  pie : Bool
  ie : Bool
  /-- 1 supervisor, 0 user. -/
  prv : Bool
  tvecBase : BitVec 52
  tvecVec : Bool
  asid : BitVec 12
  ulen : BitVec 11
  uoff : BitVec 22
  deriving DecidableEq, Repr

/-! ## Results in flight (R19, R203) -/

/-- A dyadic rational m × 2^e, held exactly. -/
structure Dy where
  m : Int
  e : Int
  deriving DecidableEq, Repr

/-- The exact terms of one element of a beat (R66, R68): whether a NaN, an infinity of each sign, or anything but −0 occurs, and
the exact sum of the finite products. -/
structure Terms where
  nan : Bool
  pinf : Bool
  ninf : Bool
  notNegZero : Bool
  sum : Dy
  deriving DecidableEq, Repr

/-- The accumulator formats (R197). -/
inductive AccFmt where
  | fp32 | int32 | fp64
  deriving DecidableEq, Repr

/-- What the scoreboard tracks (R23). -/
inductive Res where
  | x (r : Reg)
  | f (r : Reg)
  | v (g : Group) (r : Reg)
  | m (g : Group) (r : MReg)
  | h (r : HReg)
  | acc (g : Group) (bank : Fin 4) (blk : Fin 4)
  deriving DecidableEq, Repr

/-- A lane of a landing load or VAMOADD (R255, R297): its location; the tag of the request that asks another package for it; the word
once it has come, with the cause of a failure (0 for none); and the bits of it that the context's open segment forwards (R273). -/
structure LaneAsk where
  lane : Nat
  loc : Loc
  tag : Nat
  got : Option (Word × Nat)
  held : Word
  heldMask : Word
  deriving DecidableEq, Repr

/-- A write on its way to a register (R19). Vector writes carry the bits written (data under mask); an accumulator write names the
rows it covers, in its block. -/
inductive Write where
  | x (r : Reg) (v : DWord)
  | f (r : Reg) (v : DWord)
  | v (g : Group) (r : Reg) (data mask : VData) (tag : Tag)
  | m (g : Group) (r : MReg) (bits mask : Word)
  | h (r : HReg) (v : HandleReg)
  /-- A landing load, or a VAMOADD (R255, R297). -/
  | landing (g : Group) (r : Reg) (mask : VData) (tag : Tag) (lanes : List LaneAsk) (amo : Bool)
  /-- A beat (R203, R209); `whole` tells that its clear takes every block of its banks (R204). -/
  | beat (g : Group) (bank blk : Fin 4) (fmt : AccFmt) (clear : Bool) (whole : Bool) (pad : Bool) (bad : Bool) (terms : List Terms)
  /-- Rows of one bank written under masks by VACW (R216) or cleared by a draining read (R212): (row, data, mask). -/
  | accRows (g : Group) (bank blk : Fin 4) (rows : List (Nat × VData × VData))
  /-- MZERO (R214): the banks cleared and the tag they take. -/
  | accZero (g : Group) (bank : Fin 4) (tag : Tag)
  /-- MLATCH (R213): one row of a latch and its tag. -/
  | latchRow (g : Group) (l : Fin 4) (row : Fin 8) (data : VData) (tag : Tag)
  /-- Flags alone, for a result that discards its value (x0) or writes none. -/
  | flags
  deriving DecidableEq, Repr

/-- A write in flight: its issue order, the running cycles of its issue and of its landing, the flags that land with it (R59), and
whether it comes from a parked set (R104, R115). -/
structure Flight where
  seq : Nat
  issued : Nat
  land : Nat
  w : Write
  vflags : Byte
  fflags : BitVec 5
  replay : Bool
  deriving DecidableEq, Repr

/-- A loop frame (R32). -/
structure LoopFrame where
  start : DWord
  stop : DWord
  count : Word
  deriving DecidableEq, Repr

/-- A parked set of the shadow result buffer (R108): the running cycle in which the trapped bundle issued, the writes, and what is
preserved for the trapped context beside them (R41, log 81): its loop stack, and a BARW of it that has arrived and waits. -/
structure Parked where
  t0 : Nat
  writes : List Flight
  loops : List LoopFrame
  arrived : Option (DWord × Loc × DWord)
  deriving DecidableEq, Repr

/-- An entry of the scalar translation cache (R237): virtual page base, size, frame location, leaf bits [11:2]. -/
structure Tlb where
  asid : BitVec 12
  vbase : Nat
  size : Fin 3
  frame : Loc
  attr : BitVec 10
  deriving DecidableEq, Repr

/-- What a bank is doing (R118, R410). -/
inductive BankStatus where
  | free | running | standby | halted | ended
  deriving DecidableEq, Repr

/-- A bound task or stream (R191, R194, R413). -/
structure Task where
  cls : Fin 8
  gang : Bool
  size : Nat
  rank : Nat
  /-- Completion barrier, a virtual address; 0 for none. -/
  done : DWord
  spawn : DWord
  stream : Option (BitVec 14)
  /-- Every task of its gang is bound on this core. -/
  allHere : Bool
  /-- The dies that hold tasks of its gang. -/
  dies : List (Fin 8) := []
  /-- Core cycles left in the stream's current period. -/
  budget : Nat
  /-- Global time in ns at which it last began to run. -/
  since : Nat
  deriving DecidableEq, Repr

/-- An event record of 32 B (R473). -/
structure Event where
  stamp : Nat
  src : Nat
  cause : Byte
  code : BitVec 16
  p0 : DWord
  p1 : DWord
  deriving DecidableEq, Repr

/-! ## Matrix-side state (R197, R201, R176) -/

structure AccBank where
  rows : Vector VData 32
  tag : Tag
  ovf : Bool
  deriving DecidableEq, Repr

structure Latch where
  rows : Vector VData 8
  tag : Tag
  wb : Fin 4
  deriving DecidableEq, Repr

/-- A shelf: entries of eight words that are not all zero, and the image tag (R176). -/
structure Shelf where
  entries : Table (List Word)
  tag : Word
  deriving DecidableEq, Repr

/-- The class records of the two shelves (R176): index to class, "empty" where unlisted. -/
structure Records where
  active : Table (Fin 8)
  standby : Table (Fin 8)
  deriving DecidableEq, Repr

/-- A bin (R201). -/
structure Bin where
  base : Nat
  nbank : Nat
  tag : Tag
  decl : Nat
  head : Nat
  tail : Nat
  occ : Nat
  hwm : Nat
  ovdecl : Bool
  deriving DecidableEq, Repr

/-- What a swap that has not taken place waits for (R178, R184): the generation of a barrier, none for one that is due at once and waits
for the CPYSHs before it alone. -/
structure SwapWait where
  loc : Loc
  gen : Option DWord
  /-- What queues 0 and 1 had counted at the request: later CPYSHs wait for the swap (R179). -/
  c0 : Word
  c1 : Word
  /-- The barrier's generation as another package or a BWAIT has last told it, and whether it is asked for. -/
  seen : Option DWord
  asked : Bool
  deriving DecidableEq, Repr

/-- The matrix-side state of the core (R118, R411). -/
structure Matrix where
  acc : Vector (Vector AccBank 4) 8
  lat : Vector (Vector Latch 4) 8
  active : Vector Shelf 8
  standby : Vector Shelf 8
  /-- Class records: half-core A's (or the whole core's), half-core B's. -/
  records : Vector Records 2
  swap : Vector (Option SwapWait) 2
  bins : Vector Bin 8
  deriving DecidableEq, Repr

/-- Matrix-side state that the engine has saved (R411): with the bytes that its bins hold (R119, part 6), and the words among them
that are uncorrectable. -/
structure SavedMatrix where
  mat : Matrix
  bytes : List (Nat × Byte)
  bad : List Nat
  deriving DecidableEq, Repr

/-! ## Segments (R433 to R438) -/

/-- A store held in an open segment (R273): bytes by location, its scope and L2 hint. -/
structure HeldStore where
  bytes : List (Loc × Byte)
  scope : Scope
  hint : Fin 4
  /-- The page is replicated (R234). -/
  repl : Bool
  deriving DecidableEq, Repr

/-- A logged state with its value at the mark (R436). -/
inductive Undo where
  | x (r : Reg) (v : DWord)
  | f (r : Reg) (v : DWord)
  | v (g : Group) (r : Reg) (v : VReg)
  | m (g : Group) (r : MReg) (v : Word)
  | h (r : HReg) (v : HandleReg)
  | acc (g : Group) (bank blk : Fin 4) (rows : List VData) (tag : Tag) (ovf : Bool)
  | latchRow (g : Group) (l : Fin 4) (row : Fin 8) (v : VData) (tag : Tag) (wb : Fin 4)
  | block (a : Nat) (bytes : List Byte)
  | shelf (g : Group) (idx : Nat) (words : List Word)
  deriving DecidableEq, Repr

/-- The open segment (R433 to R438). -/
structure Segment where
  markPc : DWord
  markRc : Nat
  markSeq : Nat
  csrs : Csrs
  loops : List LoopFrame
  bins : Vector Bin 8
  log : List Undo
  /-- Writes issued before the mark that have landed since it. -/
  landed : List Flight
  charge : Nat
  /-- Why the segment is unrewindable (R439), if it is. -/
  why : Option Nat
  stores : List HeldStore
  bufBytes : Nat
  events : List Event
  /-- Bytes that pops in the segment freed, by bin (R434). -/
  freed : Vector Nat 8
  /-- This instance has been rewound already. -/
  again : Bool
  seqMark : Word
  deriving DecidableEq, Repr

/-! ## Contexts and sequencers -/

/-- A request that the waiting bundle has made to another package or the host, and its answer (R284, R456): its tag, place and size. -/
structure Remote where
  tag : Nat
  loc : Loc
  bytes : Nat
  answer : Option HomeResp
  lost : Bool
  deriving DecidableEq, Repr

/-- A context bank. `rc` is the context's running cycle, `nextIssue` the first running cycle in which its next bundle may
issue. -/
structure Ctx where
  regs : Regs
  csrs : Csrs
  loops : List LoopFrame
  pc : DWord
  rc : Nat
  nextIssue : Nat
  /-- Issue order of the next bundle. -/
  seqNo : Nat
  flights : List Flight
  parked : List Parked
  resv : Option Loc
  tlb : List Tlb
  pend : Byte
  en : Byte
  /-- Detail words of causes 0xBC to 0xBF (R427). -/
  detail : Vector DWord 4
  pfva : DWord
  pfValid : Bool
  pfCause : Byte
  pfAsid : BitVec 12
  pfKind : BitVec 2
  status : BankStatus
  matrixSide : Bool
  task : Option Task
  seg : Option Segment
  /-- Running cycle and pc of a mark that has been rewound to and not yet closed (R437). -/
  rewound : Option (Nat × DWord)
  /-- A BARW that has arrived and waits: its bundle, its barrier and the generation (R307). -/
  arrived : Option (DWord × Loc × DWord)
  /-- The number of the context, by which its commands know it (R342, R427). -/
  ident : Nat
  /-- What its waiting bundle has asked of another package or of the host; it outlasts a stop of issue (R416). -/
  remote : List Remote
  /-- The running cycle of the latest landing of vector flags, and those that landed in it (R59). The model's own. -/
  flagged : Nat × Byte
  deriving DecidableEq, Repr

/-- An entry of the release manifest (R274). -/
structure ManEntry where
  seq : Word
  line : Option Loc
  scope : Scope
  prom : Scope
  bank : Fin 2
  deriving DecidableEq, Repr

/-- A promotion request (R276): line, SEQ, scope, and whether a home waits for its answer. -/
structure PromReq where
  line : Loc
  q : Word
  scope : Scope
  answer : Bool
  deriving DecidableEq, Repr

/-- The release manifest of a core or half-core (R274 to R279). -/
structure Manifest where
  live : List ManEntry
  count : Word
  retired : Word
  service : Option PromReq
  queued : List PromReq
  deriving DecidableEq, Repr

/-- A context-save engine operation in progress (R119, R120): load, the area and its address space, the parts, the bank, the 64 KiB
pieces of the area that it touches, and whether one has been unmapped or migrated since it began. -/
structure CtxOp where
  load : Bool
  area : DWord
  asid : BitVec 12
  parts : Byte
  bank : Fin 2
  pieces : List Nat
  lost : Bool
  deriving DecidableEq, Repr

/-- What the issue of the running context waits for, with the clock domain frozen (R16, R17) or, for a rendezvous, running. -/
inductive Hold where
  | bins (pop : Bool)
  | queue
  | ranges
  | ticket
  | cfence
  | barrier
  | engine
  | service
  | promotion
  | remote
  | spawnRoom
  | shelfFill
  | latchFill
  | writeBuffer
  | rendezvous
  | matrixSwitch
  | landing
  /-- Writes to other packages that are not acknowledged (R268). -/
  | acks
  /-- Accesses under a translation that is to be revoked (R241). -/
  | revoking
  /-- A cause of kind W that the open segment will rewind (R438). -/
  | rewind (cause : Nat)
  deriving DecidableEq, Repr

/-- A line of the instruction buffer (R29): the half that holds it, its location, its bytes, whether it is uncorrectable at every level
(R259), and whether a bundle that lies in it has stood at issue. -/
structure BufLine where
  half : Fin 2
  line : Loc
  bytes : List Byte
  bad : Bool
  used : Bool
  deriving DecidableEq, Repr

/-- The unresolved direct branch that the instruction buffer tracks (R29): its bundle, its target, and the running cycle in which the
alternative path has arrived. -/
structure AltPath where
  pc : DWord
  target : DWord
  due : Nat
  deriving DecidableEq, Repr

/-- The instruction buffer of a sequencer (R29, R30): its lines, oldest first; the half that holds the path being executed; the running
cycle from which it holds that path; the one in which the latest branch resolved; and the unresolved branch. -/
structure IBuf where
  lines : List BufLine
  path : Fin 2
  since : Nat
  resolved : Nat
  alt : Option AltPath
  deriving DecidableEq, Repr

/-- A code line in a level of the fetch hierarchy (R258). -/
structure CodeLine where
  line : Loc
  bytes : List Byte
  deriving DecidableEq, Repr

/-- A sequencer: the core's in protected mode, or one half-core's (R37, R190). -/
structure Seq where
  banks : Vector Ctx 2
  running : Fin 2
  cycle : DWord
  frzcyc : DWord
  evdrop : DWord
  binwd : DWord
  engStatus : Fin 16
  engLoad : Bool
  engOp : Option CtxOp
  /-- Status of the last CTXLOAD into each bank (R118). -/
  loadStatus : Vector (Fin 16) 2
  hold : Option Hold
  /-- Frozen (for bins) or running (for a rendezvous) cycles of the present wait. -/
  waited : Nat
  /-- The instruction buffer (R29). -/
  ibuf : IBuf
  man : Manifest
  events : List Event
  /-- Global time of the sequencer, in units of 1/232792560 ns. -/
  now : Nat
  deriving DecidableEq, Repr

/-! ## The core -/

/-- The modes of a core SRAM bank (R243). -/
inductive BankMode where
  | cache | scratch | fifo
  deriving DecidableEq, Repr

/-- A line of the core cache (R244, R265): its half-core, way (bank), location, bytes, dirty mask, and whether it holds an
uncorrectable error. -/
structure CLine where
  half : Half
  way : Fin 64
  line : Loc
  bytes : List Byte
  dirty : BitVec 64
  /-- Some byte that is not dirty is uncorrectable (R254). -/
  bad : Bool
  deriving DecidableEq, Repr

/-- An entry of the range-overlap scoreboard (R343). -/
structure Range where
  lo : Nat
  hi : Nat
  write : Bool
  half : Half
  q : Fin 2
  num : Word
  deriving DecidableEq, Repr

/-- Where a command reads or writes: core SRAM, or the page of a handle as captured at submission (R372). -/
inductive Place where
  | sram (a : Nat)
  | page (h : HandleReg) (off : Nat)
  deriving DecidableEq, Repr

/-- A copy command's work, with its operands as captured (R379 to R394). -/
inductive Job where
  | copy (src dst : Place) (rows rbytes : Nat) (sstride dstride : Int) (hint : Fin 4) (tag : Option Tag)
  | gather (src : Place) (table count rw : Nat) (dst : Nat) (hint : Fin 4)
  | scatter (dst : Place) (table count rw : Nat) (src : Nat) (hint : Fin 4)
  | latch (src : Place) (l : Fin 4) (gmask : Byte) (tag : Tag)
  | shelf (src : Place) (gmask : Byte) (first count : Nat) (tag : Word)
  | bin (src : Place) (b : MReg) (bytes : Nat)
  | route (src dst : Place) (desc : List Byte) (rec tab : HandleReg)
  | routec (src dst : Place) (desc : List Byte) (rec tab : HandleReg)
  | coll (op : Fin 3) (src dst : Place) (desc : List Byte) (seals : Bool)
  | sealgen (src dst : Place) (bytes : Nat) (tag : Tag)
  | exfetch (e : Fin 4096)
  | exrel (tab : Place)
  | expin (e : Fin 4096) (pin : Bool)
  deriving DecidableEq, Repr

/-- A command in a copy queue (R338, R341, R346). -/
structure Cmd where
  num : Word
  active : Bool
  job : Job
  items : Nat
  /-- Next item to handle, for commands whose items go in order. -/
  next : Nat
  /-- Records of the handled items (R341). -/
  recs : Table DWord
  /-- Arrivals handled, by chunk (R389), and chunks whose origin step is made. -/
  arr : Table Nat
  orig : List Nat
  scope : Scope
  acq : Bool
  rel : Bool
  report : Option (Loc × BitVec 10)
  /-- The virtual address of the barrier named, which is translated again at the arrival (R346), at user level or not; and the
  generation, none for the current one. -/
  bar : Option DWord
  user : Bool
  gen : Option DWord
  half : Half
  /-- The context that submitted it. -/
  owner : Nat
  asid : BitVec 12
  /-- Held back by the open segment (R342); submitted in the segment that is still open (R438). -/
  held : Bool
  inSeg : Bool
  /-- A handle it names was revoked (R241, R340). -/
  revoked : Bool
  result : DWord
  /-- How far it has come in finishing (R338): 0 not begun, 1 its report is made, 2 its release is made and its arrival asked for, 3 the
  arrival's outcome is known; and that outcome. -/
  fin : Fin 4
  arv : Fin 4
  /-- Bytes delivered so far, of a bin fill. -/
  moved : Nat
  /-- What it has asked another package for, the bytes that have come from there, and the answer to a claim or arrival. -/
  asked : Option (Loc × Nat)
  far : List (Loc × List Byte × Bool)
  reply : Option (Option DWord)
  /-- What it asked for has got no answer (R456), or the answer "unsupported" (R453). -/
  lost : Bool
  refused : Bool
  /-- Rows whose caravans have not left yet (R359), with their package and die. -/
  forming : List (Nat × Fin 8 × RoutedRow)
  deriving DecidableEq, Repr

/-- What is kept of a finished ticket (R375, R376, R378). -/
structure Done where
  num : Word
  arv : Fin 4
  recs : Table DWord
  result : DWord
  deriving DecidableEq, Repr

/-- A copy queue (R337). -/
structure Queue where
  cmds : List Cmd
  count : Word
  done : List Done
  deriving DecidableEq, Repr

/-- The bundle in the issue stage: header, slots with their words and instructions, literal pool; the slot and entry context of a
single word. -/
structure Cur where
  pc : DWord
  hdr : Header
  hword : Nat
  slots : List (Slot × Nat × Instr)
  pool : List Nat
  traps : List Trap
  /-- Slot words that decode to no instruction, each with its cause. -/
  odd : List (Slot × Nat × Nat)
  deriving DecidableEq, Repr

/-- What part 7 of a save area stands for (R119): results in flight, parked sets, and the context's times. -/
structure Image where
  rc : Nat
  nextIssue : Nat
  seqNo : Nat
  flights : List Flight
  parked : List Parked
  ident : Nat
  deriving DecidableEq, Repr

/-- The modelled core. -/
structure Core where
  a : Seq
  b : Seq
  active : Half
  split : Bool
  splitPend : Bool
  splitErr : Bool
  atticcfg : Word
  mat : Matrix
  /-- The context whose matrix-side state is held (half-core, bank), by half-core (R411); saved states of others. -/
  matHolder : Vector (Option (Fin 2)) 2
  matSaved : List (Half × Fin 2 × SavedMatrix)
  sram : Mem
  sramBad : List Nat
  bankMode : Vector BankMode 64
  cache : List CLine
  ranges : List Range
  queues : Vector Queue 2
  /-- Code lines of the per-core L1I (R258). -/
  l1i : List CodeLine
  fsw : Vector Bool 2
  /-- Saved parts 7, by the bytes written in their place (log 17), the newest first. -/
  images : List (List Byte × Image)
  /-- Contexts numbered so far. -/
  idents : Nat
  cur : Cur
  deriving DecidableEq, Repr

/-! ## The package -/

/-- A line present in an L2 slice (R248, R249): slice 0 to 31, way, location, hint, age (larger is more recent). -/
structure L2Line where
  slice : Fin 32
  way : Fin 16
  line : Loc
  hint : Fin 4
  age : Nat
  /-- The bytes of a guest copy of a line homed elsewhere; none for a home line. -/
  guest : Option (List Byte)
  deriving DecidableEq, Repr

/-- A release record (R275). -/
structure RelRec where
  who : Agent
  q : Word
  scope : Scope
  deriving DecidableEq, Repr

/-- A routed row in its buffer, or its parked-row record (R367). -/
structure YardRec where
  layer : Nat
  expert : Nat
  slot : Nat
  token : Nat
  rank : Nat
  /-- The residency entry it stands for, and where the combine entry of its choice stands. -/
  entry : Fin 4096
  combine : Loc
  deriving DecidableEq, Repr

/-- The states of a spawn (R407). -/
inductive SpawnState where
  | posted | ready | placing
  deriving DecidableEq, Repr

/-- A pending spawn or host launch (R191, R405, R407): its tasks' cores in rank order, its dependences (barrier and generation) and
staging records (source, bytes, bank), how many of its tasks are bound, and when it became READY. -/
structure Spawn where
  id : Nat
  die : Fin 8
  order : Nat
  state : SpawnState
  gang : Bool
  asid : BitVec 12
  entry : DWord
  args : DWord
  cores : List (Nat × Half)
  cls : Fin 8
  sbm : BitVec 2
  deps : List (DWord × DWord)
  stage : List (DWord × Nat × Nat)
  done : DWord
  bound : Nat
  readyAt : Nat
  deriving DecidableEq, Repr

/-- An admitted stream (R312, R413, R415). -/
structure Stream where
  id : BitVec 14
  entry : DWord
  args : DWord
  budget : Nat
  period : Nat
  core : BitVec 7
  half : Half
  asid : BitVec 12
  sbm : BitVec 2
  /-- When the next period starts, in ns: the end of the current one. -/
  next : Nat
  done : DWord
  /-- Removed by STRM.DEL. -/
  leaving : Bool
  /-- Service of the current period is still to come. -/
  ready : Bool
  deriving DecidableEq, Repr

/-- Where the image of a parked context stands (R410): in the attic, from a byte address of core SRAM, or in a slot of PARKBASE; and the
banks of 64 KiB that it takes. -/
structure ParkPlace where
  attic : Bool
  at_ : Nat
  banks : Nat
  deriving DecidableEq, Repr

/-- A context parked outside its core's banks (R410), with its matrix-side state and the place of its image. -/
structure ParkedCtx where
  half : Half
  bank : Fin 2
  ctx : Ctx
  mat : Option SavedMatrix
  place : ParkPlace
  order : Nat
  deriving DecidableEq, Repr

/-- A page migration (R430 to R432): its leaf's location and page, whether the move is under way or held, when the last one
completed (in ns). -/
structure Migration where
  asid : BitVec 12
  va : Nat
  leaf : Loc
  moving : Bool
  held : Bool
  doneAt : Option Nat
  /-- The new leaf word, while accesses under the old one are still open (R241, R431). -/
  leafWord : Option DWord
  deriving DecidableEq, Repr

/-- Where an expert fetch stands (R364). -/
structure Fetch where
  entry : Fin 4096
  started : Bool
  deriving DecidableEq, Repr

/-- What leaves the modelled core or the package, oldest first. -/
inductive Out where
  /-- Bytes for their homes; where `bad`, they carry an uncorrectable error (R254). -/
  | write (bytes : List (Loc × Byte)) (scope : Scope) (bad : Bool)
  | read (loc : Loc) (bytes : Nat)
  | atomic (op : HomeOp) (loc : Loc) (scope : Scope)
  | acqp (loc : Loc) (scope : Scope)
  | promote (who : Agent) (line : Loc) (q : Word) (scope : Scope)
  | promoted (line : Loc) (q : Word) (scope : Scope)
  /-- The answer to another agent's request, by its tag (R451). -/
  | respond (who : Agent) (tag : Nat) (r : HomeResp)
  /-- A request with its tag, on the Wayline port that it takes (R451); none for the host, which it names by host addresses (R459). -/
  | sent (port : Option (Fin 128)) (tag : Nat) (what : Out)
  | chunk (c : Chunk)
  /-- A waybill as sent (R358), with its row and where the row goes: its destination, its tag and receive buffer (R354). -/
  | waybill (pkg : Nat) (die : Fin 8) (way row : List Byte) (tag : Tag) (rowBytes plist map : Nat) (entry : Fin 4096)
  | msix (vector : Nat)
  | task (core : Nat) (half : Half) (id : Nat) (rank : Nat)
  | wake (core : Nat) (half : Half)
  | nvme (entry : Fin 4096)
  /-- A descriptor sent to the expert's home package: 0 EXBIND, 1 EXREL, 2 whether PARKED is 0 (R365, R366). -/
  | expert (what : Fin 3) (desc : List Byte)
  | link (port : Nat)
  | hostData (bytes : List Byte)
  /-- The answer to a migration request (R430): made, or "migration in progress". -/
  | migration (asid : BitVec 12) (va : DWord) (made : Bool)
  deriving DecidableEq, Repr

/-- Who waits for the answer to a request that has left for another package, or for the host: the bundle of a context, a landing of
its (with the half-core whose core cache takes the line), a command (with the item whose write it is), an ordering operation that waits
for stores, a package unit, a shelf swap, an ACQP whose promotion this is, or the end of a task whose arrival at DONE this is (with the
name and the count of event 0xB5, R407). -/
inductive Asker where
  | context (id : Nat)
  | landing (id : Nat) (fill : Option Half)
  | command (q : Fin 2) (n : Word) (item : Option Nat)
  | store (half : Half)
  | unit
  | swap (half : Half)
  | promotion (line : Loc) (q : Word) (scope : Scope)
  | done (name : DWord) (bound : Nat)
  deriving DecidableEq, Repr

/-- A request that has not been answered (R451, R456): its tag, the package that it goes to (none for the host), what its port is
chosen by, the port that it took, whether it has left, what it carries, and who waits. -/
structure Request where
  tag : Nat
  dest : Option Nat
  key : Nat × Nat
  port : Option (Fin 128)
  left : Bool
  /-- It had left when a port went down: later ones to its package wait for its answer. -/
  early : Bool
  what : Out
  who : Asker
  deriving DecidableEq, Repr

/-- An ACQP whose response waits for a promotion (R276): who asked, the tag of the request, its line, the SEQ and the
scope that the promotion names, and the value it found. -/
structure AcqpHeld where
  who : Agent
  tag : Nat
  line : Loc
  q : Word
  scope : Scope
  v : DWord
  deriving DecidableEq, Repr

/-- The package. -/
structure Pkg where
  hbm : Mem
  cellar : Mem
  /-- Lines with a poison marker (R254). -/
  poison : List Loc
  l2 : List L2Line
  l2clock : Nat
  /-- ACQPs whose responses wait for a promotion (R276). -/
  acqps : List AcqpHeld
  rel : Table RelRec
  /-- Device registers, by offset in the device range, 8 B each; unlisted ones hold their reset value (R444). -/
  dev : Table DWord
  epochs : Table Word
  /-- Code lines of the cluster's middle level (R258). -/
  mid : List CodeLine
  replicas : List (Fin 8 × Loc × Byte)
  /-- Rows that have landed for experts of this package and are not yet released. -/
  landed : List YardRec
  yards : Vector (List YardRec) 8
  store : Vector (List Chunk) 8
  wire : List (Fin 8 × Chunk)
  rows : List (Fin 8 × RoutedRow)
  bound : List (BitVec 12 × Nat)
  fetches : List Fetch
  spawns : List Spawn
  spawnCount : Vector Word 8
  order : Nat
  credits : Vector (Vector Nat 7) 8
  streams : List Stream
  parkedCtx : List ParkedCtx
  migrations : List Migration
  revents : Vector (List Event) 8
  /-- Times in ns of the corrected errors that still count, by array or channel (R442). -/
  errors : Table (List Nat)
  scrub : Vector Nat 16
  /-- The words written to ATTREQ, and after them the nonce submitted (R476). -/
  nonce : List Byte
  /-- The modes in force of root ports 1 to 3 (R460): 0 disabled, 1 CXL, 2 NVMe. -/
  portMode : Vector (Fin 3) 3
  /-- Requests to other packages that have not been answered, the oldest first, and the tag of the next one (R451). -/
  requests : List Request
  tags : Nat
  /-- Packages to which later requests wait, since a port went down (R451). -/
  barred : List Nat
  /-- The first answers of this package's homes to the requests of others, by package and tag (R451). -/
  answered : List (Nat × Nat × HomeResp)
  /-- Bytes that have come from other packages or the host for the units of the package. -/
  unitData : List (Loc × List Byte × Bool)
  deriving DecidableEq, Repr

/-- The state of the machine. -/
structure State where
  core : Core
  pkg : Pkg
  coreId : BitVec 7
  /-- Steps of other agents and inputs, in their order (log 2). The model's own. -/
  agenda : List Instr
  out : List Out
  /-- Free values drawn so far (log 6). The model's own. -/
  fresh : Nat
  /-- Whose turn it is (log 2): at 15, an engine or scheduler that can step does. The model's own. -/
  turn : Fin 16
  deriving DecidableEq, Repr

/-! ## Reset (R478, R194) -/

def VReg.reset : VReg := { data := 0, tag := .raw }
def HandleReg.reset : HandleReg :=
  { vbase := 0, pbase := 0, state := .empty, size := 0, cause := 0, attr := 0, epoch := 0, asid := 0 }
def Regs.reset : Regs :=
  { x := Vector.replicate 32 0, f := Vector.replicate 32 0, v := Vector.replicate 8 (Vector.replicate 32 VReg.reset),
    m := Vector.replicate 8 (Vector.replicate 8 0), h := Vector.replicate 16 HandleReg.reset }
def Csrs.reset : Csrs :=
  { fflags := 0, frm := 0, instret := 0, sbmode := 0, vflags := 0, rdvEn := false, rdvSize := 1, rdvCount := 0, ilkcyc := 0,
    tcause := 0, tepc := 0, tval := 0, tnext := 0, tscratch := 0, tcause2 := 0, intrap := false, sbm := 0, pprv := false,
    pie := false, ie := false, prv := true, tvecBase := 0, tvecVec := false, asid := 0, ulen := 0, uoff := 0 }
def Ctx.reset : Ctx :=
  { regs := Regs.reset, csrs := Csrs.reset, loops := [], pc := 0, rc := 0, nextIssue := 0, seqNo := 0, flights := [], parked := [],
    resv := none, tlb := [], pend := 0, en := 0, detail := Vector.replicate 4 0, pfva := 0, pfValid := false, pfCause := 0,
    pfAsid := 0, pfKind := 0, status := .free, matrixSide := false, task := none, seg := none, rewound := none, arrived := none, ident := 0,
    remote := [], flagged := (0, 0) }
def Manifest.reset : Manifest := { live := [], count := 0, retired := 0, service := none, queued := [] }
def IBuf.reset : IBuf := { lines := [], path := 0, since := 0, resolved := 0, alt := none }
def Seq.reset (n : Nat) : Seq :=
  { banks := #v[{ Ctx.reset with ident := n }, { Ctx.reset with ident := n + 1 }], running := 0, cycle := 0, frzcyc := 0, evdrop := 0, binwd := 0x00100000, engStatus := 0,
    engLoad := false, engOp := none, loadStatus := Vector.replicate 2 0, hold := none, waited := 0, ibuf := IBuf.reset,
    man := Manifest.reset, events := [], now := 0 }
def AccBank.reset : AccBank := { rows := Vector.replicate 32 0, tag := .fp32, ovf := false }
def Latch.reset : Latch := { rows := Vector.replicate 8 0, tag := .raw, wb := 0 }
def Shelf.reset : Shelf := { entries := [], tag := 0 }
def Records.reset : Records := { active := [], standby := [] }
def Bin.reset : Bin :=
  { base := 0, nbank := 0, tag := .raw, decl := 0, head := 0, tail := 0, occ := 0, hwm := 0, ovdecl := false }
def Matrix.reset : Matrix :=
  { acc := Vector.replicate 8 (Vector.replicate 4 AccBank.reset), lat := Vector.replicate 8 (Vector.replicate 4 Latch.reset),
    active := Vector.replicate 8 Shelf.reset, standby := Vector.replicate 8 Shelf.reset,
    records := Vector.replicate 2 Records.reset, swap := Vector.replicate 2 none, bins := Vector.replicate 8 Bin.reset }
def Header.reset : Header :=
  { grp := 0, lit := 0, c1 := false, c0 := false, m := false, v1 := false, v0 := false, s := false, rdv := false, seg := false,
    scope := 0, wait := 0, indexed := false, len := 0 }
def Cur.reset : Cur := { pc := 0, hdr := Header.reset, hword := 0, slots := [], pool := [], traps := [], odd := [] }
def Queue.reset : Queue := { cmds := [], count := 0, done := [] }
def Core.reset : Core :=
  { a := Seq.reset 0, b := Seq.reset 2, active := .a, split := false, splitPend := false, splitErr := false, atticcfg := 0,
    mat := Matrix.reset, matHolder := Vector.replicate 2 none, matSaved := [], sram := [], sramBad := [],
    bankMode := Vector.replicate 64 .cache, cache := [], ranges := [], queues := Vector.replicate 2 Queue.reset, l1i := [],
    fsw := Vector.replicate 2 false, images := [], idents := 4, cur := Cur.reset }
def Pkg.reset : Pkg :=
  { hbm := [], cellar := [], poison := [], l2 := [], l2clock := 0, acqps := [], rel := [], dev := [], epochs := [], mid := [],
    replicas := [], landed := [], yards := Vector.replicate 8 [], store := Vector.replicate 8 [], wire := [], rows := [], bound := [],
    fetches := [], spawns := [], spawnCount := Vector.replicate 8 0, order := 0,
    credits := Vector.replicate 8 (Vector.replicate 7 0), streams := [], parkedCtx := [], migrations := [],
    revents := Vector.replicate 8 [], errors := [], scrub := Vector.replicate 16 0, nonce := [], portMode := Vector.replicate 3 0,
    requests := [], tags := 0, barred := [], answered := [], unitData := [] }

/-- The machine right after reset (R478 step 6), with the values of INVENTORY.md where the spec gives none (log 3, log 4). -/
def State.reset : State :=
  { core := Core.reset, pkg := Pkg.reset, coreId := 0, agenda := [], out := [], fresh := 0, turn := 0 }

/-! ## Stops -/

/-- Why a step of the machine stops. -/
inductive Fault where
  /-- Raised by HOST_READ and HOST_WRITE of bytes outside the 1 TiB that BAR2 maps (R457): no such memory exists. Safe. -/
  | outsideMemory
  deriving DecidableEq, Repr

/-- Why an instruction has no meaning here. -/
inductive Refusal where
  /-- Raised by the arm of an instruction that is not modelled yet. Safe. -/
  | notModelled (mnemonic : String)
  deriving DecidableEq, Repr

end Sys2Proof.Machine
end

