-- ==== Sys2Proof/Machine/Mem.lean ====
section
/-! DEFINITION. Sparse tables and byte memories in canonical form (strictly rising keys, no entry equal to the default), and
little-endian numbers in them (R4). -/

namespace Sys2Proof.Machine

/-- What a table holds at a key. -/
def tget {α : Type} (d : α) : Table α → Nat → α
  | [], _ => d
  | (k, v) :: r, a => if k = a then v else tget d r a

/-- The entries of the other keys. -/
def terase {α : Type} (t : Table α) (a : Nat) : Table α := t.filter (fun p => p.1 != a)

/-- A new entry, in its place among rising keys. -/
def tinsert {α : Type} (a : Nat) (v : α) : Table α → Table α
  | [] => [(a, v)]
  | (k, w) :: r => if a < k then (a, v) :: (k, w) :: r else (k, w) :: tinsert a v r

/-- A table with one key changed; a key set to the default is not listed. -/
def tset {α : Type} [DecidableEq α] (d : α) (t : Table α) (a : Nat) (v : α) : Table α :=
  if v = d then terase t a else tinsert a v (terase t a)

/-- The canonical form of a table. -/
def twf {α : Type} [DecidableEq α] (d : α) : Table α → Bool
  | [] => true
  | [(_, v)] => v ≠ d
  | (k, v) :: (k', v') :: r => decide (k < k') && decide (v ≠ d) && twf d ((k', v') :: r)

/-- A byte of memory; an unlisted byte reads 0 (R478 for HBM; log 4). -/
def Mem.get (m : Mem) (a : Nat) : Byte := tget 0 m a
def Mem.set (m : Mem) (a : Nat) (v : Byte) : Mem := tset 0 m a v
/-- The canonical form. -/
def Mem.wf (m : Mem) : Bool := twf 0 m

/-- Bytes from an address up. -/
def Mem.read (m : Mem) (a n : Nat) : List Byte := (List.range n).map (fun i => m.get (a + i))
/-- Bytes written from an address up, the lowest first. -/
def Mem.write (m : Mem) (a : Nat) : List Byte → Mem
  | [] => m
  | b :: bs => Mem.write (m.set a b) (a + 1) bs
/-- Bytes written at given addresses, in the order listed. -/
def Mem.writeAll (m : Mem) : List (Nat × Byte) → Mem
  | [] => m
  | (a, b) :: r => Mem.writeAll (m.set a b) r

/-- The number that little-endian bytes give (R4). -/
def leNat : List Byte → Nat
  | [] => 0
  | b :: bs => b.toNat + 256 * leNat bs
/-- The n little-endian bytes of a number. -/
def leBytes : Nat → Nat → List Byte
  | 0, _ => []
  | n + 1, v => BitVec.ofNat 8 v :: leBytes n (v / 256)

/-- Bytes with their addresses, ascending. -/
def placed (a : Nat) : List Byte → List (Nat × Byte)
  | [] => []
  | b :: bs => (a, b) :: placed (a + 1) bs

/-- Consecutive pieces of n bytes. -/
def pieces (n : Nat) : Nat → List Byte → List (List Byte)
  | 0, _ => []
  | k + 1, bs => bs.take n :: pieces n k (bs.drop n)

end Sys2Proof.Machine
end

