-- ==== Sys2Proof/Machine/Bits.lean ====
section
/-! DEFINITION. Fields of words, lanes and elements of vector registers (R46), and activity under a mask (R127). -/

namespace Sys2Proof.Machine

/-- Bits [lo+n-1 : lo] of a 64-bit value. -/
def bitsOf (v : DWord) (lo n : Nat) : Nat := v.toNat / 2 ^ lo % 2 ^ n
/-- A 64-bit value from a number. -/
def dw (n : Nat) : DWord := BitVec.ofNat 64 n
/-- A 32-bit word from a number. -/
def wd (n : Nat) : Word := BitVec.ofNat 32 n
/-- A 64-bit value from an integer, modulo 2^64. -/
def dwi (n : Int) : DWord := BitVec.ofInt 64 n
/-- sext() of an n-bit number (R6). -/
def sext (n v : Nat) : Int := if v % 2 ^ n < 2 ^ (n - 1) then (v % 2 ^ n : Nat) else (v % 2 ^ n : Nat) - (2 ^ n : Nat)
/-- An integer modulo 2^n. -/
def wrapTo (n : Nat) (i : Int) : Nat := (i % (2 ^ n : Nat)).toNat


/-- Elements of width w put together, element 0 lowest. -/
def packElems (w : Nat) : List Nat → Nat
  | [] => 0
  | x :: r => x % 2 ^ w + 2 ^ w * packElems w r
/-- Vector data from its elements of width w. -/
def ofElems (w : Nat) (es : List Nat) : VData := BitVec.ofNat 1024 (packElems w es)
/-- Element i of width w. -/
def elem (w : Nat) (v : VData) (i : Nat) : Nat := v.toNat / 2 ^ (w * i) % 2 ^ w
/-- Lane l. -/
def lane (v : VData) (l : Nat) : Nat := elem 32 v l
/-- The elements of width w, in order. -/
def elems (w : Nat) (v : VData) : List Nat := (List.range (1024 / w)).map (elem w v)
/-- Vector data with a given value in each lane. -/
def ofLanes (f : Nat → Nat) : VData := ofElems 32 ((List.range 32).map f)
/-- Vector data with a given value in each of the 16 lane pairs. -/
def ofPairs (f : Nat → Nat) : VData := ofElems 64 ((List.range 16).map f)
/-- Bit l of a mask register's value. -/
def maskBit (m : Word) (l : Nat) : Bool := m.getLsbD l

/-- All bits. -/
def allOnes : VData := BitVec.allOnes 1024
/-- The bits of the lanes a predicate names. -/
def laneBits (p : Nat → Bool) : VData := ofLanes (fun l => if p l then 0xFFFFFFFF else 0)
/-- Whether lane l is active for a result or source of a tag: the lane's own bit, or its pair's even bit for FP64 (R127). -/
def activeLane (fp64 : Bool) (m : Word) (l : Nat) : Bool := if fp64 then maskBit m (l / 2 * 2) else maskBit m l
/-- The bits that are written under a mask (R127). -/
def activeBits (fp64 : Bool) (m : Word) : VData := laneBits (activeLane fp64 m)
/-- Old bits where the mask is 0, new bits where it is 1. -/
def blend (mask new old : VData) : VData := (new &&& mask) ||| (old &&& ~~~mask)

end Sys2Proof.Machine

namespace Sys2Proof

/-- The element width of a tag (R43). -/
def Tag.width : Tag → Nat
  | .int16 | .bf16 | .fp16 => 16
  | .int8 | .uint8 | .e4m3 | .e5m2 => 8
  | .int4 | .fp4b => 4
  | .fp64 => 64
  | _ => 32
/-- Signed integer tags, and UINT8 unsigned (R47). -/
def Tag.isInt : Tag → Bool
  | .int32 | .int16 | .int8 | .uint8 | .int4 => true
  | _ => false
def Tag.isSigned : Tag → Bool
  | .int32 | .int16 | .int8 | .int4 => true
  | _ => false

end Sys2Proof
end

