-- ==== Sys2Proof/Machine/Access.lean ====
section
/-! DEFINITION. Locations, and named access to the parts of the state: sequencers and context banks, registers, time, device registers and
events. -/

namespace Sys2Proof.Machine

/-! ## Locations: a package number of 17 bits and an offset of 43, or the cellar at `cellarBase` (R226) -/

def cellarBase : Nat := 2 ^ 60
def locPkg (l : Loc) : Nat := l / 2 ^ 43 % 2 ^ 17
def locOff (l : Loc) : Nat := l % 2 ^ 43
def lineOf (l : Loc) : Loc := l / 64 * 64
/-- The lines that n bytes from a location touch, ascending. -/
def linesOf (l : Loc) (n : Nat) : List Loc :=
  if n = 0 then [] else (List.range ((l + n - 1) / 64 - l / 64 + 1)).map (fun i => (l / 64 + i) * 64)

/-! ## Parts of the state -/

def State.seqOf (s : State) (h : Half) : Seq :=
  match h with | .a => s.core.a | .b => s.core.b
def State.modSeq (h : Half) (f : Seq → Seq) (s : State) : State :=
  match h with
  | .a => { s with core := { s.core with a := f s.core.a } }
  | .b => { s with core := { s.core with b := f s.core.b } }
/-- The sequencer whose step this is. -/
def State.sq (s : State) : Seq := s.seqOf s.core.active
def State.modSq (f : Seq → Seq) (s : State) : State := s.modSeq s.core.active f
/-- The running context of a sequencer. -/
def Seq.ctx (q : Seq) : Ctx := q.banks.get q.running
def Seq.modBank (b : Fin 2) (f : Ctx → Ctx) (q : Seq) : Seq :=
  { q with banks := q.banks.set b.val (f (q.banks.get b)) b.isLt }
def Seq.modCtx (f : Ctx → Ctx) (q : Seq) : Seq := q.modBank q.running f
/-- The running context. -/
def State.ctx (s : State) : Ctx := s.sq.ctx
def State.modCtx (f : Ctx → Ctx) (s : State) : State := s.modSq (fun q => q.modCtx f)
def State.modCsrs (f : Csrs → Csrs) (s : State) : State := s.modCtx (fun c => { c with csrs := f c.csrs })
def State.modRegs (f : Regs → Regs) (s : State) : State := s.modCtx (fun c => { c with regs := f c.regs })
def State.modCore (f : Core → Core) (s : State) : State := { s with core := f s.core }
def State.modPkg (f : Pkg → Pkg) (s : State) : State := { s with pkg := f s.pkg }
def State.modMat (f : Matrix → Matrix) (s : State) : State := s.modCore (fun c => { c with mat := f c.mat })
def State.emit (o : Out) (s : State) : State := { s with out := s.out ++ [o] }
/-- What takes place in a half-core. -/
def State.asHalf (h : Half) (f : State → State) (s : State) : State :=
  let a := s.core.active
  (f (s.modCore (fun k => { k with active := h }))).modCore (fun k => { k with active := a })
/-- Every context bank of the core, with its half-core. -/
def State.allBanks (s : State) : List (Half × Fin 2 × Ctx) :=
  [(.a, 0, s.core.a.banks.get 0), (.a, 1, s.core.a.banks.get 1), (.b, 0, s.core.b.banks.get 0), (.b, 1, s.core.b.banks.get 1)]
/-- A change of every context bank of the core. -/
def State.modAllBanks (f : Half → Fin 2 → Ctx → Ctx) (s : State) : State :=
  (s.modSeq .a (fun q => (q.modBank 0 (f .a 0)).modBank 1 (f .a 1))).modSeq .b
    (fun q => (q.modBank 0 (f .b 0)).modBank 1 (f .b 1))
/-- A sequencer's index: 0 for A, 1 for B. -/
def halfIdx : Half → Fin 2
  | .a => 0 | .b => 1
/-- The index of the class records and swaps of the issuing core or half-core (R176). -/
def State.recIdx (s : State) : Fin 2 := if s.core.split then halfIdx s.core.active else 0
/-- Vector entries addressed by a Fin. -/
def vset {α : Type} {n : Nat} (v : Vector α n) (i : Fin n) (x : α) : Vector α n := v.set i.val x i.isLt
def vmod {α : Type} {n : Nat} (v : Vector α n) (i : Fin n) (f : α → α) : Vector α n := vset v i (f (v.get i))

/-- The next draw of a free value (log 6). -/
def State.drawn (s : State) : State := { s with fresh := s.fresh + 1 }

/-! ## Registers of the running context -/

/-- x0 reads 0. -/
def Ctx.x (c : Ctx) (r : Reg) : DWord := if r = 0 then 0 else c.regs.x.get r
def Ctx.f (c : Ctx) (r : Reg) : DWord := c.regs.f.get r
def Ctx.v (c : Ctx) (g : Group) (r : Reg) : VReg := (c.regs.v.get g).get r
/-- m0 reads all ones (R82). -/
def Ctx.m (c : Ctx) (g : Group) (r : MReg) : Word := if r = 0 then 0xFFFFFFFF else (c.regs.m.get g).get r
def Ctx.h (c : Ctx) (r : HReg) : HandleReg := c.regs.h.get r

def Regs.setX (r : Reg) (v : DWord) (g : Regs) : Regs := if r = 0 then g else { g with x := vset g.x r v }
def Regs.setF (r : Reg) (v : DWord) (g : Regs) : Regs := { g with f := vset g.f r v }
def Regs.setV (k : Group) (r : Reg) (v : VReg) (g : Regs) : Regs := { g with v := vmod g.v k (fun w => vset w r v) }
def Regs.setM (k : Group) (r : MReg) (v : Word) (g : Regs) : Regs :=
  if r = 0 then g else { g with m := vmod g.m k (fun w => vset w r v) }
def Regs.setH (r : HReg) (v : HandleReg) (g : Regs) : Regs := { g with h := vset g.h r v }

/-! ## Device registers (R444 to R446) -/

/-- Block bases, as offsets in the device range. -/
def devDie (d : Nat) : Nat := 0x100000000 + d * 0x1000000
def devIo (i : Nat) : Nat := 0x900000000 + i * 0x1000000
def devCore (k r : Nat) : Nat := devDie (k / 16) + 0x200000 + 0x1000 * (k % 16) + r
def devRouting (d r : Nat) : Nat := devDie d + 0x1000 + r
def devRel (d r : Nat) : Nat := devDie d + 0x2000 + r
def devColl (d : Nat) : Nat := devDie d + 0x3000
def devCluster (sl r : Nat) : Nat := devDie (sl / 4) + 0x100000 + 0x10000 * (sl % 4) + r
def devPort (p r : Nat) : Nat := 0x1000 + 16 * p + r
def devPower (r : Nat) : Nat := 0xC00000000 + r
def devCapture (d u r : Nat) : Nat := 0xC00100000 + d * 0x1000 + 64 * u + r
def devRing (r : Nat) : Nat := 0xC00200000 + r
def devSec (r : Nat) : Nat := 0xC00300000 + r
/-- The scheduler's registers; the host queue's are the same in every die and stand at die 0's (R403). -/
def devSched (d r : Nat) : Nat := devDie (if r < 0x28 then 0 else d) + r

/-- The reset value of the register at an offset, where it is not zero (R188, R278, R409, R443, R446, R452, R469, R471, R474). -/
def devReset (off : Nat) : DWord :=
  if off = 0x010 then 1
  else if off = 0x028 then 100
  else if 0x1000 ≤ off ∧ off < 0x1800 then (if off % 16 = 0 then 0x200000000001FFFF else 0)
  else if 0x100000000 ≤ off ∧ off < 0x108000000 then
    let r := (off - 0x100000000) % 0x1000000
    if r = 0x008 then 6
    else if r = 0x2000 then 0x80000000000003E8
    else if r = 0x2020 then 50
    else 0
  else if off = 0xC00000000 then 5000
  else if 0xC00000008 ≤ off ∧ off < 0xC00000048 then 0x9C40000
  else if 0xC00100000 ≤ off ∧ off < 0xC00108000 then
    let r := off % 0x1000
    if r ≥ 0x800 then 0 else if r % 64 = 0 then 0xFFFF00 else if r % 64 = 8 then 0xFFFFFFFFFFFFFFFF else 0
  else if off = 0xC00200008 then 8
  else 0

/-- A device register held in the table: what differs from its reset value is listed. -/
def State.dev (s : State) (off : Nat) : DWord := tget 0 s.pkg.dev off ^^^ devReset off
def State.setDev (off : Nat) (v : DWord) (s : State) : State :=
  s.modPkg (fun p => { p with dev := tset 0 p.dev off (v ^^^ devReset off) })
/-- A counter register that rises (R5: it wraps). -/
def State.bump (off n : Nat) (s : State) : State := s.setDev off (s.dev off + dw n)

def State.pkgId (s : State) : Nat := bitsOf (s.dev 0) 0 17
def State.die (s : State) : Nat := s.coreId.toNat / 16
/-- The slice of the core's own cluster. -/
def State.slice (s : State) : Nat := s.coreId.toNat / 4
/-- The register of the core's block, half-core B's 0x100 above (R427). -/
def State.coreReg (s : State) (h : Half) (r : Nat) : Nat :=
  devCore s.coreId.toNat (if h = .b then r + 0x100 else r)
/-- An agent of this package: the core as one agent. -/
def State.self (s : State) : Agent :=
  { pkg := BitVec.ofNat 17 s.pkgId, core := s.coreId, half := s.core.active }

/-! ## Time (R3, R13, R16, R17, R469) -/

/-- Units of global time in a nanosecond: the least number divisible by every clock step's divisor. -/
def unitNs : Nat := 232792560
/-- The clock of a die in MHz. -/
def State.mhz (s : State) (d : Nat) : Nat := bitsOf (s.dev (devPower (8 + 8 * d))) 16 12
/-- Units of global time in a cycle of the core. -/
def State.cycleUnits (s : State) : Nat := unitNs * 1000 / s.mhz s.die
/-- The global time stamp in ns, as the sequencer sees it. -/
def State.nowNs (s : State) : Nat := s.sq.now / unitNs
/-- The global time of the package: the later of the sequencers'. -/
def State.timeNs (s : State) : Nat := max s.core.a.now s.core.b.now / unitNs

/-- The budget of a stream falls by 1 for every core cycle in which its context runs (R414). -/
def Ctx.charge (n : Nat) (c : Ctx) : Ctx :=
  match c.task with
  | some t => if t.stream.isSome && c.status == .running then { c with task := some { t with budget := t.budget - n } } else c
  | none => c

/-- Core cycles pass. -/
def State.tick (n : Nat) (s : State) : State :=
  s.modSq (fun q => ({ q with cycle := q.cycle + dw n, now := q.now + n * s.cycleUnits }).modCtx (Ctx.charge n))

/-- Running cycles pass up to running cycle t of the context. -/
def State.runTo (t : Nat) (s : State) : State :=
  if s.ctx.rc < t then (s.tick (t - s.ctx.rc)).modCtx (fun c => { c with rc := t }) else s

/-- Frozen cycles pass (R17). -/
def State.frozen (n : Nat) (s : State) : State :=
  (s.tick n).modSq (fun q => { q with frzcyc := q.frzcyc + dw n, waited := q.waited + n })

/-! ## Capture units (R471, R472) -/

/-- The histogram bin of a sample. -/
def histBin (v : Nat) : Nat := if v = 0 then 0 else min (Nat.log2 v + 1) 15
/-- One unit takes a sample, if there is one (`on`) and it captures the quantity from the source. -/
def State.sampleUnit (d qty src v : Nat) (on : Bool) (u : Nat) (s : State) : State :=
  let c := s.dev (devCapture d u 0)
  if bitsOf c 63 1 = 1 ∧ bitsOf c 0 4 = qty ∧ (bitsOf c 8 16 = 0xFFFF ∨ bitsOf c 8 16 = src) ∧ on then
    let mn := (s.dev (devCapture d u 8)).toNat
    let mx := (s.dev (devCapture d u 16)).toNat
    let h := devCapture d u (0x20 + histBin v / 4 * 8)
    let w := s.dev h
    let lo := histBin v % 4 * 16
    let n := bitsOf w lo 16
    ((((s.setDev (devCapture d u 8) (dw (min mn v))).setDev (devCapture d u 16) (dw (max mx v))).bump (devCapture d u 24) 1).setDev h
      (if n = 0xFFFF then w else w + dw (2 ^ lo)))
  else s
/-- A sample reaches every unit of the die. -/
def State.sample (d qty src v : Nat) (s : State) (on : Bool := true) : State :=
  (List.range 32).foldl (fun s u => s.sampleUnit d qty src v on u) s
/-- The source number of the issuing core or half-core. -/
def State.srcId (s : State) : Nat :=
  s.coreId.toNat + (if s.core.split ∧ s.core.active = .b then 0x80 else 0)

/-- The frozen run that ends here is sampled (R472), and the wait is over. -/
def State.endWait (s : State) : State :=
  let q := s.sq
  let s' := if q.waited ≠ 0 ∧ q.hold ≠ some .rendezvous then s.sample s.die 1 s.srcId q.waited else s
  s'.modSq (fun q => { q with hold := none, waited := 0 })
/-- What the waiting bundle has asked of another agent is no longer wanted. -/
def State.forget (s : State) : State := s.modCtx (fun c => { c with remote := [] })
/-- The bundle at issue commits or is given up. -/
def State.leaveIssue (s : State) : State := s.endWait.forget

/-- A freeze of a length the spec does not fix (log 6), ended at once. -/
def State.freeFreeze (s : State) : State :=
  let n := Config.frozen s.fresh
  let s := s.drawn
  let s := (s.tick n).modSq (fun q => { q with frzcyc := q.frzcyc + dw n })
  s.sample s.die 1 s.srcId n (n != 0)

/-! ## Events (R121, R473, R474) -/

/-- A reliability event of a die unit: the die's buffer holds 256; beyond that it is counted in EVLOST. -/
def State.relEvent (d : Fin 8) (cause : Byte) (p0 p1 : DWord) (s : State) : State :=
  if (s.pkg.revents.get d).length < 256 then
    s.modPkg (fun p => { p with revents := vmod p.revents d (fun l => l ++
      [{ stamp := s.timeNs, src := 0x8000 + d.val, cause := cause, code := 0, p0 := p0, p1 := p1 }]) })
  else s.bump (devRing 0x20) 1
def State.dieFin (s : State) : Fin 8 := Fin.ofNat 8 s.die
/-- An event of the core: in its buffer of 64, or dropped (R121). -/
def State.coreEvent (cause : Byte) (code : BitVec 16) (p0 p1 : DWord) (s : State) : State :=
  let e : Event := { stamp := s.nowNs, src := s.srcId, cause := cause, code := code, p0 := p0, p1 := p1 }
  if s.sq.events.length < 64 then s.modSq (fun q => { q with events := q.events ++ [e] })
  else s.modSq (fun q => { (q.modCtx (fun c => { c with pend := c.pend ||| 0x08 })) with evdrop := q.evdrop + 1 })

/-- Bit of ASYNC for a cause 0xB8 to 0xBF. -/
def asyncBit (cause : Nat) : Byte := BitVec.ofNat 8 (2 ^ (cause - 0xB8))
/-- A kind A cause becomes pending in a context; its detail word is written when PEND goes from 0 to 1 (R427). -/
def Ctx.setPend (cause : Nat) (det : DWord) (c : Ctx) : Ctx :=
  if c.pend &&& asyncBit cause = 0 then
    { c with pend := c.pend ||| asyncBit cause,
             detail := if h : 0xBC ≤ cause ∧ cause < 0xC0 then c.detail.set (cause - 0xBC) det (by omega) else c.detail }
  else c

end Sys2Proof.Machine
end

