-- ==== Sys2Proof/Machine/Exact.lean ====
section
/-! DEFINITION. Exact numbers and correct rounding: the formats of R48 to R51, one rounding function for all of them (R55 to R57),
the operations on exact values, and the residues of R70. -/

namespace Sys2Proof.Machine

/-! ## Formats -/

/-- A floating-point format: exponent and mantissa widths and bias (R48). `ieee` is false for E4M3, which has no infinity and one
NaN code. -/
structure Fmt where
  eb : Nat
  mb : Nat
  bias : Nat
  ieee : Bool
  deriving DecidableEq, Repr

def Fmt.fp64 : Fmt := { eb := 11, mb := 52, bias := 1023, ieee := true }
def Fmt.fp32 : Fmt := { eb := 8, mb := 23, bias := 127, ieee := true }
def Fmt.fp16 : Fmt := { eb := 5, mb := 10, bias := 15, ieee := true }
def Fmt.bf16 : Fmt := { eb := 8, mb := 7, bias := 127, ieee := true }
def Fmt.e5m2 : Fmt := { eb := 5, mb := 2, bias := 15, ieee := true }
def Fmt.e4m3 : Fmt := { eb := 4, mb := 3, bias := 7, ieee := false }

/-- The format of a floating-point tag. -/
def Fmt.ofTag : Tag → Fmt
  | .fp64 => .fp64 | .fp16 => .fp16 | .bf16 => .bf16 | .e4m3 => .e4m3 | .e5m2 => .e5m2 | _ => .fp32

def Fmt.width (f : Fmt) : Nat := 1 + f.eb + f.mb
/-- The magnitude code of infinity; in E4M3 the code of NaN. -/
def Fmt.top (f : Fmt) : Nat := if f.ieee then (2 ^ f.eb - 1) * 2 ^ f.mb else 2 ^ (f.eb + f.mb) - 1
/-- The magnitude code of the largest finite value. -/
def Fmt.maxFinite (f : Fmt) : Nat := f.top - 1
/-- The canonical NaN (R49). -/
def Fmt.qnan (f : Fmt) : Nat := if f.ieee then f.top + 2 ^ (f.mb - 1) else f.top
def Fmt.signBit (f : Fmt) (neg : Bool) : Nat := if neg then 2 ^ (f.eb + f.mb) else 0
/-- Infinity, or canonical NaN where the format has none. -/
def Fmt.inf (f : Fmt) (neg : Bool) : Nat := if f.ieee then f.signBit neg + f.top else f.qnan
def Fmt.zero (f : Fmt) (neg : Bool) : Nat := f.signBit neg

/-- The value a code stands for: NaN, an infinity, or (−1)^neg × m × 2^e. -/
inductive Num where
  | nan (signalling : Bool)
  | inf (neg : Bool)
  | fin (neg : Bool) (m : Nat) (e : Int)
  deriving DecidableEq, Repr

/-- The value of a code (R48). -/
def Fmt.decode (f : Fmt) (c : Nat) : Num :=
  let neg := c / 2 ^ (f.eb + f.mb) % 2 == 1
  let ef := c / 2 ^ f.mb % 2 ^ f.eb
  let mf := c % 2 ^ f.mb
  if f.ieee ∧ ef = 2 ^ f.eb - 1 then
    if mf = 0 then .inf neg else .nan (mf / 2 ^ (f.mb - 1) % 2 == 0)
  else if ¬ f.ieee ∧ c % 2 ^ (f.eb + f.mb) = f.top then .nan false
  else if ef = 0 then .fin neg mf (1 - f.bias - f.mb)
  else .fin neg (2 ^ f.mb + mf) (ef - f.bias - f.mb)

def Num.neg : Num → Num
  | .nan s => .nan s | .inf n => .inf (!n) | .fin n m e => .fin (!n) m e
def Num.isNan : Num → Bool
  | .nan _ => true | _ => false
def Num.isSnan : Num → Bool
  | .nan s => s | _ => false
def Num.isFinite : Num → Bool
  | .fin .. => true | _ => false
def Num.isZero : Num → Bool
  | .fin _ m _ => m == 0 | _ => false
def Num.isNeg : Num → Bool
  | .nan _ => false | .inf n => n | .fin n _ _ => n

/-! ## Dyadics -/

namespace DyOps
/-- The mantissa of a value at a smaller exponent. -/
def at_ (d : Dy) (e : Int) : Int := d.m * (2 ^ (d.e - e).toNat : Nat)
end DyOps

def dyAdd (a b : Dy) : Dy :=
  let e := min a.e b.e
  { m := DyOps.at_ a e + DyOps.at_ b e, e := e }
def dyMul (a b : Dy) : Dy := { m := a.m * b.m, e := a.e + b.e }
def dyNeg (a : Dy) : Dy := { m := -a.m, e := a.e }
def dyZero : Dy := { m := 0, e := 0 }
/-- Order of exact values. -/
def dyLt (a b : Dy) : Bool :=
  let e := min a.e b.e
  decide (DyOps.at_ a e < DyOps.at_ b e)
def dyEq (a b : Dy) : Bool :=
  let e := min a.e b.e
  decide (DyOps.at_ a e = DyOps.at_ b e)
def dyOfInt (i : Int) : Dy := { m := i, e := 0 }
/-- The exact value of a finite number. -/
def Num.dy : Num → Dy
  | .fin n m e => { m := if n then -(m : Int) else m, e := e }
  | _ => dyZero

/-! ## Flags (R58) -/

def fNX : Byte := 0x01
def fUF : Byte := 0x02
def fOF : Byte := 0x04
def fDZ : Byte := 0x08
def fNV : Byte := 0x10
def fCSAT : Byte := 0x20
def fQSAT : Byte := 0x40
def fQNF : Byte := 0x80

/-- A computed code with the flags it sets. -/
abbrev FRes := Nat × Byte

/-! ## Rounding -/

/-- The rounding directions of R55 and of the F and D extensions. -/
inductive RMode where
  | rne | rz | ru | rd | rmm
  deriving DecidableEq, Repr

end Sys2Proof.Machine

namespace Sys2Proof
def Rnd.mode : Rnd → Machine.RMode
  | .rne => .rne | .rz => .rz | .ru => .ru | .rd => .rd
end Sys2Proof

namespace Sys2Proof.Machine

/-- Whether a magnitude whose dropped part is r of 2^k is rounded up. -/
def roundsUp (md : RMode) (neg : Bool) (sig r k : Nat) : Bool :=
  match md with
  | .rne => decide (2 * r > 2 ^ k) || (decide (2 * r = 2 ^ k) && sig % 2 == 1)
  | .rmm => decide (2 * r ≥ 2 ^ k)
  | .rz => false
  | .ru => !neg && r != 0
  | .rd => neg && r != 0

/-- m × 2^e rounded to a multiple of 2^q: the multiple, and whether something was dropped. -/
def roundAt (md : RMode) (neg : Bool) (m : Nat) (e q : Int) : Nat × Bool :=
  if q ≤ e then (m * 2 ^ (e - q).toNat, false)
  else
    let k := (q - e).toNat
    let sig := m / 2 ^ k
    let r := m % 2 ^ k
    (if roundsUp md neg sig r k then sig + 1 else sig, r != 0)

/-- A magnitude rounded as if the exponent range were unbounded above: its code, whether it was inexact, and whether it is tiny
after rounding (R57). -/
structure Rounded where
  code : Nat
  inexact : Bool
  tiny : Bool
  deriving DecidableEq, Repr

/-- Rounds m × 2^e, m > 0. -/
def roundMag (f : Fmt) (md : RMode) (neg : Bool) (m : Nat) (e : Int) : Rounded :=
  let top : Int := Nat.log2 m + e
  let emin : Int := 1 - f.bias
  let qmin : Int := emin - f.mb
  let q := max (top - f.mb) qmin
  let (sig, ix) := roundAt md neg m e q
  let free := (roundAt md neg m e (top - f.mb)).1
  { code := (q - qmin).toNat * 2 ^ f.mb + sig, inexact := ix,
    tiny := decide (top < emin) && !(decide (top = emin - 1) && free == 2 ^ (f.mb + 1)) }

/-- Whether an overflowing value of a sign goes to infinity in a direction. -/
def overflowsToInf (md : RMode) (neg : Bool) : Bool :=
  match md with
  | .rne | .rmm => true
  | .rz => false
  | .ru => !neg
  | .rd => neg

/-- The exact value (m plus a little more when sticky) × 2^e of a sign, rounded once into a format; a value beyond the largest
finite one gives infinity (in E4M3 canonical NaN) or the largest finite value, or always the latter when saturating (R57, R61). -/
def roundVal (f : Fmt) (md : RMode) (sat : Bool) (neg : Bool) (m : Nat) (e : Int) (sticky : Bool) : FRes :=
  if m = 0 ∧ ¬ sticky then (f.zero neg, 0)
  else
    let r := if sticky then roundMag f md neg (2 * m + 1) (e - 1) else roundMag f md neg m e
    if r.code ≥ f.top then
      if sat then (f.signBit neg + f.maxFinite, fOF ||| fNX ||| fCSAT)
      else if overflowsToInf md neg then (f.inf neg, fOF ||| fNX)
      else (f.signBit neg + f.maxFinite, fOF ||| fNX)
    else (f.signBit neg + r.code, (if r.inexact then fNX else 0) ||| (if r.inexact && r.tiny then fUF else 0))

/-- An exact dyadic rounded into a format; an exact zero takes the sign given. -/
def roundDy (f : Fmt) (md : RMode) (sat : Bool) (zneg : Bool) (d : Dy) : FRes :=
  if d.m = 0 then (f.zero zneg, 0) else roundVal f md sat (d.m < 0) d.m.natAbs d.e false

/-- The sign of an exact zero sum of terms of two signs (R57). -/
def cancelNeg (md : RMode) : Bool := md == .rd

def nvIf (b : Bool) : Byte := if b then fNV else 0

/-- The sum of two numbers (R57). -/
def addN (f : Fmt) (md : RMode) (a b : Num) : FRes :=
  match a, b with
  | .nan s, y => (f.qnan, nvIf (s || y.isSnan))
  | x, .nan s => (f.qnan, nvIf (s || x.isSnan))
  | .inf n, .inf n' => if n == n' then (f.inf n, 0) else (f.qnan, fNV)
  | .inf n, .fin .. => (f.inf n, 0)
  | .fin .., .inf n => (f.inf n, 0)
  | .fin n m e, .fin n' m' e' =>
    roundDy f md false (if n == n' && m == 0 && m' == 0 then n else cancelNeg md) (dyAdd (Num.fin n m e).dy (Num.fin n' m' e').dy)

/-- The product of two numbers. -/
def mulN (f : Fmt) (md : RMode) (a b : Num) : FRes :=
  match a, b with
  | .nan s, y => (f.qnan, nvIf (s || y.isSnan))
  | x, .nan s => (f.qnan, nvIf (s || x.isSnan))
  | .inf n, y => if y.isZero then (f.qnan, fNV) else (f.inf (n != y.isNeg), 0)
  | x, .inf n => if x.isZero then (f.qnan, fNV) else (f.inf (n != x.isNeg), 0)
  | .fin n m e, .fin n' m' e' => roundVal f md false (n != n') (m * m') (e + e') false

/-- a × b + c, rounded once (R141). -/
def fmaN (f : Fmt) (md : RMode) (a b c : Num) : FRes :=
  let bad := (match a, b with
    | .inf _, y => y.isZero
    | x, .inf _ => x.isZero
    | _, _ => false)
  if a.isNan || b.isNan || c.isNan || bad then (f.qnan, nvIf (a.isSnan || b.isSnan || c.isSnan || bad))
  else
    let pn := a.isNeg != b.isNeg
    if !a.isFinite || !b.isFinite then
      match c with
      | .inf n => if n == pn then (f.inf n, 0) else (f.qnan, fNV)
      | _ => (f.inf pn, 0)
    else
      match c with
      | .inf n => (f.inf n, 0)
      | c =>
        let p := dyMul a.dy b.dy
        roundDy f md false (if pn == c.isNeg && p.m == 0 && c.isZero then pn else cancelNeg md) (dyAdd p c.dy)

/-- Quotient of mantissas to n more bits than both, and whether a remainder is left. -/
def divMag (m m' n : Nat) : Nat × Bool :=
  let k := n + Nat.log2 m' + 1
  (m * 2 ^ k / m', m * 2 ^ k % m' != 0)

def divN (f : Fmt) (md : RMode) (a b : Num) : FRes :=
  match a, b with
  | .nan s, y => (f.qnan, nvIf (s || y.isSnan))
  | x, .nan s => (f.qnan, nvIf (s || x.isSnan))
  | .inf n, .inf _ => let _ := n; (f.qnan, fNV)
  | .inf n, .fin n' _ _ => (f.inf (n != n'), 0)
  | .fin n _ _, .inf n' => (f.zero (n != n'), 0)
  | .fin n m e, .fin n' m' e' =>
    if m' = 0 then (if m = 0 then (f.qnan, fNV) else (f.inf (n != n'), fDZ))
    else
      let (q, r) := divMag m m' (f.mb + 4)
      roundVal f md false (n != n') q (e - e' - (f.mb + 4 + Nat.log2 m' + 1 : Nat)) r

/-- The integer square root, bit by bit from bit k − 1 down. -/
def isqrtFrom (n : Nat) : Nat → Nat → Nat
  | 0, r => r
  | k + 1, r => isqrtFrom n k (if (r + 2 ^ k) * (r + 2 ^ k) ≤ n then r + 2 ^ k else r)
def isqrt (n : Nat) : Nat := isqrtFrom n (Nat.log2 n / 2 + 1) 0

/-- m × 2^e with m at least 2^n and e even. -/
def evenScaled (m : Nat) (e : Int) (n : Nat) : Nat × Int :=
  let k := n + (if (e - n) % 2 = 0 then 0 else 1)
  (m * 2 ^ k, e - k)

def sqrtN (f : Fmt) (md : RMode) (a : Num) : FRes :=
  match a with
  | .nan s => (f.qnan, nvIf s)
  | .inf n => if n then (f.qnan, fNV) else (f.inf false, 0)
  | .fin n m e =>
    if m = 0 then (f.zero n, 0)
    else if n then (f.qnan, fNV)
    else
      let (m', e') := evenScaled m e (2 * (f.mb + 4))
      let r := isqrt m'
      roundVal f md false false r (e' / 2) (r * r != m')

def rcpN (f : Fmt) (md : RMode) (a : Num) : FRes := divN f md (.fin false 1 0) a

def rsqN (f : Fmt) (md : RMode) (a : Num) : FRes :=
  match a with
  | .nan s => (f.qnan, nvIf s)
  | .inf n => if n then (f.qnan, fNV) else (f.zero false, 0)
  | .fin n m e =>
    if m = 0 then (f.inf n, fDZ)
    else if n then (f.qnan, fNV)
    else
      -- 1 / √(m × 2^e) = √(2^(2k) / m) × 2^(−e/2 − k) for even e
      let (m', e') := if e % 2 = 0 then (m, e) else (2 * m, e - 1)
      let k := f.mb + 4 + Nat.log2 m' + 1
      let r := isqrt (2 ^ (2 * k) / m')
      roundVal f md false false r (-(e' / 2) - k) (r * r * m' != 2 ^ (2 * k))

/-! ## Powers and logarithms of two (R146) -/

/-- An enclosure lo ≤ v ≤ hi, in units of 2^−prec. -/
def prec : Nat := 192

/-- Enclosures of 2^(1/2), 2^(1/4), ...: the product of those whose bit of the fraction num / 2^j is set, up to n of them. -/
def exp2Enc (num j : Nat) : Nat → Nat → (Nat × Nat) → (Nat × Nat) → Nat × Nat
  | 0, _, _, acc => (acc.1, acc.2 + acc.2 / 2 ^ (prec - 1) + 1)
  | n + 1, i, c, acc =>
    let c' := (isqrt (c.1 * 2 ^ prec), isqrt (c.2 * 2 ^ prec) + 1)
    let bit := if i ≤ j then num / 2 ^ (j - i) % 2 else 0
    exp2Enc num j n (i + 1) c' (if bit = 1 then (acc.1 * c'.1 / 2 ^ prec, acc.2 * c'.2 / 2 ^ prec + 1) else acc)

/-- The largest a below 2^(k) + r with a^(2^j) ≤ 2^(p × 2^j + num), bit by bit: the exact floor of 2^(p + num / 2^j). -/
def exp2Exact (p num j : Nat) : Nat → Nat → Nat
  | 0, r => r
  | k + 1, r => exp2Exact p num j k (if (r + 2 ^ k) ^ (2 ^ j) ≤ 2 ^ (p * 2 ^ j + num) then r + 2 ^ k else r)

/-- The floor of 2^(p + num / 2^j), for a fraction num / 2^j below 1. A fraction within 2^−(p + 2) of 1 gives 2^(p + 1) less at most
one half, since 2^−δ > 1 − δ. -/
def exp2Floor (p num j : Nat) : Nat :=
  if (2 ^ j - num) * 2 ^ (p + 2) < 2 ^ j then 2 ^ (p + 1) - 1 else
  let enc := exp2Enc num j prec 1 (2 * 2 ^ prec, 2 * 2 ^ prec) (2 ^ prec, 2 ^ prec)
  let lo := enc.1 / 2 ^ (prec - p)
  let hi := enc.2 / 2 ^ (prec - p)
  if lo = hi then lo else exp2Exact p num j (p + 1) 0

/-- 2^x (R146). Beyond every format's range the result overflows or is tiny whatever the fraction. -/
def exp2N (f : Fmt) (md : RMode) (a : Num) : FRes :=
  match a with
  | .nan s => (f.qnan, nvIf s)
  | .inf n => if n then (f.zero false, 0) else (f.inf false, 0)
  | .fin n m e =>
    if m = 0 then roundVal f md false false 1 0 false
    else if (Nat.log2 m : Int) + e ≥ 12 then roundVal f md false false 1 (if n then -5000 else 5000) true
    else if 0 ≤ e then roundVal f md false false 1 (if n then -((m * 2 ^ e.toNat : Nat) : Int) else (m * 2 ^ e.toNat : Nat)) false
    else
      let j := (-e).toNat
      let v : Int := if n then -(m : Int) else m
      let fl := v / (2 ^ j : Nat)
      let num := (v % (2 ^ j : Nat)).toNat
      if num = 0 then roundVal f md false false 1 fl false
      else
        let p := f.mb + 4
        roundVal f md false false (exp2Floor p num j) (fl - p) true

/-- Bits of log2 of z = m / 2^k in [1, 2), most significant first, by squaring an enclosure in units of 2^−wide; none where the
enclosure cannot decide. -/
def logWide : Nat := 512
def log2Enc : Nat → Nat → Nat → Nat → Option Nat
  | 0, _, _, acc => some acc
  | n + 1, lo, hi, acc =>
    let lo2 := lo * lo / 2 ^ logWide
    let hi2 := hi * hi / 2 ^ logWide + 1
    if hi2 < 2 ^ (logWide + 1) then log2Enc n lo2 hi2 (2 * acc)
    else if lo2 ≥ 2 ^ (logWide + 1) then log2Enc n (lo2 / 2) (hi2 / 2 + 1) (2 * acc + 1)
    else none
/-- The same with exact squares of z = m / 2^k. -/
def log2Exact : Nat → Nat → Nat → Nat → Nat
  | 0, _, _, acc => acc
  | n + 1, m, k, acc =>
    if m * m < 2 ^ (2 * k + 1) then log2Exact n (m * m) (2 * k) (2 * acc) else log2Exact n (m * m) (2 * k + 1) (2 * acc + 1)

/-- The number of fraction bits of a logarithm that rounding uses. -/
def logBits : Nat := 200

def log2N (f : Fmt) (md : RMode) (a : Num) : FRes :=
  match a with
  | .nan s => (f.qnan, nvIf s)
  | .inf n => if n then (f.qnan, fNV) else (f.inf false, 0)
  | .fin n m e =>
    if m = 0 then (f.inf true, fDZ)
    else if n then (f.qnan, fNV)
    else
      let k := Nat.log2 m
      let whole : Int := k + e
      if m = 2 ^ k then roundDy f md false false (dyOfInt whole)
      else
        let z := m * 2 ^ (logWide - k)
        let frac := match log2Enc logBits z z 0 with
          | some b => b
          | none => log2Exact logBits m k 0
        -- the exact value lies strictly between (whole × 2^t + frac) / 2^t and the next multiple
        let v : Int := whole * (2 ^ logBits : Nat) + frac
        if v ≥ 0 then roundVal f md false false v.toNat (-(logBits : Int)) true
        else roundVal f md false true (-(v + 1)).toNat (-(logBits : Int)) true

/-! ## Conversions (R61 to R64) -/

/-- An exact dyadic rounded to an integer, and whether it was inexact. -/
def roundInt (md : RMode) (d : Dy) : Int × Bool :=
  let (s, ix) := roundAt md (d.m < 0) d.m.natAbs d.e 0
  (if d.m < 0 then -(s : Int) else s, ix)

/-- A conversion between floating-point formats (R61). -/
def cvtFloat (f : Fmt) (md : RMode) (sat : Bool) (a : Num) : FRes :=
  match a with
  | .nan s => (f.qnan, nvIf s)
  | .inf n => if sat then (f.signBit n + f.maxFinite, fCSAT) else if f.ieee then (f.inf n, 0) else (f.qnan, fNV)
  | .fin n m e => roundVal f md sat n m e false

/-- The bounds of an integer of w bits. -/
def intLo (signed : Bool) (w : Nat) : Int := if signed then -(2 ^ (w - 1) : Nat) else 0
def intHi (signed : Bool) (w : Nat) : Int := if signed then (2 ^ (w - 1) : Nat) - 1 else (2 ^ w : Nat) - 1

/-- A conversion to an integer format, which always saturates (R62). -/
def cvtToInt (signed : Bool) (w : Nat) (md : RMode) (a : Num) : FRes :=
  match a with
  | .nan _ => (0, fNV ||| fCSAT)
  | .inf n => (wrapTo w (if n then intLo signed w else intHi signed w), fCSAT)
  | .fin n m e =>
    let (i, ix) := roundInt md (Num.fin n m e).dy
    if i < intLo signed w then (wrapTo w (intLo signed w), fCSAT)
    else if i > intHi signed w then (wrapTo w (intHi signed w), fCSAT)
    else (wrapTo w i, if ix then fNX else 0)

/-- A conversion from an integer (R63). -/
def cvtOfInt (f : Fmt) (md : RMode) (sat : Bool) (i : Int) : FRes := roundDy f md sat false (dyOfInt i)

/-- A saturating narrowing of an integer (R64). -/
def clampInt (signed : Bool) (w : Nat) (i : Int) : FRes :=
  if i < intLo signed w then (wrapTo w (intLo signed w), fCSAT)
  else if i > intHi signed w then (wrapTo w (intHi signed w), fCSAT)
  else (wrapTo w i, 0)

/-! ## Comparison and classes -/

/-- Order of two numbers that are not NaN: a < b. −0 equals +0. -/
def numLt (a b : Num) : Bool :=
  match a, b with
  | .inf n, .inf n' => n && !n'
  | .inf n, _ => n
  | _, .inf n' => !n'
  | x, y => dyLt x.dy y.dy
def numEq (a b : Num) : Bool :=
  match a, b with
  | .inf n, .inf n' => n == n'
  | .fin n m e, .fin n' m' e' => dyEq (Num.fin n m e).dy (Num.fin n' m' e').dy
  | _, _ => false
/-- a < b with −0 below +0 (R142). -/
def numLtZ (a b : Num) : Bool := if a.isZero && b.isZero then a.isNeg && !b.isNeg else numLt a b

/-- The class word of a code (R145). -/
def classOf (f : Fmt) (c : Nat) : Nat :=
  match f.decode c with
  | .nan s => if s then 2 ^ 8 else 2 ^ 9
  | .inf n => if n then 2 ^ 0 else 2 ^ 7
  | .fin n m _ =>
    if m = 0 then (if n then 2 ^ 3 else 2 ^ 4)
    else if m < 2 ^ f.mb then (if n then 2 ^ 2 else 2 ^ 5)
    else (if n then 2 ^ 1 else 2 ^ 6)

/-- minimumNumber and maximumNumber (R142). -/
def minMaxN (f : Fmt) (mx : Bool) (ca cb : Nat) : FRes :=
  let a := f.decode ca
  let b := f.decode cb
  let fl := nvIf (a.isSnan || b.isSnan)
  match a.isNan, b.isNan with
  | true, true => (f.qnan, fl)
  | true, false => (cb, fl)
  | false, true => (ca, fl)
  | false, false => (if (if mx then numLtZ a b else numLtZ b a) then cb else ca, fl)

/-! ## Blocked values (R50 to R53) -/

/-- An E2M1 element (R50). -/
def e2m1 (c : Nat) : Num :=
  let neg := c / 8 % 2 == 1
  let ef := c / 2 % 4
  let mf := c % 2
  if ef = 0 then .fin neg mf (-1) else .fin neg (2 + mf) (ef - 2)

/-- An E3M5 scale (R51). -/
def e3m5 (c : Nat) : Num :=
  let ef := c / 32 % 8
  let mf := c % 32
  if c % 256 = 0xFF then .nan false
  else if ef = 0 then .fin false mf (-7) else .fin false (32 + mf) (ef - 8)

/-- The blocked value of an element (R53); `true` beside it when the NaN arose from an infinity times a zero (case 3). -/
def blocked (el sc band : Nat) : Num × Bool :=
  let x := e2m1 el
  let s := e3m5 sc
  let b := Fmt.bf16.decode band
  match s, b with
  | .nan _, _ => (.nan false, false)
  | _, .nan _ => (.nan false, false)
  | s, .inf n => if x.isZero || s.isZero then (.nan false, true) else (.inf (x.isNeg != n), false)
  | s, b => (.fin (x.isNeg != b.isNeg) (x.dy.m.natAbs * s.dy.m.natAbs * b.dy.m.natAbs) (x.dy.e + s.dy.e + b.dy.e), false)

/-- Element k of a block given by its element word and scale word (R52). -/
def blockElem (word scale k : Nat) : Num × Bool := blocked (word / 2 ^ (4 * k) % 16) (scale % 256) (scale / 2 ^ 16 % 2 ^ 16)

/-- z = num/den rounded to the nearest E2M1 magnitude, ties to the code with m 0; above 6 gives 6 (R54). -/
def e2m1Near (num den : Nat) : Nat :=
  -- thresholds halfway between successive magnitudes 0, ½, 1, 1½, 2, 3, 4, 6, in quarters: 1, 3, 5, 7, 10, 14, 20
  let past (q : Nat) (tieUp : Bool) : Nat := if 4 * num > q * den ∨ (tieUp ∧ 4 * num = q * den) then 1 else 0
  past 1 false + past 3 true + past 5 false + past 7 true + past 10 false + past 14 true + past 20 false

/-- The magnitude of an E3M5 code in units of 2^−7. -/
def e3m5Units (c : Nat) : Nat := if c / 32 = 0 then c % 32 else (32 + c % 32) * 2 ^ (c / 32 - 1)

/-- The smallest code from c up with value at least num/den, in units of 2^−7. -/
def e3m5Least (num den : Nat) : Nat → Nat → Nat
  | 0, c => c
  | n + 1, c => if e3m5Units c * den ≥ num then c else e3m5Least num den n (c + 1)

/-- Exact quotient |a| / |b| as num/den of naturals. -/
def ratio (a b : Dy) : Nat × Nat :=
  let e := min a.e b.e
  ((DyOps.at_ a e).natAbs, (DyOps.at_ b e).natAbs)

/-- VQNT4 of one block: element word, scale, flags (R54). -/
def quantBlock (xs : List Num) (b : Num) : Nat × Nat × Byte :=
  if b.isNan || !b.isFinite || b.isZero || xs.any (fun x => !x.isFinite) then (0, 0xFF, fQNF)
  else
    let sgn := xs.map (fun x => if x.isNeg != b.isNeg then 8 else 0)
    let amax := xs.foldl (fun d x => let y := { x.dy with m := (x.dy.m.natAbs : Int) }; if dyLt d y then y else d) dyZero
    if amax.m = 0 then (packElems 4 sgn, 0x00, 0)
    else
      let (n, d) := ratio amax b.dy
      -- t = n / (6d) against 31.0
      let past31 := decide (n > 186 * d)
      let sc := if past31 then 0xFE else e3m5Least (n * 128) (6 * d) 0xFD 0x01
      let code (x : Num) : Nat :=
        let (n, d) := ratio x.dy b.dy
        e2m1Near (n * 128) (d * e3m5Units sc)
      (packElems 4 ((xs.zip sgn).map (fun p => p.2 + code p.1)), sc, if past31 then fQSAT else 0)

/-! ## Residues (R70, R71) -/

def resP : Nat := 2 ^ 61 - 1

/-- The residue of a finite value. -/
def residue (d : Dy) : Nat :=
  let r := d.m.natAbs % resP * 2 ^ ((d.e + 1074) % 61).toNat % resP
  if d.m < 0 then (resP - r) % resP else r

/-- The residue sum, finite count and non-finite count of a list of values. -/
def residues : List Num → Nat × Nat × Nat
  | [] => (0, 0, 0)
  | x :: r =>
    let (s, n, k) := residues r
    match x with
    | .fin .. => ((residue x.dy + s) % resP, n + 1, k)
    | _ => (s, n, k + 1)

/-- The value of one element of a numeric tag other than FP4B, or of a RAW word read as INT32 (R347). -/
def elemNum (t : Tag) (c : Nat) : Num :=
  match t with
  | .fp64 | .fp32 | .bf16 | .fp16 | .e4m3 | .e5m2 => (Fmt.ofTag t).decode c
  | .uint8 => .fin false (c % 256) 0
  | t => let i := sext t.width c; .fin (i < 0) i.natAbs 0

end Sys2Proof.Machine
end

