-- ==== Sys2Proof/Machine/Flags.lean ====
section
/-! DEFINITION. The sticky flags: how results set them when they land (R58, R59), and their CSR views (R13). -/

namespace Sys2Proof.Machine

/-- Landing flags are ORed in (R58, R59). -/
def Csrs.orFlags (vf : Byte) (ff : BitVec 5) (c : Csrs) : Csrs := { c with vflags := c.vflags ||| vf, fflags := c.fflags ||| ff }

/-- The fcsr of the F extension: frm above fflags. -/
def Csrs.fcsr (c : Csrs) : DWord := dw (c.frm.toNat * 32 + c.fflags.toNat)
def Csrs.setFcsr (v : DWord) (c : Csrs) : Csrs :=
  { c with fflags := BitVec.ofNat 5 v.toNat, frm := BitVec.ofNat 3 (v.toNat / 32) }

/-- The five flags that an FP operation of the scalar unit sets, from those of R58. -/
def scalarFlags (fl : Byte) : BitVec 5 := BitVec.ofNat 5 fl.toNat

/-- Flags of many elements together: the OR of all of them (R58). -/
def orAll (l : List FRes) : Byte := l.foldl (fun b r => b ||| r.2) 0

end Sys2Proof.Machine
end

