-- ==== Sys2Proof/Machine/Landing.lean ====
section
/-! DEFINITION. Results in flight (R19 to R22): how they are made, what a landing writes, and the undo log of a segment (R436). -/

namespace Sys2Proof.Machine

/-! ## Accumulators and latches -/

def Matrix.bank (m : Matrix) (g : Group) (b : Fin 4) : AccBank := (m.acc.get g).get b
def Matrix.modBank (g : Group) (b : Fin 4) (f : AccBank → AccBank) (m : Matrix) : Matrix :=
  { m with acc := vmod m.acc g (fun v => vmod v b f) }
def Matrix.latch (m : Matrix) (g : Group) (l : Fin 4) : Latch := (m.lat.get g).get l
def Matrix.modLatch (g : Group) (l : Fin 4) (f : Latch → Latch) (m : Matrix) : Matrix :=
  { m with lat := vmod m.lat g (fun v => vmod v l f) }
/-- The other bank of an FP64 pair. -/
def oddOf (b : Fin 4) : Fin 4 := Fin.ofNat 4 (b.val / 2 * 2 + 1)
def evenOf (b : Fin 4) : Fin 4 := Fin.ofNat 4 (b.val / 2 * 2)
/-- The banks ACC:ACC+1 that an FP64 operation names, where ACC+1 exists (the checks see an odd ACC as it is written). -/
def pairOf (b : Fin 4) : List (Fin 4) := if b = 3 then [b] else [b, Fin.ofNat 4 (b.val + 1)]

/-- The tag of an accumulator format. -/
def AccFmt.tag : AccFmt → Tag
  | .fp32 => .fp32 | .int32 => .int32 | .fp64 => .fp64

/-- One element of a floating-point beat (R66). `old` is the accumulator's value. -/
def combineFp (f : Fmt) (old : Num) (t : Terms) : Nat :=
  let nan := t.nan || old.isNan
  let pinf := t.pinf || old == .inf false
  let ninf := t.ninf || old == .inf true
  if nan || (pinf && ninf) then f.qnan
  else if pinf then f.inf false
  else if ninf then f.inf true
  else
    let s := dyAdd old.dy t.sum
    if s.m = 0 then f.zero (!t.notNegZero && old.isZero && old.isNeg) else (roundDy f .rne false false s).1

/-- One element of an integer beat (R68), and whether the sum left the range. -/
def combineInt (old : Nat) (t : Terms) : Nat × Bool :=
  let s := sext 32 old + t.sum.m * (2 ^ t.sum.e.toNat : Nat)
  (wrapTo 32 s, decide (s < -(2 ^ 31 : Int) ∨ s ≥ (2 ^ 31 : Int)))

/-- A row of 32 elements of a beat in FP32 or INT32 format: the new row and the overflow. -/
def beatRow32 (int : Bool) (row : VData) (ts : List Terms) : VData × Bool :=
  let rs := (elems 32 row).zip ts |>.map (fun p =>
    if int then combineInt p.1 p.2 else (combineFp .fp32 (Fmt.fp32.decode p.1) p.2, false))
  (ofElems 32 (rs.map (·.1)), rs.any (·.2))

/-- Rows of an FP64 pair (R67): low halves in the even bank, high halves in the odd one. -/
def beatRow64 (lo hi : VData) (ts : List Terms) : VData × VData :=
  let rs := ((elems 32 lo).zip (elems 32 hi)).zip ts |>.map (fun p =>
    combineFp .fp64 (Fmt.fp64.decode (p.1.1 + 2 ^ 32 * p.1.2)) p.2)
  (ofElems 32 rs, ofElems 32 (rs.map (fun r => r / 2 ^ 32)))

/-- A row of a bank. -/
def AccBank.row (b : AccBank) (r : Nat) : VData := b.rows.toList.getD r 0
def AccBank.setRow (r : Nat) (v : VData) (b : AccBank) : AccBank :=
  { b with rows := if h : r < 32 then b.rows.set r v h else b.rows }
/-- A bank with every element zero, its flag clear, under a tag (R209, R214). -/
def AccBank.zeroed (t : Tag) : AccBank := { rows := Vector.replicate 32 0, tag := t, ovf := false }

/-- What a clearing beat does to a bank before it adds (R209): the whole bank where it is retagged, else its block. -/
def clearFor (t : Tag) (retag : Bool) (blk : Fin 4) (b : AccBank) : AccBank :=
  if retag then AccBank.zeroed t else (List.range 8).foldl (fun b i => b.setRow (8 * blk.val + i) 0) b

/-- The banks a beat writes. -/
def beatBanks (fmt : AccFmt) (bank : Fin 4) : List (Fin 4) := if fmt = .fp64 then [evenOf bank, oddOf bank] else [bank]
/-- Whether a clearing beat retags: some bank of it does not carry the accumulator tag (R209). -/
def Matrix.retags (m : Matrix) (g : Group) (bank : Fin 4) (fmt : AccFmt) : Bool :=
  (beatBanks fmt bank).any (fun b => (m.bank g b).tag != fmt.tag)

/-- A beat lands (R203, R209). -/
def Matrix.beat (g : Group) (bank blk : Fin 4) (fmt : AccFmt) (clear pad bad : Bool) (ts : List Terms) (m : Matrix) : Matrix :=
  let retag := m.retags g bank fmt
  let cl (b : AccBank) := if clear then clearFor fmt.tag retag blk b else b
  let poison (b : AccBank) : AccBank := if bad then { b with tag := .poison } else b
  let tsRow (i : Nat) := (ts.drop (32 * i)).take 32
  match fmt with
  | .fp64 =>
    let m := (m.modBank g (evenOf bank) cl).modBank g (oddOf bank) cl
    let m := if pad then m else (List.range 8).foldl (fun m i =>
      let r := 8 * blk.val + i
      let p := beatRow64 ((m.bank g (evenOf bank)).row r) ((m.bank g (oddOf bank)).row r) (tsRow i)
      (m.modBank g (evenOf bank) (AccBank.setRow r p.1)).modBank g (oddOf bank) (AccBank.setRow r p.2)) m
    (m.modBank g (evenOf bank) poison).modBank g (oddOf bank) poison
  | _ =>
    let m := m.modBank g bank cl
    let m := if pad then m else (List.range 8).foldl (fun m i =>
      let r := 8 * blk.val + i
      let p := beatRow32 (fmt == .int32) ((m.bank g bank).row r) (tsRow i)
      m.modBank g bank (fun b => { b.setRow r p.1 with ovf := b.ovf || p.2 })) m
    m.modBank g bank poison

/-- The word of a lane, with the bits that the open segment forwards (R273). -/
def LaneAsk.word (k : LaneAsk) : Nat :=
  match k.got with
  | some (w, _) => ((k.held &&& k.heldMask) ||| (w &&& ~~~k.heldMask)).toNat
  | none => 0
/-- A lane that failed, or whose word is uncorrectable. -/
def LaneAsk.failed (k : LaneAsk) : Bool := match k.got with | some (_, c) => c != 0 | none => false
/-- The data of a landing. -/
def landingData (ls : List LaneAsk) : VData :=
  ofLanes (fun l => match ls.find? (fun k => k.lane == l) with | some k => k.word | none => 0)

/-- What a write in flight does when it lands, to the registers of its context. -/
def Regs.apply (w : Write) (r : Regs) : Regs :=
  match w with
  | .x d v => r.setX d v
  | .f d v => r.setF d v
  | .v g d data mask tag => r.setV g d { data := blend mask data ((r.v.get g).get d).data, tag := tag }
  | .m g d bits mask => r.setM g d ((bits &&& mask) ||| ((r.m.get g).get d &&& ~~~mask))
  | .h d v => r.setH d v
  | .landing g d mask tag ls _ =>
    r.setV g d { data := blend mask (landingData ls) ((r.v.get g).get d).data,
                 tag := if ls.any LaneAsk.failed then .poison else tag }
  | _ => r

/-- What a write in flight does when it lands, to the matrix-side state. -/
def Matrix.apply (w : Write) (m : Matrix) : Matrix :=
  match w with
  | .beat g bank blk fmt clear _ pad bad ts => m.beat g bank blk fmt clear pad bad ts
  | .accRows g bank _ rows =>
    m.modBank g bank (fun b => rows.foldl (fun b p => b.setRow p.1 (blend p.2.2 p.2.1 (b.row p.1))) b)
  | .accZero g bank tag => m.modBank g bank (fun _ => AccBank.zeroed tag)
  | .latchRow g l row data tag => m.modLatch g l (fun x => { x with rows := vset x.rows row data, tag := tag })
  | _ => m

/-- The registers and blocks a write changes (R23). -/
def Write.res : Write → List Res
  | .x r _ => if r = 0 then [] else [.x r]
  | .f r _ => [.f r]
  | .v g r .. => [.v g r]
  | .m g r .. => [.m g r]
  | .h r _ => [.h r]
  | .landing g r .. => [.v g r]
  | .beat g bank blk fmt _ whole .. =>
    (beatBanks fmt bank).flatMap (fun b => if whole then [.acc g b 0, .acc g b 1, .acc g b 2, .acc g b 3] else [.acc g b blk])
  | .accRows g bank blk _ => [.acc g bank blk]
  | .accZero g bank _ => [.acc g bank 0, .acc g bank 1, .acc g bank 2, .acc g bank 3]
  | .latchRow .. => []
  | .flags => []

/-- The number of a tracked resource in tval (R27). -/
def Res.num : Res → Nat
  | .x r => r.val
  | .f r => 32 + r.val
  | .v _ r => 64 + r.val
  | .m _ r => 96 + r.val
  | .h r => 104 + r.val
  | .acc _ bank blk => 128 + bank.val * 8 + blk.val

/-! ## The undo log (R436) -/

/-- What two log entries are about is the same. -/
def Undo.same : Undo → Undo → Bool
  | .x r _, .x r' _ => r == r'
  | .f r _, .f r' _ => r == r'
  | .v g r _, .v g' r' _ => g == g' && r == r'
  | .m g r _, .m g' r' _ => g == g' && r == r'
  | .h r _, .h r' _ => r == r'
  | .acc g b k .., .acc g' b' k' .. => g == g' && b == b' && k == k'
  | .latchRow g l r .., .latchRow g' l' r' .. => g == g' && l == l' && r == r'
  | .block a _, .block a' _ => a == a'
  | .shelf g i _, .shelf g' i' _ => g == g' && i == i'
  | _, _ => false

/-- The bytes an entry charges. -/
def Undo.cost : Undo → Nat
  | .x .. | .f .. => 16
  | .v .. | .m .. | .h .. | .latchRow .. | .block .. => 144
  | .acc .. => 1040
  | .shelf .. => 48

/-- A charge to the log; beyond ULEN KiB the segment becomes unrewindable (R436, R439). -/
def Segment.chargeLog (n : Nat) (ulen : Nat) (g : Segment) : Segment :=
  if g.charge + n > ulen * 1024 then { g with why := g.why.orElse (fun _ => some 1) } else { g with charge := g.charge + n }
/-- A first change since the mark is logged. -/
def Segment.addUndo (u : Undo) (ulen : Nat) (g : Segment) : Segment :=
  if g.why.isSome || g.log.any u.same then g
  else
    let g' := g.chargeLog u.cost ulen
    if g'.why.isSome then g' else { g' with log := g'.log ++ [u] }

/-- Whether the log of the running context's open segment holds a state. -/
def State.inLog (s : State) (u : Undo) : Bool := match s.ctx.seg with | some g => g.log.any u.same | none => false

/-- Logs states of the running context's open segment. -/
def State.logUndo (us : List Undo) (s : State) : State :=
  s.modCtx (fun c => match c.seg with
    | some g => { c with seg := some (us.foldl (fun g u => g.addUndo u c.csrs.ulen.toNat) g) }
    | none => c)

/-- Whether the matrix-side state that the core holds is that of the running context, or of none (R411). -/
def State.holdsMat (s : State) : Bool :=
  match s.core.matHolder.get (halfIdx s.core.active) with
  | some b => b == s.sq.running
  | none => true
/-- A saved matrix-side state is the running context's. -/
def State.ownSaved (s : State) (x : Half × Fin 2 × SavedMatrix) : Bool := x.1 == s.core.active && x.2.1 == s.sq.running
/-- The matrix-side state of the running context, wherever it is held (R411). -/
def State.myMat (s : State) : Matrix :=
  if s.holdsMat then s.core.mat
  else match s.core.matSaved.find? s.ownSaved with
    | some x => x.2.2.mat
    | none => Matrix.reset
/-- A change of it: a result of the context lands in the state that the engine has saved, where another context's is held (R417). -/
def State.modMyMat (f : Matrix → Matrix) (s : State) : State :=
  if s.holdsMat then s.modMat f
  else s.modCore (fun c => { c with matSaved := c.matSaved.map (fun x =>
    if s.ownSaved x then (x.1, x.2.1, { x.2.2 with mat := f x.2.2.mat }) else x) })

/-- The present values of what a write is about to change. -/
def State.undoOf (s : State) (w : Write) : List Undo :=
  let c := s.ctx
  match w with
  | .x r _ => if r = 0 then [] else [.x r (c.x r)]
  | .f r _ => [.f r (c.f r)]
  | .v g r .. | .landing g r .. => [.v g r (c.v g r)]
  | .m g r .. => if r = 0 then [] else [.m g r ((c.regs.m.get g).get r)]
  | .h r _ => [.h r (c.h r)]
  | .beat g bank blk fmt clear .. =>
    let one (b : Fin 4) : List Undo :=
      let k := s.myMat.bank g b
      let blks : List (Fin 4) := if clear && s.myMat.retags g bank fmt then [0, 1, 2, 3] else [blk]
      blks.map (fun q => .acc g b q ((List.range 8).map (fun i => k.row (8 * q.val + i))) k.tag k.ovf)
    (beatBanks fmt bank).flatMap one
  | .accRows g bank blk _ =>
    let k := s.myMat.bank g bank
    [.acc g bank blk ((List.range 8).map (fun i => k.row (8 * blk.val + i))) k.tag k.ovf]
  | .accZero g bank _ =>
    let k := s.myMat.bank g bank
    ([0, 1, 2, 3] : List (Fin 4)).map (fun q => .acc g bank q ((List.range 8).map (fun i => k.row (8 * q.val + i))) k.tag k.ovf)
  | .latchRow g l row .. =>
    let k := s.myMat.latch g l
    [.latchRow g l row (k.rows.get row) k.tag k.wb]
  | .flags => []

/-- Logs what a landing write changes: a write issued before the mark charges twice, and is kept with its landing cycle. -/
def State.logWrite (f : Flight) (s : State) : State :=
  match s.ctx.seg with
  | none => s
  | some g =>
    let us := s.undoOf f.w
    if f.seq < g.markSeq then
      s.modCtx (fun c => match c.seg with
        | some g => if g.why.isSome then c else
            let g' := g.chargeLog ((us.map Undo.cost).sum * 2) c.csrs.ulen.toNat
            { c with seg := some (if g'.why.isSome then g' else
                { g' with log := g'.log ++ us.filter (fun u => !g'.log.any u.same), landed := g'.landed ++ [f] }) }
        | none => c)
    else s.logUndo us

/-! ## Making and landing results -/

/-- A result of the bundle that issues now, landing after `lat` running cycles (R19). -/
def Ctx.launch (lat : Nat) (w : Write) (vf : Byte) (ff : BitVec 5) (c : Ctx) : Ctx :=
  { c with flights := c.flights ++
      [{ seq := c.seqNo, issued := c.rc, land := c.rc + lat, w := w, vflags := vf, fflags := ff, replay := false }] }
def State.launch (lat : Nat) (w : Write) (vf : Byte := 0) (ff : BitVec 5 := 0) (s : State) : State :=
  s.modCtx (fun c => c.launch lat w vf ff)
/-- The result of a scalar instruction in x[rd]; nothing for x0. -/
def State.launchX (lat : Nat) (d : Reg) (v : DWord) (s : State) : State := if d = 0 then s else s.launch lat (.x d v)

/-- The order in which results land: by landing cycle, then by issue (R20, R128); among results of one bundle, in the order they
were made. -/
def Flight.before (f g : Flight) : Bool := decide (f.land < g.land) || (f.land == g.land && decide (f.seq < g.seq))
/-- The first result to land. -/
def firstFlight : List Flight → Option Flight
  | [] => none
  | f :: r => match firstFlight r with
    | some g => some (if g.before f then g else f)
    | none => some f
/-- A list without the first occurrence of an entry. -/
def dropFlight (f : Flight) : List Flight → List Flight
  | [] => []
  | g :: r => if g = f then r else g :: dropFlight f r

/-- Whether the data of a landing load is still to come (R255). -/
def Flight.late (f : Flight) : Bool :=
  match f.w with | .landing _ _ _ _ ls _ => ls.any (fun k => k.got.isNone) | _ => false

/-- A result lands (R19, R21, R59): the undo log first, then the register or block with its tag, then the flags. -/
def State.land (f : Flight) (s : State) : State :=
  let s := s.logWrite f
  let s := s.modCtx (fun c => { c with regs := c.regs.apply f.w, csrs := c.csrs.orFlags f.vflags f.fflags,
                                       flights := dropFlight f c.flights,
                                       flagged := (f.land, if c.flagged.1 = f.land then c.flagged.2 ||| f.vflags else f.vflags) })
  s.modMyMat (fun m => m.apply f.w)

end Sys2Proof.Machine
end

