-- ==== Sys2Proof/Machine/Wayline.lean ====
section
/-! DEFINITION. Requests to other packages and to the host (R449 to R453, R456): the port that a request takes, the tags, what happens
as a port goes down or comes up, and the delivery of an answer or of its loss to whoever waits. -/

namespace Sys2Proof.Machine

/-! ## Ports (R449, R451, R452) -/

/-- A port that is UP and enabled. -/
def State.portUsable (s : State) (p : Fin 128) : Bool :=
  (s.dev (devPort p.val 0)).getLsbD 63 && (s.dev (devPort p.val 0)).getLsbD 61
/-- Direct topology (TOPO 1). -/
def State.directTopo (s : State) : Bool := (s.dev 0x030).getLsbD 0
/-- The port that a request takes (R451): in direct topology one whose PEER is the destination, the lowest-numbered where several are
(log 82); in switched topology one chosen by the hash. -/
def State.portFor (s : State) (dest : Nat) (key : Nat × Nat) : Option (Fin 128) :=
  let up := (List.finRange 128).filter s.portUsable
  if s.directTopo then up.find? (fun p => bitsOf (s.dev (devPort p.val 0)) 0 17 == dest)
  else up[Config.portHash key.1 key.2 % up.length]?
/-- Whether the next hop of a port accepts remote atomics (R453). -/
def State.portAtom (s : State) (p : Fin 128) : Bool := (s.dev (devPort p.val 0)).getLsbD 62
/-- What executes at a home as an atomic (R453). -/
def Out.isAtomic : Out → Bool
  | .atomic .. => true
  | _ => false

/-! ## Answers to whoever waits -/

/-- Every context that the core holds or has parked. -/
def State.modEveryCtx (f : Ctx → Ctx) (s : State) : State :=
  (s.modAllBanks (fun _ _ c => f c)).modPkg (fun p => { p with parkedCtx := p.parkedCtx.map (fun x => { x with ctx := f x.ctx }) })

/-- A change of a command of a queue. -/
def State.modCmd (q : Fin 2) (n : Word) (f : Cmd → Cmd) (s : State) : State :=
  s.modCore (fun k => { k with queues := vmod k.queues q (fun u => { u with cmds := u.cmds.map (fun c => if c.num = n then f c else c) }) })

/-- What an answer is to a waiting bundle. -/
def Ctx.answered (tag : Nat) (a : HomeResp) (c : Ctx) : Ctx :=
  { c with remote := c.remote.map (fun x => if x.tag = tag ∧ x.answer.isNone then { x with answer := some a } else x) }
/-- What its loss is. -/
def Ctx.loseAnswer (tag : Nat) (c : Ctx) : Ctx :=
  { c with remote := c.remote.map (fun x => if x.tag = tag then { x with lost := true } else x) }

/-- What an answer is to a lane that waits for it (R255, R285, R286, R297): the bits of a word that did not come are not stated, and are
free. -/
def LaneAsk.answered (tag : Nat) (a : HomeResp) (free : DWord) (k : LaneAsk) : LaneAsk :=
  if k.tag ≠ tag ∨ k.got.isSome then k
  else match a with
    | .data bs bad => { k with got := some (wd (leNat ((bs.drop (k.loc % 64)).take 4)), if bad then 0xA1 else 0) }
    | .value v => { k with got := some (wd v.toNat, 0) }
    | .unsupported => { k with got := some (wd free.toNat, 0x70) }
    | _ => { k with got := some (wd free.toNat, 0x74) }
/-- What its loss is: the bits of a lost word are not stated, and are free. -/
def LaneAsk.lost (tag : Nat) (amo : Bool) (free : DWord) (k : LaneAsk) : LaneAsk :=
  if k.tag = tag ∧ k.got.isNone then { k with got := some (wd free.toNat, if amo then 0x74 else 0xA1) } else k
/-- A change of the lanes of a landing in flight. -/
def Flight.modLanes (f : Bool → LaneAsk → LaneAsk) (x : Flight) : Flight :=
  match x.w with
  | .landing g r m t ls amo => { x with w := .landing g r m t (ls.map (f amo)) amo }
  | _ => x
/-- A change of the landings of a context, in flight, parked, or saved (R416: data that arrives while it is stopped is held with it). -/
def Ctx.modLanes (f : Bool → LaneAsk → LaneAsk) (c : Ctx) : Ctx :=
  { c with flights := c.flights.map (Flight.modLanes f),
           parked := c.parked.map (fun p => { p with writes := p.writes.map (Flight.modLanes f) }) }
def State.modLanes (f : Bool → LaneAsk → LaneAsk) (s : State) : State :=
  (s.modEveryCtx (Ctx.modLanes f)).modCore (fun k => { k with images := k.images.map (fun p => (p.1,
    { p.2 with flights := p.2.flights.map (Flight.modLanes f),
               parked := p.2.parked.map (fun x => { x with writes := x.writes.map (Flight.modLanes f) }) })) })

/-- The location that a read asks for. -/
def Out.readLoc : Out → Loc
  | .read l _ => l
  | _ => 0

/-- A shelf swap that waits for a barrier of another package learns its generation (R184). -/
def State.swapSeen (h : Half) (l : Loc) (v : Option DWord) (s : State) : State :=
  let i : Fin 2 := if s.core.split then halfIdx h else 0
  s.modMat (fun m => { m with swap := vmod m.swap i (fun w => w.map (fun x => if x.loc = l then { x with seen := v, asked := false } else x)) })

/-- The first answer to a request of another package, which a repeated tag gets again (R451). -/
def State.answeredBefore (s : State) (who : Agent) (tag : Nat) : Option HomeResp :=
  if who.pkg.toNat = s.pkgId then none
  else (s.pkg.answered.find? (fun x => x.1 == who.pkg.toNat && x.2.1 == tag)).map (·.2.2)
/-- An answer leaves, and is kept for another package's request. -/
def State.respond (who : Agent) (tag : Nat) (r : HomeResp) (s : State) : State :=
  let s := if who.pkg.toNat = s.pkgId then s
    else s.modPkg (fun p => { p with answered := p.answered ++ [(who.pkg.toNat, tag, r)] })
  s.emit (.respond who tag r)

/-- Whether an agent is the modelled core or one of its half-cores. -/
def State.isSelf (s : State) (who : Agent) : Bool := who.pkg == s.self.pkg && who.core == s.coreId
/-- The ACQPs that wait for the promotion of a record's SEQ to a scope get their responses: the values they found, or that the
promotion is lost (R276, R456). -/
def State.promotionDone (line : Loc) (q : Word) (sc : Scope) (r : HomeResp) (s : State) : State :=
  let mine (x : AcqpHeld) : Bool := x.line == line && x.q == q && x.scope == sc
  let ans (x : AcqpHeld) : HomeResp := if r = .ack then .value x.v else r
  let held := s.pkg.acqps.filter mine
  let s := s.modPkg (fun p => { p with acqps := p.acqps.filter (fun x => !mine x),
                                       requests := p.requests.filter (fun k => k.who != .promotion line q sc) })
  held.foldl (fun s x => if s.isSelf x.who then s.modEveryCtx (Ctx.answered x.tag (ans x)) else s.respond x.who x.tag (ans x)) s

/-- Event 0xB5 (R407): what names the spawn or stream, the reason, and how many tasks were bound. -/
def State.spawnEvent (d : Fin 8) (id : DWord) (reason bound : Nat) (s : State) : State :=
  s.relEvent d 0xB5 id (dw (reason + bound % 512 * 2 ^ 16))

/-- An answer reaches whoever waits for it. -/
def State.deliver (r : Request) (a : HomeResp) (s : State) : State :=
  match r.who with
  | .context id => s.modEveryCtx (fun c => if c.ident = id then c.answered r.tag a else c)
  | .landing .. =>
    let v := Config.freeWord s.fresh
    (s.modLanes (fun _ => LaneAsk.answered r.tag a v)).drawn
  | .command q n none => s.modCmd q n (fun c => match a with
      | .value v => { c with reply := some (some v), asked := none }
      | .data bs bad => { c with far := match c.asked with | some (l, _) => c.far ++ [(l, bs, bad)] | none => c.far, asked := none }
      | .unsupported => { c with refused := true, asked := none }
      | _ => { c with reply := some none, asked := none })
  | .command _ _ (some _) | .store _ | .promotion .. => s
  | .unit => match a with
    | .data bs bad => s.modPkg (fun p => { p with unitData := p.unitData ++ [(r.what.readLoc, bs, bad)] })
    | _ => s
  | .swap h => match a with
    | .data bs false => s.swapSeen h r.what.readLoc (some (dw (leNat (bs.take 8))))
    | .value v => s.swapSeen h r.what.readLoc (some v)
    | _ => s.swapSeen h r.what.readLoc none
  | .done name bound => match a with
    | .value v => if v = 1 then s.spawnEvent s.dieFin name 4 bound else s
    | _ => s.spawnEvent s.dieFin name 4 bound

/-- What the writes of a command's report stand under among its items; their loss is no item's. -/
def reportItem : Nat := 2 ^ 32

/-- A request gets no answer within REQTO (R456). -/
def State.loses (r : Request) (s : State) : State :=
  match r.who with
  | .context id => s.modEveryCtx (fun c => if c.ident = id then c.loseAnswer r.tag else c)
  | .landing .. =>
    let v := Config.freeWord s.fresh
    (s.modLanes (fun amo => LaneAsk.lost r.tag amo v)).drawn
  | .command q n none => s.modCmd q n (fun c => { c with lost := true, asked := none })
  | .command q n (some i) =>
    let f : DWord := dw (4 + s.die % 8 * 2 ^ 24 + s.pkgId % 2 ^ 17 * 2 ^ 30)
    match r.what with
    | .write ((l, _) :: _) _ _ =>
      if i = reportItem then s.relEvent s.dieFin 0xAE (dw l) 0
      else s.modCmd q n (fun c => { c with recs := if tget 0 c.recs i = 0 then tset 0 c.recs i f else c.recs })
    | _ => s.modCmd q n (fun c => { c with recs := if tget 0 c.recs i = 0 then tset 0 c.recs i f else c.recs })
  | .store _ => match r.what with
    | .write ((l, _) :: _) _ _ => s.relEvent s.dieFin 0xAE (dw l) 0
    | _ => s
  | .unit => s.modPkg (fun p => { p with unitData := p.unitData ++ [(r.what.readLoc, [], true)] })
  | .swap h => s.swapSeen h r.what.readLoc none
  | .promotion line q sc => s.promotionDone line q sc .failed
  | .done name bound => s.spawnEvent s.dieFin name 4 bound

/-! ## Requests on their way (R451, R453) -/

/-- A request that is not answered yet is kept. -/
def State.keepReq (r : Request) (s : State) : State := s.modPkg (fun p => { p with requests := p.requests ++ [r] })
/-- A change of a request. -/
def State.modReq (tag : Nat) (f : Request → Request) (s : State) : State :=
  s.modPkg (fun p => { p with requests := p.requests.map (fun r => if r.tag = tag then f r else r) })
/-- A line that the core writes is not put into its core cache by an earlier landing (R264). -/
def State.noFill (line : Loc) (s : State) : State :=
  s.modPkg (fun p => { p with requests := p.requests.map (fun r => match r.who with
    | .landing id (some _) => if r.what.readLoc / 64 * 64 = line then { r with who := .landing id none } else r
    | _ => r) })
def State.dropReq (tag : Nat) (s : State) : State := s.modPkg (fun p => { p with requests := p.requests.filter (fun r => r.tag != tag) })

/-- The host address of a location in the host window (R459): HWBASE times 2^41, and the offset in the window. -/
def State.hostAddr (s : State) (l : Loc) : Nat := bitsOf (s.dev 0x038) 41 23 * 2 ^ 41 + (locOff l - 0x40000000000)
/-- A read or write of the host window, at its host address. -/
def Out.atHost (f : Loc → Nat) : Out → Out
  | .read l n => .read (f l) n
  | .write bs sc bad => .write (bs.map (fun p => (f p.1, p.2))) sc bad
  | o => o

/-- A kept request leaves on the port of R451, if there is one. An atomic whose port does not carry atomics is answered "unsupported"
and applied nowhere (R453). -/
def State.leave (r : Request) (s : State) : State :=
  match r.dest with
  | none => (s.modReq r.tag (fun x => { x with left := true })).emit (.sent none r.tag (r.what.atHost s.hostAddr))
  | some d => match s.portFor d r.key with
    | none => s.modReq r.tag (fun x => { x with left := false, port := none })
    | some p =>
      if r.what.isAtomic && !s.portAtom p then (s.dropReq r.tag).deliver r .unsupported
      else (s.modReq r.tag (fun x => { x with left := true, port := some p })).emit (.sent (some p) r.tag r.what)

/-- A tag that no other request has. -/
def State.newTag (s : State) : State := s.modPkg (fun p => { p with tags := p.tags + 1 })
/-- A new request takes the next tag; it waits while its destination is barred. -/
def State.send (dest : Option Nat) (key : Nat × Nat) (o : Out) (who : Asker) (s : State) : State :=
  let r : Request := { tag := s.pkg.tags, dest := dest, key := key, port := none, left := false, early := false, what := o, who := who }
  let s := s.newTag.keepReq r
  if (match dest with | some d => s.pkg.barred.contains d | none => false) then s else s.leave r

/-- Requests that have not left do so, where their destination is not barred or they are earlier than the bar. -/
def State.leaveWaiting (s : State) : State :=
  (s.pkg.requests.filter (fun r => !r.left && (r.early || !(match r.dest with | some d => s.pkg.barred.contains d | none => false)))).foldl
    (fun s r => s.leave r) s

/-- A bar goes once every earlier request to its destination has been answered or has failed; the requests that waited leave. -/
def State.unbar (s : State) : State :=
  let still (d : Nat) : Bool := s.pkg.requests.any (fun r => r.early && r.dest == some d)
  let free := s.pkg.barred.filter (fun d => !still d)
  if free = [] then s else (s.modPkg (fun p => { p with barred := p.barred.filter still })).leaveWaiting

/-- A port goes down or is disabled (R451): later requests to the destinations of those that are not answered wait, and the requests
lost with the port are sent again with their tags on the new choice. -/
def State.portLost (p : Fin 128) (s : State) : State :=
  let dests := distinct (s.pkg.requests.filterMap (·.dest))
  let lost := s.pkg.requests.filter (fun r => r.port == some p)
  let s := s.modPkg (fun k => { k with
    barred := distinct (k.barred ++ dests),
    requests := k.requests.map (fun r => if r.left then { r with early := true } else r) })
  (lost.foldl (fun s r => s.leave r) s).unbar

/-- The answer to a request. -/
def State.answerReq (tag : Nat) (a : HomeResp) (s : State) : State :=
  match s.pkg.requests.find? (fun r => r.tag == tag) with
  | none => s
  | some r => ((s.dropReq tag).deliver r a).unbar
/-- The loss of one. -/
def State.loseReq (tag : Nat) (s : State) : State :=
  match s.pkg.requests.find? (fun r => r.tag == tag) with
  | none => s
  | some r => ((s.dropReq tag).loses r).unbar

/-! ## Acknowledgements (R265, R268, R277, R377) -/

/-- Whether stores of a core or half-core to other packages are still to be acknowledged. -/
def State.unacked (s : State) (h : Half) : Bool := s.pkg.requests.any (fun r => r.who == .store h)
/-- Whether one of those is that a release at a scope waits for: at fabric scope each of them (R268), at package scope those to the host
window, until the endpoint accepts them (R459). -/
def State.unackedAt (s : State) (sc : Scope) (h : Half) : Bool :=
  match sc with
  | .fabric => s.unacked h
  | .package => s.pkg.requests.any (fun r => r.who == .store h && r.dest.isNone)
  | _ => false
/-- Whether a command waits for an answer or an acknowledgement. -/
def State.cmdOpen (s : State) (q : Fin 2) (n : Word) : Bool :=
  s.pkg.requests.any (fun r => match r.who with | .command q' n' _ => q' == q && n' == n | _ => false)
/-- Requests made since a tag for an item of a command are the command's. -/
def State.claimReqs (q : Fin 2) (n : Word) (item from_ : Nat) (s : State) : State :=
  s.modPkg (fun p => { p with requests := p.requests.map (fun r =>
    if from_ ≤ r.tag then (match r.who with | .store _ => { r with who := .command q n (some item) } | _ => r) else r) })

end Sys2Proof.Machine
end

