-- ==== Sys2Proof/Machine/Memory.lean ====
section
/-! DEFINITION. Memory: regions and locations (R226 to R228), translation (R229 to R237), the L2 slices (R248 to R252), plain reads
and writes at their homes, the core cache (R244, R265), held stores (R273), and the ordering operations on them (R262, R274). -/

namespace Sys2Proof.Machine

/-! ## Regions -/

/-- Where an access goes (R226, R227, R462): `away` is the host window or the device registers of another package, which only that
package may access; `outside` a package beyond the domain. -/
inductive Region where
  | hbm | cellar | host | device | hole | remote | outside | away
  deriving DecidableEq, Repr

/-- A cellar address is populated when exactly one valid decoder matches it (R462). -/
def State.cellarPort (s : State) (c : Nat) : Option Nat :=
  let hits := (List.range 8).filterMap (fun n =>
    let b := s.dev (devIo 0 + 0x100 + 16 * n)
    let l := s.dev (devIo 0 + 0x108 + 16 * n)
    if bitsOf b 63 1 = 1 ∧ bitsOf b 44 2 ≠ 0 ∧ bitsOf b 0 17 ≤ c / 2 ^ 28 ∧ c / 2 ^ 28 < bitsOf l 0 17 then some (bitsOf b 44 2)
    else none)
  match hits with
  | [p] => some p
  | _ => none

/-- The load/store domain (R454), or the message domain for commands (R455). -/
def State.inDomain (s : State) (msg : Bool) (p : Nat) : Bool :=
  if msg then decide (p < min (bitsOf (s.dev 0x010) 0 18) 131072)
  else
    let k := min (bitsOf (s.dev 0x008) 32 4) 14
    let b := bitsOf (s.dev 0x008) 0 17 / 2 ^ k * 2 ^ k
    decide (b ≤ p ∧ p < b + 2 ^ k)

def State.region (s : State) (msg : Bool) (l : Loc) : Region :=
  if l ≥ cellarBase then (if (s.cellarPort (l - cellarBase)).isSome then .cellar else .hole)
  else
    let o := locOff l
    let own := decide (locPkg l = s.pkgId)
    if o < 2 ^ 40 then (if own then .hbm else if s.inDomain msg (locPkg l) then .remote else .outside)
    else if 0x40000000000 ≤ o ∧ o < 0x60000000000 then (if own then .host else .away)
    else if 0x7F000000000 ≤ o then (if own then .device else .away)
    else .hole

/-- Whether a location is this package's HBM. -/
def State.isHbm (s : State) (l : Loc) : Bool := decide (l < cellarBase) && locPkg l == s.pkgId && decide (locOff l < 2 ^ 40)

/-- The registers of root port 1 to 3 (R460). -/
def portReg (p : Nat) : Nat := if p = 1 then devIo 0 + 0x40 else devIo 1 + 0x40 + 16 * (p - 2)
/-- Whether a root port's link carries traffic in a mode. -/
def State.portUp (s : State) (p : Nat) (mode : Fin 3) : Bool :=
  (s.dev (portReg p + 8)).getLsbD 63 && (match s.pkg.portMode.toList[p - 1]? with | some m => m == mode | none => false)
/-- Whether the memory behind a cellar address answers (R460, R461). -/
def State.cellarUp (s : State) (c : Nat) : Bool :=
  match s.cellarPort c with
  | some p => s.portUp p 1
  | none => false

/-! ## Bytes at their homes -/

/-- A byte of this package's HBM or cellar, as its home holds it. -/
def State.byteAt (s : State) (l : Loc) : Byte :=
  if l ≥ cellarBase then s.pkg.cellar.get (l - cellarBase) else s.pkg.hbm.get (locOff l)
def State.bytesAt (s : State) (l n : Nat) : List Byte := (List.range n).map (fun i => s.byteAt (l + i))
def State.numAt (s : State) (l n : Nat) : Nat := leNat (s.bytesAt l n)
def State.setByte (l : Loc) (b : Byte) (s : State) : State :=
  if decide (l ≥ cellarBase) && !s.cellarUp (l - cellarBase) then s
  else s.modPkg (fun p => if l ≥ cellarBase then { p with cellar := p.cellar.set (l - cellarBase) b } else { p with hbm := p.hbm.set (locOff l) b })
def State.setBytes : List (Loc × Byte) → State → State
  | [], s => s
  | (l, b) :: r, s => State.setBytes r (s.setByte l b)

/-- A line that is delivered as uncorrectable: it holds a poison marker (R254), or no link reaches it (log 20). -/
def State.badLine (s : State) (l : Loc) : Bool :=
  s.pkg.poison.contains (lineOf l) || (decide (l ≥ cellarBase) && !s.cellarUp (l - cellarBase))
def State.badRange (s : State) (l n : Nat) : Bool := (linesOf l n).any s.badLine

/-- Lines get a poison marker (R254). -/
def State.markPoison (ls : List Loc) (s : State) : State :=
  if ls = [] then s else s.modPkg (fun p => { p with poison := distinct (p.poison ++ ls) })

/-- LR reservations on a line, of every context but the writer's, are released (R123). -/
def State.dropResv (who : Option (Half × Fin 2)) (line : Loc) (s : State) : State :=
  s.modAllBanks (fun h b c => if c.resv = some line ∧ who ≠ some (h, b) then { c with resv := none } else c)

/-- Bytes put over those of a line. -/
def patched (line : Loc) (old : List Byte) (bytes : List (Loc × Byte)) : List Byte :=
  (placed line old).map (fun p => bytes.foldl (fun b q => if q.1 = p.1 then q.2 else b) p.2)

/-- Bytes grouped by line, in the order of the lines' first bytes. -/
def byLine (bytes : List (Loc × Byte)) : List (List (Loc × Byte)) :=
  (distinct (bytes.map (fun p => lineOf p.1))).map (fun l => bytes.filter (fun p => lineOf p.1 == l))

/-- A plain write performed at its home (R264): the bytes; a poison marker goes when the write covers the whole line (R254); the
line's release record loses VALID (R275); reservations of other agents go (R123). -/
def State.writeHome (who : Option (Half × Fin 2)) (bytes : List (Loc × Byte)) (s : State) : State :=
  let lines := distinct (bytes.map (fun p => lineOf p.1))
  let s := s.setBytes bytes
  let whole (l : Loc) : Bool := (List.range 64).all (fun i => bytes.any (fun p => p.1 == l + i))
  lines.foldl (fun s l =>
    (s.modPkg (fun p => { p with poison := if whole l then p.poison.filter (· ≠ l) else p.poison,
                                 rel := terase p.rel l })).dropResv who l) s

/-! ## The L2 slices -/

/-- The home slice of a line of this package (R228). -/
def homeSlice (l : Loc) : Nat :=
  if l ≥ cellarBase then (l - cellarBase) / 2 ^ 8 % 8 * 4 + (l - cellarBase) / 2 ^ 6 % 4
  else locOff l / 2 ^ 37 % 8 * 4 + locOff l % 2 ^ 37 / 2 ^ 6 % 4
def homeDie (l : Loc) : Nat := homeSlice l / 4
/-- The set of a line in its slice. -/
def homeSet (l : Loc) : Nat := l / 2 ^ 8 % 2 ^ 14

/-- Hints in rising order: evict-first, normal, keep (R249). -/
def hintRank (h : Fin 4) : Nat := if h = 1 then 0 else if h = 0 then 1 else 2

/-- A retention register of a slice (R250): WAYS, FIRST, BASE, LIMIT (in lines) and ASID, if valid. -/
def State.retReg (s : State) (sl n : Nat) : Option (Nat × Nat × Nat × Nat × Nat) :=
  let a := s.dev (devCluster sl (16 * n))
  let b := s.dev (devCluster sl (16 * n + 8))
  if bitsOf a 63 1 = 1 then some (bitsOf a 56 4, bitsOf a 52 4, bitsOf a 6 37, bitsOf b 6 37, bitsOf b 52 12) else none
/-- The register whose range holds a line of HBM. -/
def State.retFor (s : State) (sl : Nat) (l : Loc) : Option (Nat × Nat) :=
  if l ≥ cellarBase then none
  else (List.range 8).findSome? (fun n => match s.retReg sl n with
    | some (w, f, b, e, _) => if b ≤ locOff l / 64 ∧ locOff l / 64 < e then some (f, w) else none
    | none => none)
/-- Whether a way is reserved by a valid register of the slice. -/
def State.wayReserved (s : State) (sl w : Nat) : Bool :=
  (List.range 8).any (fun n => match s.retReg sl n with | some (k, f, _) => decide (f ≤ w ∧ w < f + k) | none => false)

/-- The lines of one set of a slice. -/
def State.setLines (s : State) (sl st : Nat) : List L2Line := s.pkg.l2.filter (fun x => x.slice.val == sl && homeSet x.line == st)

/-- The least recently used of some lines. -/
def oldest : List L2Line → Option L2Line
  | [] => none
  | x :: r => match oldest r with
    | some y => some (if x.age ≤ y.age then x else y)
    | none => some x

/-- The way a fill among the unreserved ways takes (R249). -/
def State.victimWay (s : State) (sl st : Nat) : Nat :=
  let here := s.setLines sl st
  let ways := (List.range 16).filter (fun w => !s.wayReserved sl w)
  match ways.find? (fun w => here.all (fun x => x.way.val != w)) with
  | some w => w
  | none =>
    let open_ := here.filter (fun x => ways.contains x.way.val)
    let pick := (oldest (open_.filter (fun x => hintRank x.hint == 0))).orElse (fun _ =>
      (oldest (open_.filter (fun x => hintRank x.hint == 1))).orElse (fun _ => oldest open_))
    match pick with
    | some x => x.way.val
    | none => 0

/-- A line put in a way of its set; `guest` gives the bytes of a copy of a line homed elsewhere. -/
def State.l2Put (sl way : Nat) (l : Loc) (hint : Fin 4) (guest : Option (List Byte)) (s : State) : State :=
  s.modPkg (fun p => { p with
    l2 := p.l2.filter (fun x => !(x.slice.val == sl && homeSet x.line == homeSet l && x.way.val == way)) ++
      [{ slice := Fin.ofNat 32 sl, way := Fin.ofNat 16 way, line := l, hint := hint, age := p.l2clock, guest := guest }],
    l2clock := p.l2clock + 1 })

/-- A fill (R249, R251); `ovf` tells whether an overflow counts. -/
def State.l2FillAs (ovf : Bool) (l : Loc) (hint : Fin 4) (s : State) : State :=
  let sl := homeSlice l
  let here := s.setLines sl (homeSet l)
  match s.retFor sl l with
  | some (f, k) =>
    match ((List.range k).map (· + f)).find? (fun w => here.all (fun x => x.way.val != w)) with
    | some w => s.l2Put sl w l hint none
    | none =>
      let t := s.l2Put sl (s.victimWay sl (homeSet l)) l hint none
      if ovf then t.bump (devCluster sl 0x90) 1 else t
  | none => s.l2Put sl (s.victimWay sl (homeSet l)) l hint none
def State.l2Fill (l : Loc) (hint : Fin 4) (s : State) : State := s.l2FillAs true l hint

/-- Whether a line is present in its home slice. -/
def State.inL2 (s : State) (l : Loc) : Bool :=
  s.pkg.l2.any (fun x => x.slice.val == homeSlice l && x.line == l && x.guest.isNone)
/-- A hit in a slice (R249): the line is the most recently used, its hint raised to the access's. -/
def State.l2HitAt (sl : Nat) (l : Loc) (hint : Fin 4) (s : State) : State :=
  s.modPkg (fun p => { p with
    l2 := p.l2.map (fun x => if x.slice.val == sl && x.line == l then
      { x with age := p.l2clock, hint := if hintRank x.hint < hintRank hint then hint else x.hint } else x),
    l2clock := p.l2clock + 1 })

/-! ### Guest copies (R248, R315, R447) -/

/-- Whether a line is homed on a die of this package. -/
def State.homedOn (s : State) (d : Nat) (l : Loc) : Bool := (decide (l ≥ cellarBase) || s.isHbm l) && homeDie l == d
/-- The slice that keeps a die's guest copy of a line: the cluster that the line's address names, on that die (log 41). -/
def guestSlice (d : Nat) (l : Loc) : Nat := d * 4 + l / 64 % 4
/-- The guest copy of a line in a die. -/
def State.guestIn (s : State) (d : Nat) (l : Loc) : Option (List Byte) :=
  s.pkg.l2.findSome? (fun x => if x.slice.val = guestSlice d l ∧ x.line = l then x.guest else none)
/-- The one in the core's die. -/
def State.guestOf (s : State) (l : Loc) : Option (List Byte) := s.guestIn s.die l
/-- A guest copy is made or takes bytes. One is made only of a line homed elsewhere (R315), never of the host window (R248). -/
def State.putGuest (d : Nat) (line : Loc) (bytes : List (Loc × Byte)) (s : State) : State :=
  match s.guestIn d line with
  | some old => s.modPkg (fun p => { p with l2 := p.l2.map (fun x =>
      if x.slice.val = guestSlice d line ∧ x.line = line then { x with guest := some (patched line old bytes) } else x) })
  | none =>
    if s.homedOn d line ∨ s.region false line = .host ∨ bytes.length < 64 then s
    else s.l2Put (guestSlice d line) (s.victimWay (guestSlice d line) (homeSet line)) line 0
      (some (patched line (List.replicate 64 0) bytes))
def State.dropGuest (d : Nat) (line : Loc) (s : State) : State :=
  s.modPkg (fun p => { p with l2 := p.l2.filter (fun x => !(x.slice.val == guestSlice d line && x.line == line && x.guest.isSome)) })
/-- A write of the core or of an engine of its die is seen in the guest copies of its own die (R264). -/
def State.patchGuests (bytes : List (Loc × Byte)) (s : State) : State :=
  (byLine bytes).foldl (fun s b => match b with
    | [] => s
    | (l, _) :: _ => if (s.guestOf (lineOf l)).isSome then s.putGuest s.die (lineOf l) b else s) s

/-! ### Requests (R252) -/

/-- A request that no counter counts. -/
def State.l2Quiet (l : Loc) (hint : Fin 4) (s : State) : State :=
  if (s.guestOf l).isSome then s.l2HitAt (guestSlice s.die l) l hint
  else if !(decide (l ≥ cellarBase) || s.isHbm l) then s
  else if s.inL2 l then s.l2HitAt (homeSlice l) l hint
  else s.l2FillAs false l hint

/-- A counted request for a line, with the access's effective hint: at the slice of a guest copy in the core's die, which satisfies it
as a hit, else at the home slice of a line of this package. -/
def State.l2Req (l : Loc) (hint : Fin 4) (s : State) : State :=
  let l := lineOf l
  let sl := homeSlice l
  if (s.guestOf l).isSome then (s.l2HitAt (guestSlice s.die l) l hint).bump (devCluster (guestSlice s.die l) 0x80) 1
  else if !(decide (l ≥ cellarBase) || s.isHbm l) then s
  else if s.inL2 l then (s.l2HitAt sl l hint).bump (devCluster sl 0x80) 1
  else (s.l2Fill l hint).bump (devCluster sl 0x88) 1
def State.l2Reqs (l n : Nat) (hint : Fin 4) (s : State) : State := (linesOf l n).foldl (fun s x => s.l2Req x hint) s

/-! ## Translation (R229 to R232) -/

/-- A translation: the location of the page, its size, its leaf bits [11:2], and where the leaf stands. -/
structure Trans where
  frame : Loc
  size : Fin 3
  attr : BitVec 10
  leaf : Loc
  /-- The leaf's MIG bit. -/
  mig : Bool := false
  deriving DecidableEq, Repr

def attrR (a : BitVec 10) : Bool := a.getLsbD 0
def attrW (a : BitVec 10) : Bool := a.getLsbD 1
def attrX (a : BitVec 10) : Bool := a.getLsbD 2
def attrU (a : BitVec 10) : Bool := a.getLsbD 3
def attrSync (a : BitVec 10) : Bool := a.getLsbD 4
def attrRepl (a : BitVec 10) : Bool := a.getLsbD 5
def attrAtom (a : BitVec 10) : Bool := a.getLsbD 6
def attrCellar (a : BitVec 10) : Bool := a.getLsbD 7
def attrHint (a : BitVec 10) : Fin 4 := Fin.ofNat 4 (a.toNat / 2 ^ 8)

/-- The bytes of a page by its size code (R230, R238). -/
def pageBytes (sz : Fin 3) : Nat := if sz = 0 then 2 ^ 16 else if sz = 1 then 2 ^ 21 else 2 ^ 30

/-- What is asked of a leaf: reads, writes, fetch (R232). -/
structure Need where
  r : Bool
  w : Bool
  x : Bool
  deriving DecidableEq, Repr
end Sys2Proof.Machine

namespace Sys2Proof
def AccessKind.need : AccessKind → Machine.Need
  | .read => { r := true, w := false, x := false }
  | .write => { r := false, w := true, x := false }
  | .fetch => { r := false, w := false, x := true }
  | .atomic => { r := true, w := true, x := false }
end Sys2Proof

namespace Sys2Proof.Machine

/-- Whether leaf bits allow what is asked, at the privilege (R232). -/
def allows (a : BitVec 10) (n : Need) (user : Bool) : Bool :=
  (!n.r || attrR a) && (!n.w || attrW a) && (!n.x || attrX a) && (!user || attrU a)

/-- The levels of a walk, from L4 down (R230): shift and index count; whether a leaf may stand there and its size. -/
def walkLevels : List (Nat × Nat × Option (Fin 3)) :=
  [(48, 512, none), (39, 512, none), (30, 512, some 2), (21, 512, some 1), (16, 32, some 0)]

/-- Whether a leaf word is well formed at its size (R231, R232): a replicated page lies in die 0's HBM of the package (R234). -/
def leafOk (pkg : Nat) (e : Nat) (sz : Fin 3) : Bool :=
  fld e 60 4 == 0 && fld e 13 3 == 0 && fld e 10 2 != 3 && e % 2 ^ 60 / 2 ^ 16 * 2 ^ 16 % pageBytes sz == 0 &&
  (!flag e 9 || fld e 45 15 == 0) &&
  (!flag e 7 || (!flag e 9 && fld e 43 17 == pkg && decide (fld e 0 43 / 2 ^ 16 * 2 ^ 16 < 2 ^ 37)))

/-- The walk from one level down (R232). -/
def State.walkFrom (s : State) (va : Nat) (need : Need) (user : Bool) : List (Nat × Nat × Option (Fin 3)) → Loc → Except Nat Trans
  | [], _ => .error 0x67
  | (sh, n, leafSz) :: rest, table =>
    let at_ := table + 8 * (va / 2 ^ sh % n)
    if s.badLine at_ then .error 0x6A
    else
      let e := s.numAt at_ 8
      if !flag e 0 then .error 0x60
      else if !flag e 1 then
        let next := e % 2 ^ 60 / 2 ^ 8 * 2 ^ 8
        let al := if rest.length = 1 then 2 ^ 8 else 2 ^ 12
        if rest.isEmpty || fld e 2 6 != 0 || fld e 60 4 != 0 || next % al != 0 || !s.isHbm next then .error 0x67
        else s.walkFrom va need user rest next
      else
        match leafSz with
        | none => .error 0x67
        | some sz =>
          let attr := bits 10 e 2
          if !leafOk s.pkgId e sz then .error 0x67
          else if !allows attr need user then .error 0x61
          else
            let fr := e % 2 ^ 60 / 2 ^ 16 * 2 ^ 16
            .ok { frame := if flag e 9 then cellarBase + fr else fr, size := sz, attr := attr, leaf := at_, mig := flag e 12 }

/-- A bit-56 sign-extended address (R229). -/
def canonical (va : DWord) : Bool := bitsOf va 57 7 == (if bitsOf va 56 1 = 1 then 127 else 0)

/-- The leaf that a walk of the tables finds (R229 to R232), whether or not its MIG bit is set. -/
def State.walkAny (s : State) (asid : BitVec 12) (va : DWord) (need : Need) (user : Bool) : Except Nat Trans :=
  if !canonical va then .error 0x69
  else
    let tbl := bitsOf (s.dev 0x018) 16 44 * 2 ^ 16
    if !s.isHbm tbl then .error 0x67
    else
      let at_ := tbl + 16 * asid.toNat
      if s.badLine at_ then .error 0x6A
      else
        let e := s.numAt at_ 8
        let root := e % 2 ^ 60 / 2 ^ 12 * 2 ^ 12
        if !flag e 0 then .error 0x60
        else if fld e 1 11 != 0 || fld e 60 4 != 0 || s.numAt (at_ + 8) 8 != 0 || !s.isHbm root then .error 0x67
        else s.walkFrom va.toNat need user walkLevels root
/-- The walk of the tables: a leaf with MIG gives cause 0x68. -/
def State.walk (s : State) (asid : BitVec 12) (va : DWord) (need : Need) (user : Bool) : Except Nat Trans :=
  match s.walkAny asid va need user with
  | .ok t => if t.mig then .error 0x68 else .ok t
  | .error c => .error c

/-- A translation-cache entry for an address, if the running context holds one (R237). -/
def Ctx.tlbHit (c : Ctx) (va : DWord) : Option Tlb :=
  c.tlb.find? (fun t => t.asid == c.csrs.asid && va.toNat / pageBytes t.size == t.vbase / pageBytes t.size)

/-- Translation on the scalar path (R237): by the translation cache, else by a walk. -/
def State.translate (s : State) (need : Need) (va : DWord) : Except Nat Trans :=
  let c := s.ctx
  let user := !c.csrs.prv
  if !canonical va then .error 0x69
  else
    match c.tlbHit va with
    | some t => if allows t.attr need user then .ok { frame := t.frame, size := t.size, attr := t.attr, leaf := 0 } else .error 0x61
    | none => s.walk c.csrs.asid va need user

/-- The page of a translation, with this die's replica for reads and own stores of a replicated page (R234). -/
def Trans.loc (t : Trans) (die : Nat) (va : DWord) : Loc :=
  t.frame + va.toNat % pageBytes t.size + (if attrRepl t.attr then die * 2 ^ 37 else 0)

/-- A miss leaves the translation in the cache of 64 entries, the oldest giving way, and freezes the core (R237, log 7). -/
def State.tlbFill (va : DWord) (t : Trans) (s : State) : State :=
  match s.ctx.tlbHit va with
  | some _ => s
  | none =>
    let e (c : Ctx) : Tlb :=
      { asid := c.csrs.asid, vbase := va.toNat / pageBytes t.size * pageBytes t.size, size := t.size, frame := t.frame,
        attr := t.attr }
    (s.modCtx (fun c => { c with tlb := (c.tlb ++ [e c]).drop ((c.tlb.length + 1) - 64) })).freeFreeze

/-! ## The core cache (R244, R265) -/

/-- The half-core whose cache an access uses. -/
def State.cacheHalf (s : State) : Half := if s.core.split then s.core.active else .a
/-- The banks that are ways of a half-core's cache. -/
def State.cacheWays (s : State) (h : Half) : List (Fin 64) :=
  (List.finRange 64).filter (fun b => s.core.bankMode.get b == .cache &&
    (!s.core.split || decide (b.val < 32) == (h == .a)))
def State.findLine (s : State) (h : Half) (line : Loc) : Option CLine :=
  s.core.cache.find? (fun x => x.half == h && x.line == line)
def State.modLine (h : Half) (line : Loc) (f : CLine → CLine) (s : State) : State :=
  s.modCore (fun c => { c with cache := c.cache.map (fun x => if x.half == h && x.line == line then f x else x) })
def State.dropLine (h : Half) (line : Loc) (s : State) : State :=
  s.modCore (fun c => { c with cache := c.cache.filter (fun x => !(x.half == h && x.line == line)) })

/-- The dirty bytes of a line, with their locations. -/
def CLine.dirtyBytes (x : CLine) : List (Loc × Byte) :=
  (placed x.line x.bytes).filter (fun p => x.dirty.getLsbD (p.1 - x.line))

/-- The package that a location's request goes to: none for the host window and for devices behind it. -/
def State.destOf (s : State) (l : Loc) : Option Nat := if locPkg l = s.pkgId then none else some (locPkg l)
/-- A request about a location leaves for its home (R451). -/
def State.sendTo (l : Loc) (o : Out) (who : Asker) (s : State) : State := s.send (s.destOf l) (locPkg l, l / 64) o who

/-- A write of bytes at their homes: in this package, or beyond, line by line, with an acknowledgement to come. Bytes of `bad` lines
carry an uncorrectable error, which marks the lines at home (R254). -/
def State.sendWrite (who : Option (Half × Fin 2)) (sc : Scope) (bytes : List (Loc × Byte)) (s : State) (bad : List Loc := []) : State :=
  match bytes with
  | [] => s
  | (l, _) :: _ =>
    let s := s.patchGuests bytes
    match s.region false l with
    | .hbm | .cellar => (s.writeHome who bytes).markPoison bad
    | _ => (byLine bytes).foldl (fun s b => match b with
      | [] => s
      | (l, _) :: _ => (s.noFill (lineOf l)).sendTo l (.write b sc (bad.contains (lineOf l))) (.store s.core.active)) s

/-- The running context, as a writer. -/
def State.me (s : State) : Option (Half × Fin 2) := some (s.core.active, s.sq.running)

/-- Dirty bytes of one line written back (R265). A line that holds an uncorrectable error besides leaves a poison marker at its home
(R254). -/
def State.writeBack (x : CLine) (s : State) : State :=
  let s := s.sendWrite s.me .package x.dirtyBytes (if x.bad && x.dirty != BitVec.allOnes 64 then [x.line] else [])
  s.modLine x.half x.line (fun y => { y with dirty := 0, bad := x.bad && x.dirty != BitVec.allOnes 64 })
/-- Every dirty byte of a half-core's cache written back. -/
def State.cleanCache (h : Half) (s : State) : State :=
  (s.core.cache.filter (fun x => x.half == h && x.dirty != 0)).foldl (fun s x => s.writeBack x) s
/-- Every line invalid. -/
def State.emptyCache (h : Half) (s : State) : State :=
  s.modCore (fun c => { c with cache := c.cache.filter (fun x => x.half != h) })

/-- Bytes that have come for the waiting bundle from another package or the host. -/
def Ctx.farData (c : Ctx) (l n : Nat) : Option (List Byte × Bool) :=
  c.remote.findSome? (fun x => match x.answer with
    | some (.data bs bad) => if x.loc ≤ l ∧ l + n ≤ x.loc + bs.length then some ((bs.drop (l - x.loc)).take n, bad) else none
    | _ => none)
/-- What a read of bytes of one line finds beyond the core cache: the bytes and whether they carry an uncorrectable error (R254); none
where another package or the host is still to be asked. -/
def State.source (s : State) (l n : Nat) : Option (List Byte × Bool) :=
  match s.guestOf (lineOf l) with
  | some g => some ((g.drop (l - lineOf l)).take n, false)
  | none =>
    if decide (l ≥ cellarBase) || s.isHbm l then some (s.bytesAt l n, s.badRange l n)
    else s.ctx.farData l n

/-- A line of the cache for a location, filled from where it comes from if it is not there; a full set gives up a way that the spec
leaves open (R244, log 8), its dirty bytes written back. Unchanged where no bank is in CACHE mode. -/
def State.fillWith (h : Half) (line : Loc) (hint : Fin 4) (bytes : List Byte) (bad : Bool) (s : State) : State :=
  if (s.findLine h line).isSome then s
  else
    let ways := s.cacheWays h
    let here := s.core.cache.filter (fun x => x.half == h && x.line / 64 % 1024 == line / 64 % 1024)
    let s := s.l2Req line hint
    let add (w : Fin 64) (s : State) : State :=
      s.modCore (fun c => { c with cache := c.cache ++
        [{ half := h, way := w, line := line, bytes := bytes, dirty := 0, bad := bad }] })
    match ways.find? (fun w => here.all (fun x => x.way != w)) with
    | some w => add w s
    | none =>
      match here[Config.victim s.fresh % here.length]? with
      | some x => add x.way (((s.drawn).writeBack x).dropLine h x.line)
      | none => s
def State.fillLine (line : Loc) (hint : Fin 4) (s : State) : State :=
  match s.source line 64 with
  | some (bytes, bad) => s.fillWith s.cacheHalf line hint bytes bad
  | none => s

/-! ## Plain reads and writes of a context -/

/-- Bytes that the context's open segment holds over others (R273). -/
def Segment.overlay (g : Segment) (l : Loc) (b : Byte) : Byte :=
  (g.stores.flatMap (·.bytes)).foldl (fun b p => if p.1 = l then p.2 else b) b
def State.heldOver (s : State) (l : Loc) (bs : List Byte) : List Byte :=
  match s.ctx.seg with
  | some g => (placed l bs).map (fun p => g.overlay p.1 p.2)
  | none => bs

/-- What a read by the running context finds: bytes, whether they carry an uncorrectable error, and whether the core cache held them
(R254, R265, R273). -/
structure Got where
  bytes : List Byte
  bad : Bool
  hit : Bool
  deriving DecidableEq, Repr

/-- Whether a scope's plain accesses use the core cache. -/
def State.caches (s : State) (sc : Scope) : Bool := sc == .core && s.cacheWays s.cacheHalf != []

/-- A read of bytes of one line; none where it waits for another package or the host. Own dirty bytes reach the home before a wider
read (R264, R268). -/
def State.peek (s : State) (sc : Scope) (l n : Nat) : Option Got :=
  match s.findLine s.cacheHalf (lineOf l), s.source l n with
  | some x, src =>
    let bytes := (x.bytes.drop (l - x.line)).take n
    let isDirty (i : Nat) : Bool := x.dirty.getLsbD (l - x.line + i)
    if sc = .core then some { bytes := s.heldOver l bytes, bad := x.bad && !(List.range n).all isDirty, hit := true }
    else src.map (fun (bs, bad) =>
      { bytes := s.heldOver l (((bytes.zip bs).zipIdx).map (fun p => if isDirty p.2 then p.1.1 else p.1.2)), bad := bad, hit := false })
  | none, src => src.map (fun (bs, bad) => { bytes := s.heldOver l bs, bad := bad, hit := false })

/-- What a read that waits asks for: the whole line where the core cache will take it (R244), else the bytes. -/
def State.asksFor (s : State) (sc : Scope) (l n : Nat) : Loc × Nat :=
  if s.caches sc ∧ s.region false l = .remote then (lineOf l, 64) else (l, n)

/-- The effects of a read within one line: a fill of the core cache at scope core; else a request to the home slice, and a copy in the
core cache leaves it, so that no later read returns an older write (R264). -/
def State.readEff (sc : Scope) (hint : Fin 4) (l : Loc) (s : State) : State :=
  let line := lineOf l
  match s.findLine s.cacheHalf line with
  | some x => if sc = .core then s else (((if x.dirty = 0 then s else s.writeBack x).dropLine s.cacheHalf line).l2Req line hint)
  | none => if s.caches sc then s.fillLine line hint else s.l2Req line hint

/-- A plain write of bytes of one line at its scope: into the core cache at scope core, through to the home otherwise (R265). A line of
another package takes it in the core cache only where it is there. -/
def State.storeLine (sc : Scope) (hint : Fin 4) (bytes : List (Loc × Byte)) (s : State) : State :=
  match bytes with
  | [] => s
  | (l, _) :: _ =>
    let line := lineOf l
    let h := s.cacheHalf
    let put (dirty : Bool) (s : State) : State := s.modLine h line (fun x =>
      { x with bytes := patched line x.bytes bytes,
               dirty := bytes.foldl (fun d q => if dirty then d ||| BitVec.ofNat 64 (2 ^ (q.1 - line))
                 else d &&& ~~~(BitVec.ofNat 64 (2 ^ (q.1 - line)))) x.dirty })
    let through (s : State) : State := put false ((s.l2Req line hint).sendWrite s.me sc bytes)
    if s.caches sc then
      match s.region false l with
      | .hbm | .cellar => put true (s.fillLine line hint)
      | .remote => if (s.findLine h line).isSome then put true s else through s
      | _ => through s
    else through s

/-- The replicas still to be updated after bytes are written to one of a replicated page (R234, R271): every other one; and, after die
0's, the writer's own, which takes what die 0's then holds. -/
def replicaWrites (die : Nat) (bytes : List (Loc × Byte)) : List (Fin 8 × Loc × Byte) :=
  (List.finRange 8).flatMap (fun d => if d.val = die ∧ die = 0 then [] else
    bytes.map (fun p => (d, p.1 - die * 2 ^ 37 + d.val * 2 ^ 37, p.2)))
/-- An update is made: die 0's replica takes the byte, another one the byte that die 0's holds, so that all come to hold the write that
is last in die 0's serialisation (R271, log 85). -/
def State.replicaNow (p : Fin 8 × Loc × Byte) (s : State) : State :=
  s.writeHome none [(p.2.1, if p.1 = 0 then p.2.2 else s.byteAt (p.2.1 - p.1.val * 2 ^ 37))]
/-- The pending updates of some dies are made, die 0's first. -/
def State.replicasTo (which : Fin 8 → Bool) (s : State) : State :=
  let now (p : Fin 8 × Loc × Byte) : Bool := p.1 == 0 || which p.1
  let ps := s.pkg.replicas
  let s := (ps.filter (fun p => p.1 == 0) ++ ps.filter (fun p => p.1 != 0 && which p.1)).foldl (fun s p => s.replicaNow p) s
  s.modPkg (fun k => { k with replicas := ps.filter (fun p => !now p) })

/-- A device register write by the core, which is the next step of the package (R444). -/
def isCoreWrite : Instr → Bool
  | .deviceRegisterWrite _ _ _ host => !host
  | _ => false
def State.pushDevice (off : Nat) (wide : Bool) (v : DWord) (s : State) : State :=
  { s with agenda := s.agenda.takeWhile isCoreWrite ++ [.deviceRegisterWrite off wide v false] ++ s.agenda.dropWhile isCoreWrite }

/-- A store performed (R265): to a device register, or line by line at its scope. -/
def State.storeNow (st : HeldStore) (s : State) : State :=
  match st.bytes with
  | [] => s
  | (l, _) :: _ =>
    if s.region false l = .device then
      s.pushDevice (locOff l - 0x7F000000000) (st.bytes.length == 8) (dw (leNat (st.bytes.map (·.2))))
    else if st.repl then
      ((byLine st.bytes).foldl (fun s b => s.storeLine .package st.hint b) s).modPkg (fun p =>
        { p with replicas := p.replicas ++ replicaWrites s.die st.bytes })
    else (byLine st.bytes).foldl (fun s b => s.storeLine st.scope st.hint b) s

/-- A store of the running context: held while a segment is open and its buffer lasts (R273, R434), performed otherwise. -/
def State.store (st : HeldStore) (s : State) : State :=
  match s.ctx.seg with
  | none => s.storeNow st
  | some g =>
    if g.why = some 2 then s.storeNow st
    else
      let known := (g.stores.flatMap (·.bytes)).map (fun p => lineOf p.1)
      let add := ((distinct (st.bytes.map (fun p => lineOf p.1))).filter (fun l => !known.contains l)).length * 64
      let cap := if s.core.split then 32768 else 65536
      if g.bufBytes + add > cap then
        let s := g.stores.foldl (fun s x => s.storeNow x) s
        (s.modCtx (fun c => { c with seg := some { g with why := some 2, stores := [] } })).storeNow st
      else s.modCtx (fun c => { c with seg := some { g with stores := g.stores ++ [st], bufBytes := g.bufBytes + add } })

/-! ## Ordering operations (R262, R265, R271, R274, R279) -/

/-- The pending replica updates are made (R271). -/
def State.flushReplicas (s : State) : State := s.replicasTo (fun _ => true)

/-- A service of the manifest begins: the dirty bytes are written back (R277); a second one waits its turn. -/
def State.startService (r : PromReq) (s : State) : State :=
  match s.sq.man.service with
  | some _ => s.modSq (fun q => { q with man := { q.man with queued := q.man.queued ++ [r] } })
  | none => (s.cleanCache s.cacheHalf).modSq (fun q => { q with man := { q.man with service := some r } })

/-- a ≤ b among sequence numbers that wrap (R274). -/
def seqLe (a b : Word) : Bool := decide ((b - a).toNat < 2 ^ 31)

/-- The number of entries of a manifest (R274). -/
def State.manSize (s : State) : Nat := if s.core.split then 32 else 64

/-- A release at a scope below fabric appends an entry, with the bank of its context; where the manifest is full the oldest entry retires and is promoted to
package scope as a service (R274, R279). -/
def State.appendRelease (bank : Fin 2) (sc : Scope) (line : Option Loc) (s : State) : State :=
  if sc = .fabric then s
  else
    let q := s.sq
    let n : Word := if q.man.count = 0xFFFFFFFF then 0 else q.man.count + 1
    let e : ManEntry := { seq := n, line := line, scope := sc, prom := sc, bank := bank }
    match q.man.live with
    | o :: rest =>
      if q.man.live.length < s.manSize then s.modSq (fun q => { q with man := { q.man with live := q.man.live ++ [e], count := n } })
      else
        ((s.modSq (fun q => { q with man := { q.man with live := rest ++ [e], count := n, retired := o.seq } })).bump
          (devCore s.coreId.toNat 0x58) 1).startService { line := o.line.getD 0, q := o.seq, scope := .package, answer := false }
    | [] => s.modSq (fun q => { q with man := { q.man with live := [e], count := n } })

/-- Whether writes of the issuing core or half-core that a release at a scope waits for are not acknowledged yet: at fabric scope those to
other packages and to the host (R268) that are on their way, dirty in its core cache, or held in the open segment, which such a release
closes; at package scope those on their way to the host (R459). -/
def State.farWrites (s : State) (sc : Scope) : Bool :=
  let far (l : Loc) : Bool := s.region false l == .remote || s.region false l == .host
  s.unackedAt sc s.core.active || (sc == .fabric && (s.core.cache.any (fun x => x.half == s.cacheHalf && x.dirty != 0 && far x.line) ||
    (match s.ctx.seg with | some g => g.stores.any (fun st => st.bytes.any (fun p => far p.1)) | none => false)))
/-- The wait of a release for those acknowledgements (R268, R270, R459). -/
def State.releaseHolds (s : State) (rel : Bool) (sc : Scope) : List Hold := if rel && s.farWrites sc then [.acks] else []

/-- What a release waits for before it is made (R262, R265, R271): dirty bytes at home at a scope wider than core, replicas at
package scope and wider. The length of the wait is open (log 6). -/
def State.releaseOrder (sc : Scope) (s : State) : State :=
  let s := if sc = .core then s else
    (if s.core.cache.any (fun x => x.half == s.cacheHalf && x.dirty != 0) then (s.cleanCache s.cacheHalf).freeFreeze else s)
  if sc = .package ∨ sc = .fabric then (if s.pkg.replicas = [] then s else s.flushReplicas) else s
/-- What an acquire does at a scope wider than core: dirty bytes written back, every line invalidated (R265). -/
def State.acquireOrder (sc : Scope) (s : State) : State :=
  if sc = .core then s else (s.cleanCache s.cacheHalf).emptyCache s.cacheHalf

/-- A fence (R262, R300). -/
def State.fence (sc : Scope) (pr pw sr sw : Bool) (s : State) : State :=
  if (!pr && !pw) || (!sr && !sw) then s
  else
    let s := if pw then (s.releaseOrder sc).appendRelease s.sq.running sc none else s
    if sr then s.acquireOrder sc else s

/-! ## Segments (R433) -/

/-- Commands of the running context held back by its segment may start (R342). -/
def State.unholdCmds (s : State) : State :=
  s.modCore (fun k => { k with queues := k.queues.map (fun q => { q with cmds := q.cmds.map (fun c =>
    if c.owner == s.ctx.ident then { c with held := false, inSeg := false } else c) }) })

/-- Events of a closed segment are delivered in order. -/
def State.deliverEvents (es : List Event) (s : State) : State :=
  es.foldl (fun s e => if s.sq.events.length < 64 then s.modSq (fun q => { q with events := q.events ++ [e] })
    else s.modSq (fun q => { (q.modCtx (fun c => { c with pend := c.pend ||| 0x08 })) with evdrop := q.evdrop + 1 })) s

/-- The open segment closes (R433): held stores perform in program order, held events are delivered, held commands may start. -/
def State.closeSegment (s : State) : State :=
  match s.ctx.seg with
  | none => s
  | some g =>
    let s := s.modCtx (fun c => { c with seg := none, rewound := none })
    let s := g.stores.foldl (fun s x => s.storeNow x) s
    (s.deliverEvents g.events).unholdCmds

end Sys2Proof.Machine
end

