-- ==== Sys2Proof/Machine/Fetch.lean ====
section
/-! DEFINITION. Instruction fetch (R29 to R31, R258, R259): the levels that hold code lines, the dual-path instruction buffer, the lines
of a bundle, the penalty of a transfer, and the bundle put into the issue stage. -/

namespace Sys2Proof.Machine

/-! ## Code lines and their levels (R258, R259) -/

/-- What fetching some words gives: the words, a trap at the bundle, or a wait for a line of another package. -/
inductive Fetched where
  | words (ws : List Nat)
  | trap (t : Trap)
  | remote (line : Loc)
  deriving DecidableEq, Repr

/-- Where the code at an address stands: X must be 1 in the leaf (R258); only memory may be fetched (R227). -/
def State.codeLoc (s : State) (va : DWord) : Except Nat Loc :=
  match s.walk s.ctx.csrs.asid va AccessKind.fetch.need (!s.ctx.csrs.prv) with
  | .error c => .error c
  | .ok t =>
    let l := t.loc s.die va
    match s.region false l with
    | .hbm | .cellar | .remote => .ok l
    | .outside => .error 0x73
    | _ => .error 0x72
/-- The HINT of a code page, which its L2 fills use (R233). -/
def State.codeHint (s : State) (va : DWord) : Fin 4 :=
  match s.walk s.ctx.csrs.asid va AccessKind.fetch.need (!s.ctx.csrs.prv) with
  | .ok t => attrHint t.attr
  | .error _ => 0

/-- A line of the buffer; the half that is executed comes first. -/
def IBuf.find (b : IBuf) (line : Loc) : Option BufLine :=
  (b.lines.find? (fun x => x.line == line && x.half == b.path)).orElse (fun _ => b.lines.find? (fun x => x.line == line))

/-- The levels of instruction fetch, the nearest first (R31, R258). -/
inductive CodeLevel where
  | buffer | l1i | mid | l2 | beyond
  deriving DecidableEq, Repr

/-- A code line as fetch finds it: its bytes, whether it is uncorrectable at every level (R259), and the level that supplies it. -/
structure CodeGot where
  bytes : List Byte
  bad : Bool
  level : CodeLevel
  deriving DecidableEq, Repr

/-- The nearest level's copy of a code line; none where another package must be asked. Bytes that the context's open segment holds are
forwarded to a line that comes from its home (R14, R273). -/
def State.codeLine (s : State) (line : Loc) : Option CodeGot :=
  match s.sq.ibuf.find line, s.core.l1i.find? (fun x => x.line == line), s.pkg.mid.find? (fun x => x.line == line) with
  | some x, _, _ => some { bytes := x.bytes, bad := x.bad, level := .buffer }
  | none, some x, _ => some { bytes := x.bytes, bad := false, level := .l1i }
  | none, none, some x => some { bytes := x.bytes, bad := false, level := .mid }
  | none, none, none =>
    (s.source line 64).map (fun (bs, bad) =>
      { bytes := s.heldOver line bs, bad := bad, level := if s.inL2 line ∨ (s.guestOf line).isSome then .l2 else .beyond })

/-- One 16 B unit of code. A line that is uncorrectable at every level traps with 0xA2 (R259); `pc` is the bundle's address. -/
def State.fetchUnit (s : State) (pc va : DWord) : Fetched :=
  match s.codeLoc va with
  | .error c => .trap { cause := c, tval := va }
  | .ok l => match s.codeLine (lineOf l) with
    | none => .remote (lineOf l)
    | some x =>
      if x.bad then .trap { cause := 0xA2, tval := pc }
      else .words ((pieces 4 4 (x.bytes.drop (l - lineOf l))).map leNat)

/-- Units of code one after another. -/
def State.fetchUnits (s : State) (pc va : DWord) : Nat → Fetched
  | 0 => .words []
  | n + 1 =>
    match s.fetchUnit pc va with
    | .words ws => match s.fetchUnits pc (va + 16) n with
      | .words r => .words (ws ++ r)
      | e => e
    | e => e

/-- The words of the bundle at an address: its LEN is in its header (R73). -/
def State.fetchBundle (s : State) (pc : DWord) : Fetched :=
  match s.fetchUnit pc pc with
  | .words ws => match s.fetchUnits pc (pc + 16) (fld (ws.headD 0) 0 2) with
    | .words r => .words (ws ++ r)
    | e => e
  | e => e

/-- The address of the last 16 B unit of the bundle at an address, as far as its header can be read. -/
def State.lastUnit (s : State) (va : DWord) : DWord :=
  match s.fetchUnit va va with
  | .words ws => va + dw (16 * fld (ws.headD 0) 0 2)
  | _ => va

/-! ## The levels' contents -/

/-- Lines of a half of the buffer (R29), of the L1I (64 KiB) and of the middle level (1 MiB). -/
def halfLines : Nat := 8
def l1iLines : Nat := 1024
def midLines : Nat := 16384

/-- The newest entry at the end of a list of bounded length, the oldest giving way (log 7). -/
def remember (n : Nat) (x : CodeLine) (ls : List CodeLine) : List CodeLine :=
  let r := ls.filter (fun y => y.line != x.line) ++ [x]
  r.drop (r.length - n)

/-- A line put into the L1I. -/
def State.fillL1i (x : CodeLine) (s : State) : State := s.modCore (fun c => { c with l1i := remember l1iLines x c.l1i })
/-- A line put into the middle level; one evicted from it is invalid in the L1I (R258). -/
def State.fillMid (x : CodeLine) (s : State) : State :=
  let kept := remember midLines x s.pkg.mid
  let gone (y : CodeLine) : Bool := s.pkg.mid.any (fun m => m.line == y.line) && !kept.any (fun m => m.line == y.line)
  (s.modPkg (fun p => { p with mid := kept })).modCore (fun c => { c with l1i := c.l1i.filter (fun y => !gone y) })

/-- Whether the context's open segment holds bytes of a line. -/
def State.lineHeld (s : State) (line : Loc) : Bool :=
  match s.ctx.seg with
  | some g => g.stores.any (fun x => x.bytes.any (fun p => lineOf p.1 == line))
  | none => false

/-- A line on its way to the buffer is put into the levels that lack it, and requested at its home slice with its page's hint (R233,
R249); fetch counts in none of the slice's counters (R252). A line with held bytes, or an uncorrectable one, stays in the buffer
alone. -/
def State.fillLevels (line : Loc) (hint : Fin 4) (g : CodeGot) (s : State) : State :=
  let x : CodeLine := { line := line, bytes := g.bytes }
  if g.bad ∨ s.lineHeld line then s
  else match g.level with
    | .buffer => s
    | .l1i => s.fillL1i x
    | .mid => (s.fillMid x).fillL1i x
    | .l2 | .beyond =>
      let s := s.l2Quiet line hint
      let s := if g.level = .beyond then s.drawn else s
      (s.fillMid x).fillL1i x

/-! ## The dual-path buffer (R29, R30) -/

/-- The other half. -/
def otherPath (h : Fin 2) : Fin 2 := if h = 0 then 1 else 0

/-- The start lines of the innermost loop, which the buffer holds while its frame is live (R34). -/
def State.loopLines (s : State) : List Loc :=
  match s.ctx.loops with
  | [] => []
  | f :: _ => [f.start, s.lastUnit f.start].filterMap (fun va => match s.codeLoc va with | .ok l => some (lineOf l) | .error _ => none)

/-- Lines leave the buffer; an uncorrectable one in which no bundle has issued is logged (R259). -/
def State.dropBuf (gone : List BufLine) (s : State) : State :=
  let s := s.modSq (fun q => { q with ibuf := { q.ibuf with lines := q.ibuf.lines.filter (fun x => !gone.contains x) } })
  (gone.filter (fun x => x.bad && !x.used)).foldl (fun s x => s.relEvent s.dieFin 0xAD (dw x.line) 0) s

/-- A half keeps eight lines, the oldest giving way but for a loop's start lines. -/
def State.trimHalf (h : Fin 2) (s : State) : State :=
  let keep := s.loopLines
  let mine := s.sq.ibuf.lines.filter (fun x => x.half == h)
  s.dropBuf ((mine.filter (fun x => !keep.contains x.line)).take (mine.length - halfLines))

/-- A code line in a half of the buffer and in the levels on its way. `used` tells that a bundle in it stands at issue. -/
def State.bringLine (h : Fin 2) (used : Bool) (va : DWord) (s : State) : State :=
  match s.codeLoc va with
  | .error _ => s
  | .ok l => match s.codeLine (lineOf l) with
    | none => s
    | some g =>
      let line := lineOf l
      let s := s.fillLevels line (s.codeHint va) g
      let old := s.sq.ibuf.lines.any (fun x => x.line == line && x.half == h && x.used)
      let x : BufLine := { half := h, line := line, bytes := g.bytes, bad := g.bad, used := used || old }
      (s.modSq (fun q => { q with ibuf := { q.ibuf with
        lines := q.ibuf.lines.filter (fun y => !(y.line == line && y.half == h)) ++ [x] } })).trimHalf h

/-- The lines of the bundle at an address. -/
def State.bringBundle (h : Fin 2) (used : Bool) (va : DWord) (s : State) : State :=
  (s.bringLine h used va).bringLine h used (s.lastUnit va)

/-- A half is recycled (R30); a loop's start lines go over to the half that is executed. -/
def State.recycle (h : Fin 2) (s : State) : State :=
  let keep := s.loopLines
  let s := s.dropBuf (s.sq.ibuf.lines.filter (fun x => x.half == h && !keep.contains x.line))
  (s.modSq (fun q => { q with ibuf := { q.ibuf with
    lines := q.ibuf.lines.map (fun x => if x.half = h then { x with half := q.ibuf.path } else x) } })).trimHalf s.sq.ibuf.path

/-- The path goes over to the other half, which holds it from running cycle `n`; the half that loses is recycled. A path that was not
fetched as the alternative one begins in an empty half. -/
def State.newPath (n : Nat) (fetched : Bool) (s : State) : State :=
  let p := s.sq.ibuf.path
  let s := if fetched then s else s.recycle (otherPath p)
  (s.modSq (fun q => { q with ibuf := { q.ibuf with path := otherPath p, since := n, alt := none } })).recycle p

/-- A branch that is not taken: the half of the alternative path is recycled. -/
def State.keepPath (s : State) : State :=
  (s.recycle (otherPath s.sq.ibuf.path)).modSq (fun q => { q with ibuf := { q.ibuf with alt := none } })

/-! ## Penalties (R31) -/

/-- The indirect penalty of R31. -/
def indirectPenalty : Nat := 6

/-- The latency of the level that holds a line; beyond L2 it is not fixed (log 6). -/
def State.linePen (s : State) (va : DWord) : Nat :=
  match s.codeLoc va with
  | .error _ => 0
  | .ok l => match (s.codeLine (lineOf l)).map CodeGot.level with
    | some .buffer => 0
    | some .l1i => 5
    | some .mid => 16
    | some .l2 => 48
    | some .beyond | none => 48 + Config.fetchBeyond s.fresh
/-- The fetch latency of a bundle: it issues only when both of its lines are present. -/
def State.pathPen (s : State) (va : DWord) : Nat := max (s.linePen va) (s.linePen (s.lastUnit va))

/-- Whether the half that is executed holds the bundle at an address. -/
def State.onPath (s : State) (va : DWord) : Bool :=
  [va, s.lastUnit va].all (fun a => match s.codeLoc a with
    | .ok l => s.sq.ibuf.lines.any (fun x => x.line == lineOf l && x.half == s.sq.ibuf.path)
    | .error _ => false)

/-- A direct target within 4 KiB of its branch (R29). -/
def nearTarget (pc target : DWord) : Bool := decide (-4096 ≤ (target - pc).toInt ∧ (target - pc).toInt ≤ 4096)

/-- The running cycle in which the alternative path of a branch has arrived: its fetch begins when the branch's own path stands in the
buffer (log 7), and no earlier than the cycle after the branch before it resolved (R29). -/
def State.altDue (s : State) (target : DWord) : Nat :=
  if s.onPath target then 0 else max s.sq.ibuf.since (s.sq.ibuf.resolved + 1) + s.pathPen target

/-- The penalty of a taken transfer: the indirect penalty, or the fetch latency if larger; for a direct one within 4 KiB the part of the
fetch latency that is still outstanding, beyond it the whole. -/
def State.penalty (s : State) (indirect : Bool) (pc target : DWord) : Nat :=
  if indirect then max indirectPenalty (s.pathPen target)
  else if nearTarget pc target then
    (match s.sq.ibuf.alt with
      | some a => if a.pc = pc ∧ a.target = target then a.due else s.altDue target
      | none => s.altDue target) - (s.ctx.rc + 1)
  else s.pathPen target

/-- The penalty of a branch that is not taken: what is outstanding of the fall-through path, which is fetched with its own. -/
def State.fallPenalty (s : State) (next : DWord) : Nat :=
  if s.onPath next then 0 else s.sq.ibuf.since + s.pathPen next - (s.ctx.rc + 1)

/-- The running context goes on at its pc by an indirect transfer: its first bundle issues at the indirect penalty. -/
def State.transfer (s : State) : State :=
  let n := s.ctx.rc + 1 + s.penalty true s.ctx.pc s.ctx.pc
  (s.modCtx (fun c => { c with nextIssue := n })).newPath n false

/-- The running context's next bundle, in sequence, issues at the indirect penalty and no earlier than its own stall allows (R116, R117). -/
def State.indirectly (s : State) : State :=
  let n := max s.ctx.nextIssue (s.ctx.rc + 1 + s.penalty true s.ctx.pc s.ctx.pc)
  (s.modCtx (fun c => { c with nextIssue := n })).newPath n false

/-! ## The issue stage -/

/-- A bundle's words in the issue stage, with the traps of its decoding (R73 to R75, R92). Where the words that its header names
do not fit into it, none is decoded. -/
def curOf (pc : DWord) (ws : List Nat) : Cur :=
  let b := splitBundle ws
  let short : Bool := decide (4 * (b.hdr.len + 1) < 1 + (b.hdr.slots.map (·.2)).sum)
  { pc := pc, hdr := b.hdr, hword := b.hword,
    slots := if short then [] else
      (if b.hdr.indexed then (b.slots.filter (fun p => p.1 == .v0)).map (fun p => (p.1, p.2, Instr.mnop)) else []) ++ b.decoded,
    pool := b.pool, traps := b.headerTraps, odd := if short then [] else b.odd }

/-- The target of the bundle's direct branch or JAL. -/
def Cur.directTarget (c : Cur) : Option DWord :=
  c.slots.findSome? (fun p => match p with
    | (.s, _, .branch _ _ _ i) => some (c.pc + ((i.signExtend 64) <<< 1))
    | (.s, _, .jal _ i) => some (c.pc + ((i.signExtend 64) <<< 1))
    | _ => none)

/-- A direct branch within 4 KiB that enters the buffer has its target path fetched into the other half (R29); one is tracked at a
time. -/
def State.trackBranch (c : Cur) (s : State) : State :=
  match c.directTarget with
  | none => s
  | some target =>
    if nearTarget c.pc target && (match s.sq.ibuf.alt with | some a => a.pc != c.pc || a.target != target | none => true) then
      let due := s.altDue target
      let o := otherPath s.sq.ibuf.path
      let s := (s.recycle o).bringBundle o false target
      s.modSq (fun q => { q with ibuf := { q.ibuf with alt := some { pc := c.pc, target := target, due := due } } })
    else s

/-- The bundle at pc put into the issue stage; a fetch fault stands there in its place. -/
def State.fetchCur (s : State) : State :=
  let pc := s.ctx.pc
  match s.fetchBundle pc with
  | .words ws =>
    let c := curOf pc ws
    ((s.bringBundle s.sq.ibuf.path true pc).trackBranch c).modCore (fun k => { k with cur := c })
  | .trap t =>
    (s.bringBundle s.sq.ibuf.path true pc).modCore (fun k => { k with cur := { Cur.reset with pc := pc, traps := [t] } })
  | .remote l => s.modCore (fun k => { k with cur := { Cur.reset with pc := pc, pool := [l] } })

/-- The address of the bundle after the one in the issue stage. -/
def Cur.next (c : Cur) : DWord := c.pc + dw (16 * (c.hdr.len + 1))

/-- FENCE.I (R14): the line buffer and the levels of code hold nothing older, and the core's stores have reached their homes. -/
def State.fenceI (s : State) : State :=
  let s := s.cleanCache s.cacheHalf
  let s := s.dropBuf s.sq.ibuf.lines
  (s.modCore (fun c => { c with l1i := [] })).modPkg (fun p => { p with mid := [] })

/-- The first bundle in sequence whose header lies beyond `stop`, counted by each LEN from `a` (R33, R112). -/
def State.skipFrom (s : State) (stop : DWord) : Nat → DWord → DWord
  | 0, a => a
  | n + 1, a =>
    if stop < a then a
    else match s.fetchUnit a a with
      | .words ws => s.skipFrom stop n (a + dw (16 * (fld (ws.headD 0) 0 2 + 1)))
      | _ => a

end Sys2Proof.Machine
end

