-- ==== Sys2Proof/Machine/Ops.lean ====
section
/-! DEFINITION. The shared operations of the sequencer: waiting, taking an exception (R40, R41, R107, R108), returning from one
(R115), the rewind of a segment (R437 to R439), the page-fault switch (R428), stops and resumption of issue (R416, R417), and the
end of a bundle (R16, R34, R35). -/

namespace Sys2Proof.Machine

/-- A trap that a check of a bundle raises: the cause and its detail; for causes of kind F from the scalar path the access kind
(R428, R429); for causes of kind W the state at fault, where there is one (R437). -/
structure Raise where
  cause : Nat
  tval : DWord
  fault : Option AccessKind := none
  state : Option Undo := none
  /-- SEALCK's causes are of kind P (R391). -/
  plain : Bool := false
  deriving DecidableEq, Repr

/-- A trap that stands at a bundle; causes 0x60 and 0x68 are its fetch's. -/
def Raise.ofTrap (t : Trap) : Raise :=
  { cause := t.cause, tval := t.tval, fault := if t.cause = 0x60 ∨ t.cause = 0x68 then some .fetch else none }

/-- The lowest cause, the first among equals (R40). -/
def lowest : List Raise → Option Raise
  | [] => none
  | r :: rs => match lowest rs with
    | some q => some (if r.cause ≤ q.cause then r else q)
    | none => some r

/-! ## Addresses -/

/-- An address with bits [3:0] cleared. -/
def align16 (a : DWord) : DWord := a &&& ~~~(0xF : DWord)
/-- The class of a cause (R105). -/
def causeClass (c : Nat) : Nat := c / 16
/-- The handler of a cause (R105). -/
def Csrs.handler (c : Csrs) (cause : Nat) : DWord :=
  (c.tvecBase.zeroExtend 64 <<< 12) + (if c.tvecVec then dw (256 * causeClass cause) else 0)

/-! ## Taking an exception -/

/-- Trap entry (R107): the CSRs of one step. -/
def Csrs.enterTrap (cause : Nat) (tval pc next : DWord) (c : Csrs) : Csrs :=
  { c with tcause := BitVec.ofNat 8 cause, tepc := align16 pc, tnext := next, tval := tval,
           pprv := c.prv, pie := c.ie, sbm := c.sbmode, intrap := true, ie := false, prv := true, sbmode := 2 }

/-- Trap entry of a context at its running cycle (R107, R108): the CSRs, the writes in flight parked as a new set with the loop stack
and the waiting BARW of the trapped code (R41, log 81), the reservation released. -/
def Ctx.enterTrap (cause : Nat) (tval pc next : DWord) (c : Ctx) : Ctx :=
  { c with csrs := c.csrs.enterTrap cause tval pc next,
           parked := c.parked ++ [{ t0 := c.rc, writes := c.flights, loops := c.loops, arrived := c.arrived }],
           flights := [], loops := [], arrived := none, resv := none, pc := c.csrs.handler cause }

/-- Whether a trap taken now is a double trap (R108): INTRAP is 1, or a fifth parked set would be made. -/
def Ctx.doubles (c : Ctx) : Bool := c.csrs.intrap || decide (c.parked.length ≥ 4)

/-- A double trap stops issue exactly as HALT does, at the double-trapping bundle (R108, R426). -/
def Ctx.doubleTrap (cause : Nat) (pc : DWord) (c : Ctx) : Ctx :=
  { c with csrs := { c.csrs with tcause2 := BitVec.ofNat 8 cause }, status := .halted, pc := pc, nextIssue := c.rc + 1 }

/-- Trap entry of the running context: its handler's first bundle issues at the indirect penalty, counted from the trapping bundle's
issue cycle (R107). -/
def State.enterTrap (cause : Nat) (tval pc next : DWord) (s : State) : State :=
  (s.modCtx (fun c => c.enterTrap cause tval pc next)).transfer

/-- Taking an exception, the one operation every trap and asynchronous cause goes through: the open segment closes (R433), then
trap entry, or a double trap, which is reported. -/
def State.takeTrap (cause : Nat) (tval pc next : DWord) (s : State) : State :=
  let s := s.closeSegment.leaveIssue
  if s.ctx.doubles then
    (s.modCtx (fun c => c.doubleTrap cause pc)).indirectly.relEvent s.dieFin 0xB7 (dw cause) (dw s.srcId)
  else s.enterTrap cause tval pc next

/-! ## Returning from one -/

/-- Frames whose range excludes the target of a taken transfer are popped (R35). -/
def popOutside (t : DWord) : List LoopFrame → List LoopFrame
  | [] => []
  | f :: r => if f.start ≤ t ∧ t ≤ f.stop then f :: r else popOutside t r

/-- R115 steps 1 to 3. -/
def Csrs.leaveTrap (c : Csrs) : Csrs :=
  { c with prv := c.pprv, ie := c.pie, intrap := false, sbmode := if c.sbm = 3 then c.sbmode else c.sbm }

/-- Writes of a handler still in flight at its TRET keep their remaining offsets, counted from the cycle at which the next bundle
issues (log 9). -/
def Flight.rebase (t0 t1 : Nat) (f : Flight) : Flight := { f with land := t1 + (f.land - t0) }

/-- TRET in running cycle rc (R115): privilege, interrupt enable and scoreboard mode come back, and fetch moves to tepc. With a parked
set, whose first bundle issues `n` cycles after the TRET bundle, the context's running cycle goes back to that of the trapped bundle, the
set's writes are in flight again at their landing cycles, and its loop stack and waiting BARW are the context's again (log 81). -/
def Ctx.leaveTrap (n : Nat) (c : Ctx) : Ctx :=
  let c' := { c with csrs := c.csrs.leaveTrap, resv := none, pc := c.csrs.tepc }
  match c.parked.getLast? with
  | some p =>
    { c' with parked := c.parked.dropLast, rc := p.t0, nextIssue := p.t0, loops := popOutside c.csrs.tepc p.loops, arrived := p.arrived,
              flights := c.flights.map (Flight.rebase (c.rc + n) p.t0) ++ p.writes.map (fun f => { f with replay := true }) }
  | none => { c' with nextIssue := c.rc + n, loops := popOutside c.csrs.tepc c.loops }

/-- TRET of the running context: the indirect penalty is that of tepc at the privilege that comes back (R31, R115). Its cycles pass
before the first bundle of a parked set issues. -/
def State.leaveTrap (s : State) : State :=
  let t := s.modCtx (fun c => { c with csrs := c.csrs.leaveTrap, pc := c.csrs.tepc })
  let n := 1 + t.penalty true t.ctx.pc t.ctx.pc
  let s := if s.ctx.parked = [] then s else s.tick n
  let s := s.modCtx (Ctx.leaveTrap n)
  s.newPath s.ctx.nextIssue false

/-- tstat as it reads (R104): SHB while a parked set is held, or writes of one remain to land (R115). -/
def Ctx.shb (c : Ctx) : Bool := !c.parked.isEmpty || c.flights.any (·.replay)

/-! ## Waiting before issue -/

/-- Two waits that count together: those for bins, whether for bytes or for room (R202). -/
def Hold.runsOn : Hold → Hold → Bool
  | .bins _, .bins _ => true
  | a, b => a == b
/-- The bundle waits: what for is noted; nothing is committed (R16, R17). -/
def State.holdFor (h : Hold) (s : State) : State :=
  s.modSq (fun q => { q with hold := some h, waited := if q.hold.any (Hold.runsOn h) then q.waited else 0 })

/-! ## Page faults and the second bank (R428, R429) -/

def faultKind : AccessKind → BitVec 2
  | .read => 0 | .write | .atomic => 1 | .fetch => 2

/-- The cycles of a switch between banks (R118, R420). -/
def bankSwitch : Nat := 32

/-- The other bank of the active sequencer. -/
def otherBank (b : Fin 2) : Fin 2 := if b = 0 then 1 else 0

/-- A stopped context runs again (R417): its running cycle continues from the one in which its next bundle would have issued. -/
def Ctx.resume (now : Nat) (c : Ctx) : Ctx :=
  { c with status := .running, rc := max c.rc c.nextIssue, nextIssue := max c.rc c.nextIssue,
           task := c.task.map (fun t => { t with since := now }) }
/-- Issue stops on the running context at a bundle boundary (R416, R433). -/
def State.stopRunning (s : State) : State :=
  (s.closeSegment.endWait).modCtx (fun c => { c with resv := none, status := if c.status = .running then .standby else c.status })

/-- The other half-core. -/
def otherHalf (h : Half) : Half := if h = .a then .b else .a
/-- Whether two contexts run tasks of one gang. -/
def Ctx.gangWith (c d : Ctx) : Bool :=
  match c.task, d.task with
  | some t, some u => t.gang && u.gang && t.spawn == u.spawn
  | _, _ => false
/-- The sequencer of the other half-core, in split mode. -/
def State.otherSeq (s : State) : Seq := s.seqOf (otherHalf s.core.active)
/-- The bank of the other half-core that holds a task of a context's gang (R192). -/
def State.mateBank (s : State) (c : Ctx) : Option (Fin 2) :=
  if !s.core.split then none
  else ([0, 1] : List (Fin 2)).find? (fun b =>
    let d := s.otherSeq.banks.get b
    c.gangWith d && d.status != .free && d.status != .ended)
/-- A gang stops as a whole (R419): the task of it that the other half-core runs stops too. -/
def State.stopMate (c : Ctx) (s : State) : State :=
  match s.mateBank c with
  | some b =>
    if s.otherSeq.running = b ∧ s.otherSeq.ctx.status = .running then s.asHalf (otherHalf s.core.active) State.stopRunning else s
  | none => s

/-- Cycles in which the half-core runs no context, up to a time. -/
def State.idleTo (t : Nat) (s : State) : State :=
  s.tick ((t - s.sq.now + s.cycleUnits - 1) / s.cycleUnits)
/-- One context begins or goes on (R417), with an instruction buffer that holds none of its path yet. -/
def State.resumeOne (s : State) : State :=
  let s := s.modCtx (Ctx.resume s.nowNs)
  s.newPath s.ctx.nextIssue false
/-- The context of the running bank begins or goes on; a gang resumes as a whole (R419): a task of it that stands by on the other
half-core, which runs nothing, does so in the same cycle. -/
def State.resumeCtx (s : State) : State :=
  match s.mateBank s.ctx with
  | none => s.resumeOne
  | some b =>
    let o := s.otherSeq
    let d := o.banks.get b
    if d.status = .standby ∧ !d.pfValid ∧ o.ctx.status ≠ .running then
      let t := max s.sq.now o.now
      ((s.idleTo t).resumeOne).asHalf (otherHalf s.core.active) (fun s =>
        ((s.idleTo t).modSq (fun q => { q with running := b, hold := none, waited := 0 })).resumeOne)
    else s.resumeOne

/-- The other bank runs, if it holds a context that can (R410); the switch takes 32 cycles that are running cycles of none. -/
def State.runOther (s : State) : State :=
  let o := otherBank s.sq.running
  if (s.sq.banks.get o).status = .standby ∧ !(s.sq.banks.get o).pfValid then
    let s := (s.tick bankSwitch).modSq (fun q => { q with running := o, hold := none, waited := 0 })
    s.resumeCtx
  else s

/-- The page-fault switch (R428). -/
def State.faultSwitch (cause : Nat) (va : DWord) (k : AccessKind) (pc : DWord) (s : State) : State :=
  let s := s.closeSegment.leaveIssue
  let s := s.modCtx (fun c => { c with pfva := va, pfValid := true, pfCause := BitVec.ofNat 8 cause, pfAsid := c.csrs.asid,
                                       pfKind := faultKind k, status := .standby, pc := pc, resv := none })
  (s.coreEvent (BitVec.ofNat 8 cause) 0 va 0).runOther

/-! ## Rewind (R437 to R439) -/

/-- Whether a cause is of kind W (R425). -/
def Raise.isW (r : Raise) : Bool :=
  !r.plain && (r.cause == 0x21 || r.cause == 0xA0 || r.cause == 0xA1 || r.cause == 0xA2 || r.cause == 0xA7)

/-- A logged state takes its value at the mark. -/
def State.undo (u : Undo) (s : State) : State :=
  match u with
  | .x r v => s.modRegs (Regs.setX r v)
  | .f r v => s.modRegs (Regs.setF r v)
  | .v g r v => s.modRegs (Regs.setV g r v)
  | .m g r v => s.modRegs (Regs.setM g r v)
  | .h r v => s.modRegs (Regs.setH r v)
  | .acc g b k rows tag ovf => s.modMyMat (fun m => m.modBank g b (fun x =>
      { ((List.range 8).foldl (fun x i => x.setRow (8 * k.val + i) (rows.getD i 0)) x) with tag := tag, ovf := ovf }))
  | .latchRow g l r v tag wb => s.modMyMat (fun m => m.modLatch g l (fun x =>
      { x with rows := vset x.rows r v, tag := tag, wb := wb }))
  | .block a bs => s.modCore (fun c => { c with sram := c.sram.write a bs })
  | .shelf g i ws => s.modMyMat (fun m => { m with standby := vmod m.standby g (fun sh =>
      { sh with entries := tset (List.replicate 8 0) sh.entries i ws }) })

/-- The ticket of a command (R375). -/
def ticketOf (q : Fin 2) (n : Word) : DWord := dw (q.val * 2 ^ 32 + n.toNat)
/-- How many submissions a number lies behind the latest one (R375). -/
def Queue.age (q : Queue) (n : Word) : Nat := (q.count.toNat + (2 ^ 32 - 1) - n.toNat) % (2 ^ 32 - 1)

/-- Causes 0xBC and 0xBD become pending in the context of a command (R427). -/
def Ctx.finished (owner : Nat) (t : DWord) (arv : Fin 4) (failed : Bool) (c : Ctx) : Ctx :=
  if c.ident ≠ owner then c
  else
    let c := if arv = 3 then c.setPend 0xBC t else c
    if failed then c.setPend 0xBD t else c

/-- A command enters FINISHED (R337, R338, R343, R375, R427): its slot and its range entries are free, its status is kept among the
64 most recent ones, and its context learns of failures. -/
def State.retire (q : Fin 2) (c : Cmd) (arv : Fin 4) (recs : Table DWord) (s : State) : State :=
  let t := ticketOf q c.num
  let f (x : Ctx) : Ctx := x.finished c.owner t arv (recs ≠ [])
  let s := s.modCore (fun k => { k with
    queues := vmod k.queues q (fun u => { u with
      cmds := u.cmds.filter (fun x => x.num ≠ c.num),
      done := u.done.filter (fun d => decide (u.age d.num < 64)) ++ [{ num := c.num, arv := arv, recs := recs, result := c.result }] }),
    ranges := k.ranges.filter (fun r => !(r.q == q && r.num == c.num)) })
  (s.modAllBanks (fun _ _ x => f x)).modPkg (fun p => { p with parkedCtx := p.parkedCtx.map (fun x => { x with ctx := f x.ctx }) })

/-- The item record of a failure met in this package (R341). -/
def State.failure (s : State) (reason : Nat) : DWord := dw (reason + s.die % 8 * 2 ^ 24 + s.pkgId % 2 ^ 17 * 2 ^ 30)

/-- Bytes that an engine writes to a page of which every die may hold a replica (R234); each line is a counted request (R252). -/
def State.writePage (sc : Scope) (l : Loc) (attr : BitVec 10) (bs : List Byte) (s : State) : State :=
  let s := (s.l2Reqs l bs.length (attrHint attr)).sendWrite none sc (placed l bs)
  if attrRepl attr then s.modPkg (fun p => { p with replicas := p.replicas ++ replicaWrites s.die (placed l bs) }) else s

/-- Records first to last of a command's report area written, if it has one (R341); the command waits for them. -/
def State.writeRecords (q : Fin 2) (c : Cmd) (recs : Table DWord) (first n : Nat) (s : State) : State :=
  match c.report with
  | none => s
  | some (l, attr) =>
    (s.writePage c.scope (l + 8 * first) attr ((List.range n).flatMap (fun i => leBytes 8 (tget 0 recs (first + i)).toNat))).claimReqs q c.num
      reportItem s.pkg.tags
/-- Every record of it. -/
def State.writeReport (q : Fin 2) (c : Cmd) (recs : Table DWord) (s : State) : State :=
  s.writeRecords q c recs 0 (c.items + (if c.bar.isSome then 1 else 0))

/-- The held commands of the running context finish, every item failed with reason 0x01, with no release and no arrival (R342,
R438). -/
def State.cancelHeld (s : State) : State :=
  let one (s : State) (p : Fin 2 × Cmd) : State :=
    let recs := (List.range (p.2.items + (if p.2.bar.isSome then 1 else 0))).map (fun i => (i, s.failure 1))
    (s.writeReport p.1 p.2 recs).retire p.1 p.2 0 recs
  let mine (q : Fin 2) : List (Fin 2 × Cmd) :=
    ((s.core.queues.get q).cmds.filter (fun c => c.held && c.owner == s.ctx.ident)).map (fun c => (q, c))
  (mine 0 ++ mine 1).foldl one s

/-- Whether commands submitted in the open segment that write only inside the core are unfinished (R438). -/
def State.segBusy (s : State) : Bool :=
  s.core.queues.toList.any (fun q => q.cmds.any (fun c => c.inSeg && !c.held && c.owner == s.ctx.ident))

/-- The rewind (R438): its cycles are running cycles of no context. -/
def State.rewindNow (cause : Nat) (g : Segment) (s : State) : State :=
  let q := s.sq.man
  let s := s.cancelHeld.leaveIssue
  let s := g.log.foldl (fun s u => s.undo u) s
  let bin (b : MReg) (k : Bin) : Bin := let o := g.bins.get b; { k with head := o.head, tail := o.tail, occ := o.occ }
  let s := s.modMyMat (fun m => { m with bins := Vector.ofFn (fun i => bin i (m.bins.get i)) })
  let s := s.modCtx (fun c => { c with
    csrs := { g.csrs with ilkcyc := c.csrs.ilkcyc, instret := c.csrs.instret },
    loops := g.loops, pc := g.markPc, rc := g.markRc, nextIssue := g.markRc,
    flights := c.flights.filter (fun f => decide (f.seq < g.markSeq)) ++ g.landed,
    seg := none, rewound := some (g.markRc, g.markPc), resv := none })
  let s := s.newPath g.markRc false
  let n := 16 + (g.charge + 4095) / 4096
  let s := s.modSq (fun p => { p with cycle := p.cycle + dw n, now := p.now + n * s.cycleUnits,
                                      man := { q with live := q.live.filter (fun e => seqLe e.seq g.seqMark) } })
  (s.bump (s.coreReg s.core.active 0xB0) 1).relEvent s.dieFin 0xAA (dw cause) g.markPc

/-- The state at fault is in the log, so it was written since the mark (R437). -/
def Segment.logged (g : Segment) : Option Undo → Bool
  | none => true
  | some u => g.log.any u.same

/-! ## A trap of a bundle, by its kind (R422) -/

/-- A raised cause is taken: a page-fault switch, a rewind, or trap entry. `next` is the address of the bundle after. -/
def State.raise (r : Raise) (pc next : DWord) (s : State) : State :=
  let c := s.ctx
  match r.fault with
  | some k =>
    if (r.cause = 0x60 ∨ r.cause = 0x68) ∧ !c.csrs.prv ∧ s.core.fsw.get (halfIdx s.core.active) then
      s.faultSwitch r.cause r.tval k pc
    else s.takeTrap r.cause r.tval pc next
  | none =>
    if r.isW then
      match c.seg with
      | none => s.takeTrap r.cause r.tval pc next
      | some g =>
        let drop (s : State) : State := (s.cancelHeld).modCtx (fun c => { c with seg := some { g with stores := [], events := [] } })
        match g.why with
        | some w => (drop s).takeTrap 0xA8 (dw (r.cause + 256 * w)) pc next
        | none =>
          if g.again then (drop s).takeTrap 0xA9 (dw r.cause) pc next
          else if g.logged r.state then s.holdFor (.rewind r.cause)
          else s.takeTrap r.cause r.tval pc next
    else s.takeTrap r.cause r.tval pc next

/-! ## The end of a bundle (R16, R31, R34, R35, R112) -/

/-- How control leaves a bundle. -/
inductive Ctl where
  | seq
  /-- A direct branch that is not taken. -/
  | untaken
  | jump (target : DWord) (indirect : Bool)
  /-- LOOP: a new frame. -/
  | enter (f : LoopFrame)
  /-- LOOP with count 0: past the loop's end. -/
  | skip (target : DWord)
  /-- The effects of the bundle say where the context goes on. -/
  | own
  deriving DecidableEq, Repr

/-- The loop end test at a bundle not followed by a taken transfer (R34): the frames left, the loop-back target if any, and whether
the looping frame was the innermost one before. -/
def loopEnd (pc : DWord) : List LoopFrame → Bool → List LoopFrame × Option (DWord × Bool)
  | [], _ => ([], none)
  | f :: r, inner =>
    if f.stop = pc then
      if f.count = 1 then loopEnd pc r false
      else ({ f with count := f.count - 1 } :: r, some (f.start, inner))
    else (f :: r, none)

/-- Frames whose end sequential issue passes are popped (R112). -/
def popPassed (pc next : DWord) : List LoopFrame → List LoopFrame
  | [] => []
  | f :: r => if pc ≤ f.stop ∧ f.stop < next then popPassed pc next r else f :: r

end Sys2Proof.Machine
end

