-- ==== Sys2Proof/Machine/Issue.lean ====
section
/-! DEFINITION. The issue of a bundle (R16 to R41, R73 to R80, R126, R158, R202, R337, R343): what one slot word asks for (a plan),
the one issue-check stage over all slots, the waits, the commit in the order of the phases, and where the context goes on. -/

namespace Sys2Proof.Machine

/-! ## What a slot word sees and asks for -/

/-- What a slot word sees of its bundle or shelf entry. -/
structure Env where
  slot : Slot
  word : Nat
  /-- The lane group of a shelf entry's word. -/
  shelf : Option Group
  /-- Literal base (R79). -/
  lb : Nat
  /-- arga and argb of an indexed bundle (R175). -/
  args : Option (DWord × DWord)
  /-- The class latency of a shelf entry (R173). -/
  cls : Option Nat
  pc : DWord
  hdr : Header
  pool : List Nat
  deriving DecidableEq, Repr

def Env.scope (e : Env) : Scope := Scope.ofCode e.hdr.scope
/-- The address of the bundle after. -/
def Env.next (e : Env) : DWord := e.pc + dw (16 * (e.hdr.len + 1))
/-- The latency of a result: the operation's own, or the entry's class latency (R173). -/
def Env.lat (e : Env) (n : Nat) : Nat := e.cls.getD n
/-- The word form of tval (R93). -/
def Env.form (e : Env) : DWord := wordForm e.slot e.shelf (reportWord e.slot e.word)
/-- A trap that reports its word. -/
def Env.bad (e : Env) (cause : Nat) : Raise := { cause := cause, tval := e.form }
/-- A matrix trap (R221): the word form with a detail. -/
def Env.detail (e : Env) (cause d : Nat) : Raise := { cause := cause, tval := e.form + dw (d * 2 ^ 40) }

/-- The phases of a commit, in their order: the scalar unit's memory accesses (R263), pushes, pops (R202), register results with
lane stores and handle accesses (R158, R263), submissions, the immediate commands that follow them (R373), and control. -/
inductive Phase where
  | smem | push | pop | main | submit | imm | control
  deriving DecidableEq, Repr

/-- What one slot word asks for, computed from the state in which its bundle stands at issue. -/
structure Plan where
  raises : List Raise := []
  /-- Tracked operands, in the order VA, VB, VC and then the mask (R27). -/
  reads : List Res := []
  /-- Tracked destinations with the latency of each. -/
  writes : List (Res × Nat) := []
  /-- Blocks that its write clears besides those it names (R204, R209). -/
  clears : List (Res × Nat) := []
  /-- Rows of latches that a beat's window takes (R198, R207). -/
  window : List (Fin 4 × Fin 8) := []
  /-- Destinations named by a word that writes and tracks nothing (R8, R187). -/
  names : List Res := []
  /-- Accumulator banks accessed (R206). -/
  banks : List (Fin 4) := []
  /-- Waits of the instruction's own. -/
  holds : List Hold := []
  /-- What the bundle asks of another agent while it waits for one of them. -/
  ask : Option (State → State) := none
  pushes : List (MReg × Nat) := []
  pops : List (MReg × Nat) := []
  /-- Core SRAM bytes [lo, hi) touched, and whether they are stored to (R344). -/
  touches : List (Nat × Nat × Bool) := []
  /-- Landing buffer entries (R256). -/
  landings : Nat := 0
  /-- A ticketed command, with the range entries it takes (R337, R343). -/
  submits : Option Nat := none
  /-- A scalar memory access, a handle access or a copy command (R278). -/
  mem : Bool := false
  /-- An access to matrix-side state (R120, R411). -/
  mat : Bool := false
  /-- The bundle closes the open segment and opens one at itself (R433). -/
  closes : Bool := false
  effs : List (Phase × (State → State)) := []
  ctl : Ctl := .seq
  /-- Stall beyond the header's WAIT (R111). -/
  stall : Nat := 0

/-- A slot word of the bundle with its plan; for V and M words, in one lane group. -/
structure Part where
  env : Env
  group : Option Group
  plan : Plan

/-- The meaning of a slot word: acting once, or in each enabled lane group (R76, R77). -/
inductive Meaning where
  | once (f : Env → State → Plan)
  | lanes (f : Env → Group → State → Plan)

/-- A plan that only raises. -/
def Plan.raising (rs : List Raise) : Plan := { raises := rs }

/-- What the scoreboard sees a word write. -/
def Plan.tracked (p : Plan) : List (Res × Nat) := p.writes ++ p.clears
/-- The destinations that a word names. -/
def Plan.dests (p : Plan) : List Res := p.writes.map (·.1) ++ p.names
/-- A plan that only raises, of a word that names its destinations all the same (R8). -/
def Plan.barred (p : Plan) (rs : List Raise) : Plan := { raises := rs, names := p.dests }

/-- An instruction marked S in R91 traps with 0x0C at user level (R101). -/
def supervisor (f : Env → State → Plan) : Env → State → Plan := fun e s =>
  if s.ctx.csrs.prv then f e s else (f e s).barred [e.bad 0x0C]

/-! ## Groups (R76 to R78, R190) -/

/-- The lane groups of the issuing core or half-core. -/
def State.ownGroup (s : State) (g : Group) : Bool := !s.core.split || (decide (g.val < 4) == (s.core.active == .a))
/-- The enabled groups of a header, ascending. -/
def State.groups (s : State) (h : Header) : List Group := (List.finRange 8).filter (fun g => h.grp.getLsbD g.val && s.ownGroup g)
/-- Cause 0x0E: in split mode, a GRP bit of the other half-core (R78). -/
def State.grpTraps (s : State) (c : Cur) : List Raise :=
  let bits := (List.finRange 8).filter (fun g => c.hdr.grp.getLsbD g.val && !s.ownGroup g)
  if s.core.split ∧ c.slots.any (fun p => p.1 == .v0 || p.1 == .v1 || p.1 == .m) ∧ bits ≠ [] then
    [{ cause := 0x0E, tval := dw ((bits.map (fun g => 2 ^ g.val)).sum) }]
  else []

/-! ## Two slots with one destination, and two accesses to one bank (R8, R206) -/

/-- The accumulator blocks that a word names, to read or to write. -/
def Plan.blocks (p : Plan) : List Res :=
  (p.reads ++ p.dests).filter (fun r => match r with | .acc .. => true | _ => false)
/-- Two words that name one destination register, or one accumulator block (R8). -/
def Plan.clashes (p q : Plan) : Bool :=
  q.dests.any (fun w => p.dests.contains w) || q.blocks.any (fun w => p.blocks.contains w)

/-- Cause 0x05 of two parts, reported at the later slot. Two that name x0 are no duplicates, for x0 is no destination (log 83). -/
def dupTraps : List Part → List Raise
  | [] => []
  | p :: r =>
    (r.filterMap (fun q => if p.plan.clashes q.plan then some (q.env.bad 0x05) else none)) ++ dupTraps r

/-- Cause 0x40 of two parts of one group, reported at the later slot. -/
def bankTraps : List Part → List Raise
  | [] => []
  | p :: r =>
    (r.filterMap (fun q =>
      if q.group = p.group then (q.plan.banks.find? (fun b => p.plan.banks.contains b)).map (fun b => q.env.detail 0x40 b.val)
      else none)) ++ bankTraps r

def Cur.env (c : Cur) (sl : Slot) (w : Nat) : Env :=
  { slot := sl, word := w, shelf := none, lb := 0, args := none, cls := none, pc := c.pc, hdr := c.hdr, pool := c.pool }

/-- A lane group whose registers, banks and latches all carry one tag. -/
def State.tagged (g : Group) (t : Tag) (s : State) : State :=
  (s.modRegs (fun r => { r with v := vmod r.v g (fun w => w.map (fun x => { x with tag := t })) })).modMat (fun m =>
    { m with acc := vmod m.acc g (fun w => w.map (fun b => { b with tag := t })),
             lat := vmod m.lat g (fun w => w.map (fun l => { l with tag := t })) })

/-- What decoding alone raises of lane words (R76, R80, R206): the causes that they raise whatever their operands' tags. -/
def decodeRaises (parts : State → List Part) (s : State) : List Raise :=
  let at_ (t : Tag) : List Raise :=
    let ps := parts (s.tagged 0 t)
    ps.flatMap (fun p => p.plan.raises.filter (fun r => decide (r.cause < 0x10))) ++ dupTraps ps ++ bankTraps ps
  let ts : List Tag := [.raw, .int16, .int8, .uint8, .int4, .bf16, .fp16, .fp64, .e4m3, .e5m2, .fp4b, .int32]
  (at_ .fp32).filter (fun r => ts.all (fun t => (at_ t).contains r))

/-- The state as the copy words of a bundle read it: with what its scalar and lane words, where they raise nothing, store to memory
before (R263). -/
def State.afterStores (s : State) : List Part → State
  | [] => s
  | ps =>
    if ps.any (fun p => !p.plan.raises.isEmpty) then s
    else
      let run (ph : Phase) (s : State) : State := (ps.flatMap (fun p => p.plan.effs)).foldl (fun s e => if e.1 = ph then e.2 s else s) s
      let t := run .main (run .smem s)
      ((s.modPkg (fun p => { p with hbm := t.pkg.hbm, cellar := t.pkg.cellar, poison := t.pkg.poison })).modCore (fun k =>
        { k with cache := t.core.cache })).modCtx (fun c => { c with seg := t.ctx.seg })

/-- The parts of the words of a direct bundle, in the order in which causes are reported: the scalar word, then the lane words by
group, then the copy words. -/
def directParts (c : Cur) (ws : List (Slot × Nat × Meaning)) (s : State) : List Part :=
  let once (s : State) (p : Slot × Nat × Meaning) : List Part :=
    match p.2.2 with
    | .once f => [{ env := c.env p.1 p.2.1, group := none, plan := f (c.env p.1 p.2.1) s }]
    | .lanes _ => []
  let lanesIn (s : State) (g : Group) (p : Slot × Nat × Meaning) : List Part :=
    match p.2.2 with
    | .once _ => []
    | .lanes f => [{ env := c.env p.1 p.2.1, group := some g, plan := f (c.env p.1 p.2.1) g s }]
  let lanes := lanesIn s
  let isS (p : Slot × Nat × Meaning) : Bool := p.1 == .s
  -- with no group enabled the words are still decoded (R77, R80)
  let idle : List Part := match ws.flatMap (lanes 0) with
    | [] => []
    | p :: _ => [{ p with group := none, plan := Plan.raising (decodeRaises (fun s => ws.flatMap (lanesIn s 0)) s) }]
  let first : List Part := ((ws.filter isS).flatMap (once s)) ++
    (if s.groups c.hdr = [] then idle else (s.groups c.hdr).flatMap (fun g => ws.flatMap (lanes g)))
  first ++ ((ws.filter (fun p => !isS p)).flatMap (once (s.afterStores first)))

/-! ## The scoreboard (R23 to R28, R204) -/

/-- Landing cycles of the writes in flight to a register or block. -/
def Ctx.pendingOn (c : Ctx) (r : Res) : List Nat := (c.flights.filter (fun f => f.w.res.contains r)).map (·.land)

def maxOf (l : List Nat) : Nat := l.foldl max 0

/-- In mode interlock, the first running cycle in which a plan's reads and writes are clear (R28). -/
def Plan.clearAt (p : Plan) (c : Ctx) : Nat :=
  max (maxOf (p.reads.flatMap c.pendingOn))
    (maxOf (p.tracked.flatMap (fun w => (c.pendingOn w.1).map (fun l => l + 1 - w.2))))

/-- The tval of cause 0x10 (R27). -/
def sbTval (left : Nat) (sl : Slot) (write : Bool) (r : Res) : DWord :=
  dw (min left 255 * 2 ^ 16 + sl.code * 2 ^ 9 + (if write then 2 ^ 8 else 0) + r.num)

/-- In mode trap, the causes 0x10 of a part, each with its place in the order of R27. -/
def Part.sbTraps (c : Ctx) (p : Part) : List (Nat × Raise) :=
  let key (i : Nat) : Nat := p.env.slot.code * 4096 + i * 16 + (match p.group with | some g => g.val | none => 0)
  let rd := (p.plan.reads.zipIdx).filterMap (fun (r, i) =>
    match c.pendingOn r with
    | [] => none
    | l => some (key i, { cause := 0x10, tval := sbTval (maxOf l - c.rc) p.env.slot false r : Raise }))
  let wr := (p.plan.tracked.zipIdx).filterMap (fun (w, i) =>
    match (c.pendingOn w.1).filter (fun l => decide (c.rc + w.2 ≤ l)) with
    | [] => none
    | l => some (key (100 + i), { cause := 0x10, tval := sbTval (maxOf l - c.rc) p.env.slot true w.1 : Raise }))
  rd ++ wr

/-- The entry with the least key, the first among equals. -/
def leastKey : List (Nat × Raise) → Option (Nat × Raise)
  | [] => none
  | x :: r => match leastKey r with
    | some y => some (if x.1 ≤ y.1 then x else y)
    | none => some x

/-- In mode off, a write to an accumulator block that would land before an earlier one (R204). -/
def Part.overtakes (c : Ctx) (p : Part) : List Raise :=
  p.plan.tracked.filterMap (fun w => match w.1 with
    | .acc _ bank blk =>
      if (c.pendingOn w.1).any (fun l => decide (c.rc + w.2 < l)) then some (p.env.detail 0x44 (bank.val * 4 + blk.val)) else none
    | _ => none)

/-- What the scoreboard raises at issue. -/
def sbRaises (c : Ctx) (ps : List Part) : List Raise :=
  if c.csrs.sbmode = 0 then ps.flatMap (Part.overtakes c)
  else if c.csrs.sbmode = 1 then (match leastKey (ps.flatMap (Part.sbTraps c)) with | some x => [x.2] | none => [])
  else []

/-! ## Waits -/

/-- The copy queue of a copy slot (R76, R190). -/
def State.queueOf (s : State) (sl : Slot) : Fin 2 :=
  if s.core.split then halfIdx s.core.active else if sl = .c1 then 1 else 0

/-- Bytes that the parts push to and pop from a bin. -/
def pushBytes (b : MReg) (ps : List Part) : Nat := (((ps.flatMap (·.plan.pushes)).filter (·.1 == b)).map (·.2)).sum
def popBytes (b : MReg) (ps : List Part) : Nat := (((ps.flatMap (·.plan.pops)).filter (·.1 == b)).map (·.2)).sum

def Bin.cap (b : Bin) : Nat := b.nbank * 65536
/-- The room a push lacks; bytes freed by pops of the open segment are no room (R434). -/
def State.roomLack (s : State) (b : MReg) (ps : List Part) : Nat :=
  let k := s.core.mat.bins.get b
  let freed := match s.ctx.seg with | some g => g.freed.get b | none => 0
  if pushBytes b ps = 0 then 0 else k.occ + freed + pushBytes b ps - k.cap
/-- The bytes a pop lacks once the pushes are made (R202). -/
def State.bytesLack (s : State) (b : MReg) (ps : List Part) : Nat :=
  popBytes b ps - ((s.core.mat.bins.get b).occ + pushBytes b ps)

def allBins : List MReg := List.finRange 8

/-- The causes of the bin watchdog (R202, R221). The spec does not say which bin tval describes where several lack bytes or room; the
model's is the lowest-numbered one (DESIGN CHOICE, log 92). -/
def State.watchdogRaises (s : State) (ps : List Part) : List Raise :=
  (allBins.filterMap (fun b => let n := s.bytesLack b ps
    if n = 0 then none else some { cause := 0x54, tval := dw (b.val + n % 2 ^ 24 * 2 ^ 8) })) ++
  (allBins.filterMap (fun b => let n := s.roomLack b ps
    if n = 0 then none else some { cause := 0x55, tval := dw (b.val + n % 2 ^ 24 * 2 ^ 8) }))

/-- Unfinished commands of a queue, and range entries in use by the core or half-core. -/
def State.queueUse (s : State) (q : Fin 2) : Nat := (s.core.queues.get q).cmds.length
def State.ownRanges (s : State) : List Range :=
  s.core.ranges.filter (fun r => !s.core.split || r.half == s.core.active)

/-- Whether a lane access conflicts with a range entry (R344). -/
def Range.conflicts (r : Range) (t : Nat × Nat × Bool) : Bool :=
  decide (t.1 < r.hi ∧ r.lo < t.2.1) && (t.2.2 || r.write)

/-- Whether the engine has an operation with matrix-side parts in progress (R120). -/
def Seq.engMatrix (q : Seq) : Bool := match q.engOp with | some o => o.parts &&& 0x78 != 0 | none => false

/-- The context whose matrix-side state the core holds is another one (R411). -/
def State.matHeldByOther (s : State) : Bool :=
  match s.core.matHolder.get (halfIdx s.core.active) with
  | some b => b != s.sq.running
  | none => s.ctx.matrixSide

/-- The first wait with the clock frozen that a bundle meets (R17). -/
def State.holdOf (s : State) (cur : Cur) (ps : List Part) : Option Hold :=
  let mat := ps.any (·.plan.mat) || cur.hdr.indexed
  let q (k : Fin 2) : Nat := (ps.filter (fun p => p.plan.submits.isSome && s.queueOf p.env.slot == k)).length
  let ent := (ps.map (fun p => p.plan.submits.getD 0)).sum
  if mat ∧ s.sq.engMatrix then some .engine
  else if mat ∧ s.matHeldByOther then some .matrixSwitch
  else if ps.any (·.plan.mem) ∧ s.sq.man.service.isSome then some .service
  else match (ps.flatMap (·.plan.holds)).head? with
  | some h => some h
  | none =>
    if (ps.flatMap (·.plan.touches)).any (fun t => s.ownRanges.any (fun r => r.conflicts t)) then some .ranges
    else if decide (q 0 ≠ 0 ∧ 32 < s.queueUse 0 + q 0) || decide (q 1 ≠ 0 ∧ 32 < s.queueUse 1 + q 1) then some .queue
    else if ent ≠ 0 ∧ s.ownRanges.length + ent > (if s.core.split then 32 else 64) then some .ranges
    else if allBins.any (fun b => s.roomLack b ps != 0) then some (.bins false)
    else if allBins.any (fun b => s.bytesLack b ps != 0) then some (.bins true)
    else none

/-! ## Landing buffer entries (R256) -/

/-- Landing loads hold entries; VAMOADD is none (R255). -/
def Write.isLanding : Write → Bool
  | .landing _ _ _ _ _ amo => !amo
  | _ => false

/-- The running cycle from which `need` entries are free: the one at which enough outstanding landing loads have landed. -/
def landingAt (cap need : Nat) : List Nat → Nat
  | [] => 0
  | l :: r =>
    -- of the outstanding landings, at most cap − need may land at or after the bundle's cycle
    if (l :: r).length + need ≤ cap then 0 else max l (landingAt cap need r)
/-- Landing cycles in rising order. -/
def insertSorted (n : Nat) : List Nat → List Nat
  | [] => [n]
  | m :: r => if n ≤ m then n :: m :: r else m :: insertSorted n r
def sortNat (l : List Nat) : List Nat := l.foldl (fun r n => insertSorted n r) []

/-- The entries that the banks' stopped code holds: parked sets, and the bank that does not run (log 48). -/
def State.landingsHeld (s : State) : Nat :=
  let n (l : List Flight) : Nat := (l.filter (fun f => f.w.isLanding)).length
  let parked (c : Ctx) : Nat := (c.parked.map (fun p => n p.writes)).sum
  let other := s.sq.banks.get (otherBank s.sq.running)
  parked s.ctx + parked other + n other.flights

/-- The first running cycle in which the entries that a bundle needs are free. -/
def State.landingWait (s : State) (ps : List Part) : Nat :=
  let need := (ps.map (·.plan.landings)).sum
  let cap := if s.core.split then 128 else 256
  let mine := sortNat ((s.ctx.flights.filter (fun f => f.w.isLanding)).map (·.land))
  if need = 0 then 0
  else if mine = [] ∧ s.landingsHeld + need > cap then s.ctx.rc + 1
  else landingAt (cap - s.landingsHeld) need mine

/-! ## Segments at issue (R433, R435) -/

def State.atticBanks (s : State) : List Nat :=
  let w := s.core.atticcfg.toNat
  let (b, n) := if s.core.split ∧ s.core.active = .b then (fld w 17 6, fld w 23 5) else (fld w 0 6, fld w 6 6)
  (List.range n).map (· + b)
/-- Whether a core SRAM bank lies in the attic. -/
def State.inAttic (s : State) (bank : Nat) : Bool := s.atticBanks.contains bank

/-- Whether a bank belongs to the other half-core (R190). -/
def State.foreignBank (s : State) (b : Nat) : Bool := s.core.split && (decide (b < 32) != (s.core.active == .a))

/-- Whether segbase allows a segment (R433). -/
def State.segmentsOn (s : State) : Bool :=
  let c := s.ctx.csrs
  let n := c.ulen.toNat * 1024
  n != 0 && decide (c.uoff.toNat + n ≤ 2 ^ 22) &&
    (List.range ((c.uoff.toNat + n - 1) / 65536 - c.uoff.toNat / 65536 + 1)).all (fun i => s.inAttic (c.uoff.toNat / 65536 + i))

/-- A segment opens at the bundle at pc; the mark charges 256 bytes (R436). -/
def State.openSegment (pc : DWord) (again : Bool) (s : State) : State :=
  s.modCtx (fun c =>
    let g : Segment := { markPc := pc, markRc := c.rc, markSeq := c.seqNo + 1, csrs := c.csrs, loops := c.loops,
                         bins := s.core.mat.bins, log := [], landed := [], charge := 0, why := none, stores := [], bufBytes := 0,
                         events := [], freed := Vector.replicate 8 0, again := again, seqMark := s.sq.man.count }
    { c with seg := some (g.chargeLog 256 c.csrs.ulen.toNat), rewound := none })

/-- What a segment mark or a closing bundle does before it issues (R433). The running cycles of a rendezvous are no part of what tells one
instance of a mark from another. -/
def State.markSegment (pc : DWord) (seg closes : Bool) (s : State) : State :=
  let at_ := s.ctx.rc - (if s.sq.hold = some .rendezvous then s.sq.waited else 0)
  let again := s.ctx.rewound == some (at_, pc) ||
    (match s.ctx.seg with | some g => g.again && g.markPc == pc && g.markRc == at_ | none => false)
  if seg ∨ (closes ∧ (s.ctx.seg.isSome ∨ s.ctx.rewound.isSome)) then
    let s := s.closeSegment
    if s.segmentsOn then s.openSegment pc again else s
  else s

/-! ## Committing -/

def Part.run (ph : Phase) (ps : List Part) (s : State) : State :=
  (ps.flatMap (fun p => p.plan.effs)).foldl (fun s e => if e.1 = ph then e.2 s else s) s

/-- The effects of a bundle in the order of the phases. -/
def commitEffects (ps : List Part) (s : State) : State :=
  ([.smem, .push, .pop, .main, .submit, .imm, .control] : List Phase).foldl (fun s ph => Part.run ph ps s) s

/-- Matrix-side state as a new context finds it (R194), in the half-core's part or the whole core's. -/
def Matrix.take (split : Bool) (h : Half) (new old : Matrix) : Matrix :=
  if !split then { new with swap := new.swap }
  else
    let mine (n : Nat) : Bool := decide (n < 4) == (h == .a)
    let pick {α : Type} (a b : Vector α 8) : Vector α 8 := Vector.ofFn (fun i => if mine i.val then a.get i else b.get i)
    let two {α : Type} (a b : Vector α 2) : Vector α 2 := Vector.ofFn (fun i => if i = halfIdx h then a.get i else b.get i)
    { acc := pick new.acc old.acc, lat := pick new.lat old.lat, active := pick new.active old.active,
      standby := pick new.standby old.standby, records := two new.records old.records, swap := two new.swap old.swap,
      bins := pick new.bins old.bins }

/-- The state as the running context's bundle sees it: with the matrix-side state of this context, wherever that is held (R411). -/
def State.matrixView (s : State) : State :=
  if s.core.matHolder.get (halfIdx s.core.active) = some s.sq.running then s
  else
    let m := match s.core.matSaved.find? (fun x => x.1 == s.core.active && x.2.1 == s.sq.running) with
      | some x => x.2.2.mat
      | none => Matrix.reset
    s.modCore (fun k => { k with mat := Matrix.take k.split k.active m k.mat })

/-- A context's first access to matrix-side state sets its flag (R411); where the core holds none, it starts from R194. -/
def State.ownMatrix (s : State) : State :=
  let h := halfIdx s.core.active
  let s' := if s.ctx.matrixSide then s else
    s.modCore (fun c => { c with mat := Matrix.take c.split c.active Matrix.reset c.mat })
  (s'.modCore (fun c => { c with matHolder := vset c.matHolder h (some s.sq.running) })).modCtx (fun c => { c with matrixSide := true })

/-- A taken transfer of the bundle at pc (R30, R31): the next bundle issues at the later of the cycle that the bundle's own stall
allows and the one of the penalty, and the buffer goes over to the target's path. -/
def State.jumpTo (pc target : DWord) (indirect : Bool) (loops : List LoopFrame) (base : Nat) (s : State) : State :=
  let t := s.ctx.rc
  let n := max base (t + 1 + s.penalty indirect pc target)
  let fetched := match s.sq.ibuf.alt with | some a => !indirect && a.pc == pc && a.target == target | none => false
  let s := s.modCtx (fun c => { c with pc := target, loops := loops, nextIssue := n })
  let s := s.modSq (fun q => { q with ibuf := { q.ibuf with resolved := t } })
  if !indirect && !fetched && s.onPath target then s.keepPath else s.newPath n fetched

/-- Where the context goes on after a committed bundle, with the loop end tests (R16, R31, R33 to R35, R111, R112). -/
def State.goOn (cur : Cur) (ctl : Ctl) (stall : Nat) (s : State) : State :=
  let c := s.ctx
  let base := c.rc + 1 + cur.hdr.wait + stall
  let go (pc : DWord) (loops : List LoopFrame) (next : Nat) (s : State) : State :=
    s.modCtx (fun c => { c with pc := pc, loops := loops, nextIssue := next })
  let (ls, back) := loopEnd cur.pc c.loops true
  -- a loop-back of the innermost frame never misses; another one costs what a taken direct branch costs (R34)
  let loopBack (st : DWord) (inner : Bool) (frames : List LoopFrame) (s : State) : State :=
    if inner then go st (popOutside st frames) base s else s.jumpTo cur.pc st false (popOutside st frames) base
  match ctl with
  | .own => s
  | .jump target ind => s.jumpTo cur.pc target ind (popOutside target c.loops) base
  | .seq => match back with
    | some (st, inner) => loopBack st inner ls s
    | none => go cur.next (popPassed cur.pc cur.next ls) base s
  | .untaken =>
    let done (s : State) : State := (s.modSq (fun q => { q with ibuf := { q.ibuf with resolved := c.rc } })).keepPath
    match back with
    | some (st, inner) => done (loopBack st inner ls s)
    | none => done (go cur.next (popPassed cur.pc cur.next ls) (max base (c.rc + 1 + s.fallPenalty cur.next)) s)
  | .enter f => match back with
    | some (st, inner) => loopBack st inner (f :: ls) s
    | none => go cur.next (f :: popPassed cur.pc cur.next ls) base s
  | .skip target => match back with
    | some (st, inner) => loopBack st inner ls s
    | none => s.jumpTo cur.pc target false (popPassed cur.pc target ls) base

/-- The plan whose control the bundle takes: the scalar slot's. -/
def ctlOf (ps : List Part) : Ctl × Nat :=
  match ps.find? (fun p => p.env.slot == .s) with
  | some p => (p.plan.ctl, p.plan.stall)
  | none => (.seq, 0)

/-- What the commit of a bundle does besides its slots' effects: the wait before it is over, instret and the issue order count it, a
rendezvous counts, and the context goes on. -/
def State.advance (cur : Cur) (rdv : Bool) (ctl : Ctl) (stall : Nat) (s : State) : State :=
  let s := s.leaveIssue
  let s := if rdv then s.modCsrs (fun c => { c with rdvCount := c.rdvCount + 1 }) else s
  let s := s.modCsrs (fun c => { c with instret := c.instret + 1 })
  (s.goOn cur ctl stall).modCtx (fun c => { c with seqNo := c.seqNo + 1 })

/-- A bundle commits. -/
def State.commit (cur : Cur) (ps : List Part) (rdv : Bool) (s : State) : State :=
  commitEffects ps (s.advance cur rdv (ctlOf ps).1 (ctlOf ps).2)

/-! ## Issue -/

/-- Running cycles of a wait that the scoreboard or the landing buffer imposes (R28, R256). -/
def State.waitUntil (t : Nat) (s : State) : State :=
  s.modCtx (fun c => { c with nextIssue := t, csrs := { c.csrs with ilkcyc := c.csrs.ilkcyc + dw (t - c.rc) } })

/-- Whether a bundle waits at a rendezvous (R195). -/
def State.meets (s : State) (cur : Cur) : Bool :=
  cur.hdr.rdv && s.ctx.csrs.rdvEn && decide (s.ctx.csrs.rdvSize.toNat > 1)

/-- Whether the bundle comes upon the matrix-side state now, free of the engine and of another context. -/
def State.takesMatrix (s : State) (cur : Cur) (ps : List Part) : Bool :=
  (ps.any (·.plan.mat) || cur.hdr.indexed) && !s.sq.engMatrix && !s.matHeldByOther

/-- All that a bundle raises in its issue-check stage. -/
def State.raises (s : State) (cur : Cur) (ps : List Part) : List Raise :=
  cur.traps.map Raise.ofTrap ++ s.grpTraps cur ++ ps.flatMap (·.plan.raises) ++ dupTraps ps ++ bankTraps ps ++ sbRaises s.ctx ps

/-- The first running cycle in which a bundle may issue: interlock and landing buffer together (R16). -/
def State.readyAt (s : State) (ps : List Part) : Nat :=
  max (if s.ctx.csrs.sbmode = 2 then maxOf (ps.map (fun p => p.plan.clearAt s.ctx)) else 0) (s.landingWait ps)

/-- A cycle of a wait passes: frozen, or running at a rendezvous. Those of a service count in VSTCYC (R278). -/
def State.waitCycle (h : Hold) (s : State) : State :=
  let s := s.holdFor h
  if h = .rendezvous then
    ((s.tick 1).modSq (fun q => { q with waited := q.waited + 1 })).modCtx (fun c => { c with rc := c.rc + 1, nextIssue := c.rc + 1 })
  else (if h = .service then s.bump (devCore s.coreId.toNat 0x50) 1 else s).frozen 1

/-- What a bundle waits for before its operands are judged: the end of the fill of a latch that it names (R205), and of an engine
operation on the matrix-side state (R120). -/
def State.judgedLater (s : State) (cur : Cur) (ps : List Part) : Option Hold :=
  if (ps.any (·.plan.mat) || cur.hdr.indexed) && s.sq.engMatrix then some .engine
  else if ps.any (fun p => p.plan.holds.contains .latchFill) then some .latchFill
  else none

/-- The requests of the plans that wait. -/
def askAll (h : Hold) (ps : List Part) (s : State) : State :=
  ps.foldl (fun s p => match p.plan.ask with | some f => if p.plan.holds.contains h then f s else s | none => s) s

/-- The issue of a bundle whose parts are planned, at the context's running cycle. `met` tells that its rendezvous has taken
place. -/
def State.issue (cur : Cur) (ps : List Part) (met : Bool) (s : State) : State :=
  let t := s.readyAt ps
  if s.ctx.rc < t then s.waitUntil t
  else match lowest (s.raises cur ps) with
  | some r => match s.judgedLater cur ps with
    | some h => if 0x20 ≤ r.cause then s.waitCycle h else s.raise r cur.pc cur.next
    | none => s.raise r cur.pc cur.next
  | none =>
    let rdv := s.meets cur
    if rdv ∧ !met ∧ (s.holdOf cur ps).isNone then s.waitCycle .rendezvous
    else
      let s := s.markSegment cur.pc cur.hdr.seg (cur.hdr.rdv || ps.any (·.plan.closes))
      let s := if s.takesMatrix cur ps then s.ownMatrix else s
      match s.holdOf cur ps with
      | some h => (askAll h ps s).waitCycle h
      | none => if rdv ∧ !met then s.waitCycle .rendezvous else s.commit cur ps rdv

/-- A code line of another package is awaited (R258). -/
def Cur.awaitsLine (c : Cur) : Bool := c.slots.isEmpty && c.odd.isEmpty && c.traps.isEmpty && !c.pool.isEmpty && c.hword == 0

/-- The running cycle in which the next bundle stands. -/
def State.atIssue (s : State) : State := s.runTo s.ctx.nextIssue

/-- The issue of the one word that the issue stage holds, with its meaning. -/
def issueWord (m : Meaning) (s : State) : Host.Outcome State Fault Refusal :=
  let s := s.atIssue
  let cur := s.core.cur
  match cur.slots with
  | (sl, w, _) :: _ => .next (s.issue cur (directParts cur [(sl, w, m)] s.matrixView) false)
  | [] => .next (s.issue cur (directParts cur [(.s, 0, m)] s.matrixView) false)

end Sys2Proof.Machine
end

