-- ==== Sys2Proof/Machine/Operands.lean ====
section
/-! DEFINITION. The operand forms of vector words: literals and arguments (R80, R126), tag checks (R44, R45, R125, R130),
activity (R127), and the plans that the vector families share. -/

namespace Sys2Proof.Machine

/-! ## Literals and arguments (R80) -/

/-- Literal k: pool word LB + k, if it is below LIT. -/
def Env.literal (e : Env) (k : Nat) : Option Nat := if e.lb + k < e.hdr.lit then e.pool[e.lb + k]? else none

/-- The raw bits that VB supplies as a scalar source: 64 of them where `wide`, else 32. -/
def Env.scalarSource (e : Env) (vb : Reg) (wide : Bool) : Option Nat :=
  let arg (v : DWord) : Nat := if wide then v.toNat else v.toNat % 2 ^ 32
  if vb.val < 8 then
    if wide then
      match e.literal vb.val, e.literal (vb.val + 1) with
      | some lo, some hi => some (lo + 2 ^ 32 * hi)
      | _, _ => none
    else e.literal vb.val
  else match e.args with
    | some (a, b) => if vb.val = 8 then some (arg a) else if vb.val = 9 then some (arg b) else none
    | none => none

/-- A scalar source in every lane, or in every lane pair; cause 0x09 where the reference is invalid. -/
def Env.scalarLanes (e : Env) (vb : Reg) (wide : Bool) : VData × List Raise :=
  match e.scalarSource vb wide with
  | some v => (if wide then ofPairs (fun _ => v) else ofLanes (fun _ => v), [])
  | none => (0, [e.bad 0x09])

/-! ## Tag checks -/

/-- The tval of causes 0x20 and 0x21 (R130). -/
def Env.tagTval (e : Env) (g : Group) (opnd num : Nat) (t : Tag) : DWord :=
  wordForm e.slot none e.word + dw (g.val * 2 ^ 36 + (if e.shelf.isSome then 2 ^ 39 else 0) + opnd * 2 ^ 40 + t.code * 2 ^ 44
    + num * 2 ^ 48)

/-- A register source: its operand code, its register, the tags accepted, and its place in a set. -/
structure Src where
  opnd : Nat
  reg : Reg
  ok : Tag → Bool
  num : Nat := 0

/-- What the tag of one source raises: 0x21 for POISON (R45), 0x20 outside the accepted set (R44). -/
def Src.raises (e : Env) (g : Group) (s : State) (x : Src) : List Raise :=
  let v := s.ctx.v g x.reg
  if v.tag = .poison then
    [{ cause := 0x21, tval := e.tagTval g x.opnd x.num .poison, state := some (.v g x.reg v) }]
  else if x.ok v.tag then [] else [{ cause := 0x20, tval := e.tagTval g x.opnd x.num v.tag }]

/-- Tags 0 to 12. -/
def anyData (t : Tag) : Bool := t.isData
/-- INT32 or RAW, one element per lane. -/
def laneInt (t : Tag) : Bool := t == .int32 || t == .raw
/-- The tags of the shifts (R134). -/
def shiftTag (t : Tag) : Bool := t.isInt || t == .raw
/-- The tags of the FP instructions (R140), and FP64 in V0 alone (R129). -/
def fpTag (e : Env) (t : Tag) : Bool :=
  t == .fp32 || t == .bf16 || t == .fp16 || (t == .fp64 && e.slot != .v1)

/-! ## Shared plans -/

/-- A register result: bits, which of them are written, tag and flags. -/
structure VOut where
  data : VData
  bits : VData
  tag : Tag
  flags : Byte := 0

/-- The mask register as a tracked operand; m0 is none. -/
def maskRead (g : Group) (m : MReg) : List Res := if m = 0 then [] else [.m g m]

/-- A vector word with sources and one vector destination. -/
def vPlan (e : Env) (g : Group) (s : State) (srcs : List Src) (more : List Raise) (d : Reg) (m : MReg) (lat : Nat)
    (out : Word → VOut) : Plan :=
  { raises := more ++ srcs.flatMap (Src.raises e g s)
    reads := srcs.map (fun x => Res.v g x.reg) ++ maskRead g m
    writes := [(.v g d, e.lat lat)]
    effs := [(.main, fun t =>
      let o := out (s.ctx.m g m)
      t.launch (e.lat lat) (.v g d o.data o.bits o.tag) o.flags)] }

/-- A vector word with a mask destination: the new bits and which of them are written. -/
def mPlan (e : Env) (g : Group) (s : State) (srcs : List Src) (more : List Raise) (reads : List Res) (d : MReg) (m : MReg)
    (lat : Nat) (out : Word → Word × Word × Byte) : Plan :=
  { raises := more ++ srcs.flatMap (Src.raises e g s)
    reads := srcs.map (fun x => Res.v g x.reg) ++ reads ++ maskRead g m
    writes := [(.m g d, e.lat lat)]
    effs := [(.main, fun t =>
      let (b, k, f) := out (s.ctx.m g m)
      t.launch (e.lat lat) (.m g d b k) f)] }

/-- Whether element i of width w is active (R127). -/
def activeElem (w : Nat) (mask : Word) (i : Nat) : Bool := if w = 64 then maskBit mask (2 * i) else maskBit mask (i * w / 32)

/-- An elementwise result of width w. -/
def elementwise (w : Nat) (t : Tag) (mask : Word) (f : Nat → FRes) : VOut :=
  let rs := (List.range (1024 / w)).map (fun i => if activeElem w mask i then f i else (0, 0))
  { data := ofElems w (rs.map (·.1)), bits := activeBits (w == 64) mask, tag := t, flags := orAll rs }

/-- The second operand of an elementwise word: a register of VA's tag, or a scalar source read in VA's tag (R126). Where VA is POISON
the spec does not say whether a VB of another tag differs from it; here it does, and its 0x20 is the lower cause (DESIGN CHOICE,
log 90). -/
def secondOperand (lit : Bool) (e : Env) (g : Group) (s : State) (t : Tag) (b : Reg) : VData × List Src × List Raise :=
  if lit then
    let (v, rs) := e.scalarLanes b (t == .fp64)
    (v, [], rs)
  else ((s.ctx.v g b).data, [{ opnd := 1, reg := b, ok := (· == t) }], [])

/-- One source, elementwise; the result keeps the tag. -/
def map1 (lat : Nat) (ok : Env → Tag → Bool) (f : Tag → Nat → FRes) (d a : Reg) (m : MReg) : Meaning :=
  .lanes fun e g s =>
    let va := s.ctx.v g a
    vPlan e g s [{ opnd := 0, reg := a, ok := ok e }] [] d m lat fun mask =>
      elementwise va.tag.width va.tag mask (fun i => f va.tag (elem va.tag.width va.data i))

/-- Two sources of one tag, elementwise. -/
def map2 (lat : Nat) (ok : Env → Tag → Bool) (lit : Bool) (f : Tag → Nat → Nat → FRes) (d a b : Reg) (m : MReg) : Meaning :=
  .lanes fun e g s =>
    let va := s.ctx.v g a
    let (vb, sb, rs) := secondOperand lit e g s va.tag b
    vPlan e g s ([{ opnd := 0, reg := a, ok := ok e }] ++ sb) rs d m lat fun mask =>
      elementwise va.tag.width va.tag mask (fun i => f va.tag (elem va.tag.width va.data i) (elem va.tag.width vb i))

/-- Three sources of one tag, elementwise. -/
def map3 (lat : Nat) (ok : Env → Tag → Bool) (lit : Bool) (f : Tag → Nat → Nat → Nat → FRes) (d a b c : Reg) (m : MReg) : Meaning :=
  .lanes fun e g s =>
    let va := s.ctx.v g a
    let (vb, sb, rs) := secondOperand lit e g s va.tag b
    let vc := s.ctx.v g c
    vPlan e g s ([{ opnd := 0, reg := a, ok := ok e }] ++ sb ++ [{ opnd := 2, reg := c, ok := (· == va.tag) }]) rs d m lat fun mask =>
      elementwise va.tag.width va.tag mask (fun i =>
        f va.tag (elem va.tag.width va.data i) (elem va.tag.width vb i) (elem va.tag.width vc.data i))

/-- A movement of whole lanes: lane l of the result from `f l`. -/
def lanesOut (t : Tag) (mask : Word) (f : Nat → Nat) : VOut :=
  { data := ofLanes f, bits := activeBits (t == .fp64) mask, tag := t }

end Sys2Proof.Machine
end

