-- ==== Sys2Proof/Machine/Scalar.lean ====
section
/-! DEFINITION. The integer instructions, transfers, WAIT, LOOP, JTAB and traps of the scalar slot (R9, R12, R18, R32 to R36, R86,
R111 to R117), with the results that the RISC-V specification gives (R1, log 5). -/

namespace Sys2Proof.Machine

/-! ## Operands -/

/-- Scalar registers as tracked operands; x0 is never tracked (R23). -/
def xs (rs : List Reg) : List Res := (rs.filter (· ≠ 0)).map Res.x
/-- A scalar register as a tracked destination. -/
def xw (d : Reg) (lat : Nat) : List (Res × Nat) := if d = 0 then [] else [(.x d, lat)]

/-- A word that writes one scalar register from others. -/
def xPlan (reads : List Reg) (d : Reg) (lat : Nat) (v : DWord) : Plan :=
  { reads := xs reads, writes := xw d lat, effs := [(.main, State.launchX lat d v)] }

/-- A 32-bit result sign-extended to 64 bits. -/
def sx32 (v : BitVec 32) : DWord := v.signExtend 64
def lo32 (v : DWord) : BitVec 32 := v.truncate 32

/-! ## Integer operations (RV64I, Zba, Zbb, M) -/

def countBits (n : Nat) (p : Nat → Bool) : Nat := ((List.range n).filter p).length
/-- Zeros above the highest one of n bits. -/
def leadZeros (n v : Nat) : Nat := ((List.range n).find? (fun i => v.testBit (n - 1 - i))).getD n
def trailZeros (n v : Nat) : Nat := ((List.range n).find? (fun i => v.testBit i)).getD n

def aluRR (op : AluRR) (a b : DWord) : DWord :=
  let n := b.toNat % 64
  let m := b.toNat % 32
  let ua := (lo32 a).zeroExtend 64
  match op with
  | .add => a + b
  | .sub => a - b
  | .sll => a <<< n
  | .slt => if a.slt b then 1 else 0
  | .sltu => if a.ult b then 1 else 0
  | .xor => a ^^^ b
  | .srl => a >>> n
  | .sra => a.sshiftRight n
  | .or => a ||| b
  | .and => a &&& b
  | .addw => sx32 (lo32 a + lo32 b)
  | .subw => sx32 (lo32 a - lo32 b)
  | .sllw => sx32 (lo32 a <<< m)
  | .srlw => sx32 (lo32 a >>> m)
  | .sraw => sx32 ((lo32 a).sshiftRight m)
  | .addUw => ua + b
  | .sh1add => (a <<< 1) + b
  | .sh2add => (a <<< 2) + b
  | .sh3add => (a <<< 3) + b
  | .sh1addUw => (ua <<< 1) + b
  | .sh2addUw => (ua <<< 2) + b
  | .sh3addUw => (ua <<< 3) + b
  | .andn => a &&& ~~~b
  | .orn => a ||| ~~~b
  | .xnor => ~~~(a ^^^ b)
  | .max => if a.slt b then b else a
  | .maxu => if a.ult b then b else a
  | .min => if a.slt b then a else b
  | .minu => if a.ult b then a else b
  | .rol => a.rotateLeft n
  | .ror => a.rotateRight n
  | .rolw => sx32 ((lo32 a).rotateLeft m)
  | .rorw => sx32 ((lo32 a).rotateRight m)

def aluRI (op : AluRI) (a : DWord) (i : BitVec 12) : DWord :=
  let b := i.signExtend 64
  match op with
  | .addi => a + b
  | .slti => if a.slt b then 1 else 0
  | .sltiu => if a.ult b then 1 else 0
  | .xori => a ^^^ b
  | .ori => a ||| b
  | .andi => a &&& b
  | .addiw => sx32 (lo32 a + lo32 b)

def aluSh (op : AluSh) (a : DWord) (n : BitVec 6) : DWord :=
  match op with
  | .slli => a <<< n.toNat
  | .srli => a >>> n.toNat
  | .srai => a.sshiftRight n.toNat
  | .slliUw => ((lo32 a).zeroExtend 64) <<< n.toNat
  | .rori => a.rotateRight n.toNat

def aluShW (op : AluShW) (a : DWord) (n : BitVec 5) : DWord :=
  match op with
  | .slliw => sx32 (lo32 a <<< n.toNat)
  | .srliw => sx32 (lo32 a >>> n.toNat)
  | .sraiw => sx32 ((lo32 a).sshiftRight n.toNat)
  | .roriw => sx32 ((lo32 a).rotateRight n.toNat)

def aluUn (op : AluUn) (a : DWord) : DWord :=
  let n := a.toNat
  let w := (lo32 a).toNat
  match op with
  | .clz => dw (leadZeros 64 n)
  | .ctz => dw (trailZeros 64 n)
  | .cpop => dw (countBits 64 n.testBit)
  | .clzw => dw (leadZeros 32 w)
  | .ctzw => dw (trailZeros 32 w)
  | .cpopw => dw (countBits 32 w.testBit)
  | .sextB => (a.truncate 8 : BitVec 8).signExtend 64
  | .sextH => (a.truncate 16 : BitVec 16).signExtend 64
  | .zextH => (a.truncate 16 : BitVec 16).zeroExtend 64
  | .orcB => dw (leNat ((leBytes 8 n).map (fun b => if b = 0 then 0 else 0xFF)))
  | .rev8 => dw (leNat (leBytes 8 n).reverse)

/-- The result of an integer operation, and the registers it reads. -/
def aluResult (op : AluInstr) (pc : DWord) (x : Reg → DWord) : DWord :=
  match op with
  | .rr o _ a b => aluRR o (x a) (x b)
  | .ri o _ a i => aluRI o (x a) i
  | .sh o _ a n => aluSh o (x a) n
  | .shw o _ a n => aluShW o (x a) n
  | .un o _ a => aluUn o (x a)
  | .lui _ i => sx32 ((i.zeroExtend 32) <<< 12)
  | .auipc _ i => pc + sx32 ((i.zeroExtend 32) <<< 12)
def aluReads : AluInstr → List Reg
  | .rr _ _ a b => [a, b]
  | .ri _ _ a _ | .sh _ _ a _ | .shw _ _ a _ | .un _ _ a => [a]
  | .lui .. | .auipc .. => []
def aluDest : AluInstr → Reg
  | .rr _ d _ _ | .ri _ d _ _ | .sh _ d _ _ | .shw _ d _ _ | .un _ d _ | .lui d _ | .auipc d _ => d

/-- SCALAR_ALU (R1, R18, R86). -/
def mScalarAlu (op : AluInstr) : Meaning := .once fun e s => xPlan (aluReads op) (aluDest op) 1 (aluResult op e.pc s.ctx.x)
def execScalarAlu (op : AluInstr) (s : State) : Host.Outcome State Fault Refusal := issueWord (mScalarAlu op) s

def mulResult (op : MulOp) (a b : DWord) : DWord :=
  match op with
  | .mul => a * b
  | .mulh => dwi (a.toInt * b.toInt / 2 ^ 64)
  | .mulhsu => dwi (a.toInt * b.toNat / 2 ^ 64)
  | .mulhu => dw (a.toNat * b.toNat / 2 ^ 64)
  | .mulw => sx32 (lo32 a * lo32 b)

/-- SCALAR_MUL (R1, R18). -/
def mScalarMul (op : MulOp) (d : Reg) (a : Reg) (b : Reg) : Meaning :=
  .once fun _ s => xPlan [a, b] d 3 (mulResult op (s.ctx.x a) (s.ctx.x b))
def execScalarMul (op : MulOp) (d : Reg) (a : Reg) (b : Reg) (s : State) : Host.Outcome State Fault Refusal :=
  issueWord (mScalarMul op d a b) s

/-- Division as the M extension defines it: by zero, all ones or the dividend; the overflow wraps. -/
def divResult (op : DivOp) (a b : DWord) : DWord :=
  let aw := lo32 a
  let bw := lo32 b
  match op with
  | .div => if b = 0 then -1 else dwi (a.toInt.tdiv b.toInt)
  | .divu => if b = 0 then -1 else a / b
  | .rem => if b = 0 then a else dwi (a.toInt.tmod b.toInt)
  | .remu => if b = 0 then a else a % b
  | .divw => if bw = 0 then -1 else sx32 (BitVec.ofInt 32 (aw.toInt.tdiv bw.toInt))
  | .divuw => if bw = 0 then -1 else sx32 (aw / bw)
  | .remw => if bw = 0 then sx32 aw else sx32 (BitVec.ofInt 32 (aw.toInt.tmod bw.toInt))
  | .remuw => if bw = 0 then sx32 aw else sx32 (aw % bw)

/-- SCALAR_DIV (R1, R18). -/
def mScalarDiv (op : DivOp) (d : Reg) (a : Reg) (b : Reg) : Meaning :=
  .once fun _ s => xPlan [a, b] d 20 (divResult op (s.ctx.x a) (s.ctx.x b))
def execScalarDiv (op : DivOp) (d : Reg) (a : Reg) (b : Reg) (s : State) : Host.Outcome State Fault Refusal :=
  issueWord (mScalarDiv op d a b) s

/-! ## Transfers (R30, R31, R86) -/

/-- Cause 0x0D of a taken transfer. -/
def targetRaises (t : DWord) : List Raise := if bitsOf t 0 4 = 0 then [] else [{ cause := 0x0D, tval := t }]

def taken (c : BranchCond) (a b : DWord) : Bool :=
  match c with
  | .beq => a == b
  | .bne => a != b
  | .blt => a.slt b
  | .bge => !a.slt b
  | .bltu => a.ult b
  | .bgeu => !a.ult b

/-- BRANCH (R30, R31, R86). -/
def mBranch (c : BranchCond) (a : Reg) (b : Reg) (i : BitVec 12) : Meaning :=
  .once fun e s =>
    let t := e.pc + ((i.signExtend 64) <<< 1)
    if taken c (s.ctx.x a) (s.ctx.x b) then { raises := targetRaises t, reads := xs [a, b], ctl := .jump t false }
    else { reads := xs [a, b], ctl := .untaken }
def execBranch (c : BranchCond) (a : Reg) (b : Reg) (i : BitVec 12) (s : State) : Host.Outcome State Fault Refusal :=
  issueWord (mBranch c a b i) s

/-- The latency of the link value, which no rule gives: 1, as of an integer result (log 84). -/
def linkLat : Nat := 1

/-- JAL (R31, R86). -/
def mJal (d : Reg) (i : BitVec 20) : Meaning :=
  .once fun e _ =>
    let t := e.pc + ((i.signExtend 64) <<< 1)
    { xPlan [] d linkLat e.next with raises := targetRaises t, ctl := .jump t false }
def execJal (d : Reg) (i : BitVec 20) (s : State) : Host.Outcome State Fault Refusal := issueWord (mJal d i) s

/-- JALR (R31, R86). -/
def mJalr (d : Reg) (a : Reg) (i : BitVec 12) : Meaning :=
  .once fun e s =>
    let t := (s.ctx.x a + i.signExtend 64) &&& ~~~(1 : DWord)
    { xPlan [a] d linkLat e.next with raises := targetRaises t, ctl := .jump t true }
def execJalr (d : Reg) (a : Reg) (i : BitVec 12) (s : State) : Host.Outcome State Fault Refusal := issueWord (mJalr d a i) s

/-! ## WAIT, LOOP, YIELD (R32 to R35, R111, R112, R117) -/

/-- WAIT (R111). -/
def mWait (i : BitVec 12) (a : Reg) : Meaning := .once fun _ s => { reads := xs [a], stall := i.toNat + bitsOf (s.ctx.x a) 0 16 }
def execWait (i : BitVec 12) (a : Reg) (s : State) : Host.Outcome State Fault Refusal := issueWord (mWait i a) s

/-- LOOP (R32, R33, R112). -/
def mLoop (i : BitVec 12) (a : Reg) : Meaning :=
  .once fun e s =>
    let off : Int := i.toInt
    let stop := e.pc + dwi (16 * off)
    let n : Word := lo32 (s.ctx.x a)
    if off < e.hdr.len + 1 then Plan.raising [e.bad 0x0F]
    else if n = 0 then { reads := xs [a], ctl := .skip (s.skipFrom stop off.toNat e.next) }
    else if s.ctx.loops.length = 4 then { reads := xs [a], raises := [e.bad 0x13] }
    else { reads := xs [a], ctl := .enter { start := e.next, stop := stop, count := n } }
def execLoop (i : BitVec 12) (a : Reg) (s : State) : Host.Outcome State Fault Refusal := issueWord (mLoop i a) s

/-! ## Traps and HALT (R12, R114 to R116) -/

/-- ECALL (R12). -/
def mEcall : Meaning := .once fun _ s => Plan.raising [{ cause := if s.ctx.csrs.prv then 0xB1 else 0xB0, tval := 0 }]
def execEcall (s : State) : Host.Outcome State Fault Refusal := issueWord (mEcall) s

/-- EBREAK (R12). -/
def mEbreak : Meaning := .once fun _ _ => Plan.raising [{ cause := 0xB2, tval := 0 }]
def execEbreak (s : State) : Host.Outcome State Fault Refusal := issueWord (mEbreak) s

/-- TRAP (R114). -/
def mTrap (a : Reg) : Meaning := .once fun _ s => { reads := xs [a], raises := [{ cause := 0xB3, tval := s.ctx.x a }] }
def execTrap (a : Reg) (s : State) : Host.Outcome State Fault Refusal := issueWord (mTrap a) s

/-- TRET (R115). -/
def mTret : Meaning :=
  .once (supervisor fun _ _ =>
    { ctl := .own
      effs := [(.control, State.leaveTrap)] })
def execTret (s : State) : Host.Outcome State Fault Refusal := issueWord (mTret) s

/-- HALT: the context stops after its bundle and would go on at the indirect penalty (R116). -/
def State.haltHere (s : State) : State := s.indirectly.modCtx (fun c => { c with status := .halted })

/-- HALT (R116). -/
def mHalt : Meaning := .once (supervisor fun _ _ => { effs := [(.control, State.haltHere)] })
def execHalt (s : State) : Host.Outcome State Fault Refusal := issueWord (mHalt) s

end Sys2Proof.Machine
end

