-- ==== Sys2Proof/Machine/Device.lean ====
section
/-! DEFINITION. What device registers read (R188, R247, R278, R427, R429, R444, R445). -/

namespace Sys2Proof.Machine

/-- CMODE of the modelled core (R188): SPLIT as written, PEND, ERR. -/
def State.cmode (s : State) : DWord :=
  dw ((s.core.split != s.core.splitPend).toNat + 2 * s.core.splitPend.toNat + 256 * s.core.splitErr.toNat)

/-- ASYNC of a bank (R427); SET reads 0. -/
def Ctx.async (c : Ctx) : DWord := dw (c.pend.toNat * 256 + c.en.toNat)
/-- PFINFO of a bank (R429). -/
def Ctx.pfInfo (c : Ctx) : DWord :=
  dw (c.pfKind.toNat + c.pfAsid.toNat * 2 ^ 32 + c.pfCause.toNat * 2 ^ 52 + c.pfValid.toNat * 2 ^ 63)

/-- The registers of the core's block that one sequencer holds; offset within its half of the block. -/
def State.seqReg (s : State) (h : Half) (r : Nat) : Option DWord :=
  let q := s.seqOf h
  match r with
  | 0x068 => some (q.banks.get 0).async
  | 0x070 => some (q.banks.get 1).async
  | 0x080 => some (q.banks.get 0).pfva
  | 0x088 => some (q.banks.get 0).pfInfo
  | 0x090 => some (q.banks.get 1).pfva
  | 0x098 => some (q.banks.get 1).pfInfo
  | 0x0A0 => some 0
  | 0x0A8 => some (dw (s.core.fsw.get (halfIdx h)).toNat)
  | _ => none

/-- The registers whose value stands elsewhere in the state. -/
def State.devHeld (s : State) (off : Nat) : Option DWord :=
  let blk := devCore s.coreId.toNat 0
  if off = devSched s.die (0x100 + 8 * (s.coreId.toNat % 16)) then some s.cmode
  else if off < blk ∨ blk + 0x1000 ≤ off then none
  else
    let r := off - blk
    if r = 0x040 then some (s.core.atticcfg.zeroExtend 64)
    else if r = 0x060 then some (dw (s.core.a.man.live.length + (if s.core.split then s.core.b.man.live.length else 0)))
    else if r < 0x100 then s.seqReg .a r
    else if r < 0x200 ∧ s.core.split then s.seqReg .b (r - 0x100)
    else none

/-- The identity key and its signature (R477): bytes that the spec leaves open (log 13). -/
def idWord (off : Nat) : Option DWord :=
  let byte (base n draw : Nat) (i : Nat) : Byte := if i < base + n then Config.cryptoByte draw (i - base) else 0
  let word (base n draw : Nat) : DWord := dw (leNat ((List.range 8).map (fun i => byte base n draw (off + i))))
  if 0xC00301000 ≤ off ∧ off < 0xC00301708 then some (word 0xC00301000 1793 0)
  else if 0xC00301800 ≤ off ∧ off < 0xC00301D00 then some (word 0xC00301800 1280 1)
  else none

/-- Where a register stands: the host queue's are one set for all dies (R403). -/
def devHome (off : Nat) : Nat :=
  if 0x100000000 ≤ off ∧ off < 0x108000000 ∧ (off - 0x100000000) % 0x1000000 < 0x28 then devDie 0 + (off - 0x100000000) % 0x1000000 else off

/-- The 8 bytes of a register. -/
def State.devReg (s : State) (off : Nat) : DWord := ((s.devHeld off).orElse (fun _ => idWord off)).getD (s.dev (devHome off))

/-- ATTREQ and what else admits only 8 B accesses (R444, R477). -/
def only8 (off : Nat) : Bool := decide (0xC00300020 ≤ off ∧ off < 0xC00300040)

/-- A scalar read of the device range: 8 bytes, or the half named (R444). -/
def State.devRead (s : State) (off n : Nat) : DWord :=
  let v := s.devReg (off / 8 * 8)
  if n = 8 then v
  else if only8 (off / 8 * 8) then 0
  else dw (bitsOf v (if off % 8 = 4 then 32 else 0) 32)

/-- The configuration windows of the root ports (R444): what they hold belongs to the devices behind them. -/
def isEcam (off : Nat) : Bool := decide (0xA00000000 ≤ off ∧ off < 0xA00000000 + 3 * 0x10000000)

end Sys2Proof.Machine
end

