-- ==== Sys2Proof/Machine/Home.lean ====
section
/-! DEFINITION. What executes at a home slice (R15, R283 to R288, R297 to R299, R302 to R307): each operation's answer and the bytes
it writes, the release records (R275), the resolution of ACQP (R276), and the service of promotions (R277 to R280). -/

namespace Sys2Proof.Machine

/-! ## Operations on a location -/

/-- An answer, and the bytes written at offsets from the operation's address. -/
abbrev HomeAns := DWord × List (Nat × List Byte)

/-- The new value of an AMO on n-byte values. -/
def amoValue (op : AmoOp) (n : Nat) (old v : Nat) : Nat :=
  let w := 8 * n
  let lt (signed : Bool) : Bool := if signed then decide (sext w old < sext w v) else decide (old < v)
  match op with
  | .swap => v
  | .add => (old + v) % 2 ^ w
  | .xor => old ^^^ v
  | .and => old &&& v
  | .or => old ||| v
  | .min => if lt true then old else v
  | .max => if lt true then v else old
  | .minu => if lt false then old else v
  | .maxu => if lt false then v else old

/-! ### AMO.TOPK (R299) -/

/-- A score's place: NaN below every number, −0 below +0. -/
def scoreKey (sc : Nat) : Nat :=
  if ((Fmt.bf16).decode sc).isNan then 0
  else if sc / 2 ^ 15 % 2 = 1 then 0x8000 - sc % 2 ^ 15 else 0x8001 + sc % 2 ^ 15
/-- Whether pair a ranks above pair b; a pair is (id, score). -/
def ranksAbove (a b : Nat × Nat) : Bool :=
  let ea := a.1 == 0xFFFFFFFF
  let eb := b.1 == 0xFFFFFFFF
  if ea then false else if eb then true
  else decide (scoreKey a.2 > scoreKey b.2) || (scoreKey a.2 == scoreKey b.2 && decide (a.1 < b.1))
/-- A pair among ranked pairs, after those that rank at least as high. -/
def rankInsert (p : Nat × Nat) : List (Nat × Nat) → List (Nat × Nat)
  | [] => [p]
  | q :: r => if ranksAbove p q then p :: q :: r else q :: rankInsert p r
def rankSort (l : List (Nat × Nat)) : List (Nat × Nat) := l.foldl (fun r p => rankInsert p r) []

/-- AMO.TOPK on the entries of a record. -/
def topk (k : Nat) (id score : Nat) (entries : List (Nat × Nat)) : Nat × List (Nat × Nat) :=
  let canon (p : Nat × Nat) : Nat × Nat :=
    if p.1 = 0xFFFFFFFF then (p.1, 0) else if ((Fmt.bf16).decode p.2).isNan then (p.1, 0x7FC0) else p
  let old := rankSort ((entries.take k).map canon)
  let new := canon (id, score)
  let all := rankInsert new old
  let pos := (all.takeWhile (fun q => q == new || !ranksAbove new q)).length - 1
  (min pos k, all.take k)

/-- The bytes of an entry; the spec states no score for an empty one, which takes a free value (log 15). -/
def topkBytes (free : DWord) (p : Nat × Nat) : List Byte :=
  leBytes 8 (p.1 * 2 ^ 32 + (if p.1 = 0xFFFFFFFF then free.toNat % 2 ^ 16 else p.2))

/-! ### Barriers (R302 to R307) -/

structure Barrier where
  epoch : Word
  gen : Word
  arrived : Word
  expect : Word
  stale : Word
  deriving DecidableEq, Repr

def barrierOf (rd : Nat → Nat → Nat) : Barrier :=
  { gen := wd (rd 0 4), epoch := wd (rd 4 4), expect := wd (rd 8 4), arrived := wd (rd 12 4), stale := wd (rd 16 4) }
def Barrier.g (b : Barrier) : DWord := dw (b.epoch.toNat * 2 ^ 32 + b.gen.toNat)
def Barrier.bytes (b : Barrier) : List Byte :=
  leBytes 4 b.gen.toNat ++ leBytes 4 b.epoch.toNat ++ leBytes 4 b.expect.toNat ++ leBytes 4 b.arrived.toNat ++
    leBytes 4 b.stale.toNat
/-- complete(G) (R303). -/
def Barrier.complete (b : Barrier) (g : DWord) : Bool :=
  let d := (b.gen.toNat + 2 ^ 32 - bitsOf g 0 32) % 2 ^ 32
  decide (b.epoch.toNat ≠ bitsOf g 32 32) || decide (1 ≤ d ∧ d < 2 ^ 31)
/-- A counted arrival. -/
def Barrier.counted (b : Barrier) : Barrier :=
  if b.arrived + 1 = b.expect then { b with arrived := 0, gen := b.gen + 1 } else { b with arrived := b.arrived + 1 }
/-- An arrival (R305): the value returned and the barrier after. -/
def Barrier.arrive (named : Option DWord) (b : Barrier) : DWord × Barrier :=
  match named with
  | some g => if g = b.g then (b.g, b.counted) else (0, { b with stale := b.stale + 1 })
  | none => (b.g, b.counted)

/-- What a barrier with EPOCH 0 answers to an arrival, which no counted or stale arrival answers. -/
def notInit : DWord := 1

/-! ### One operation -/

/-- The answer and the writes of an operation, from the bytes it finds (`rd off n` reads n bytes at an offset) and
draws of free values. -/
def homeEval (op : HomeOp) (fresh : Nat) (rd : Nat → Nat → Nat) : HomeAns :=
  match op with
  | .lr n => (dw (rd 0 n), [])
  | .sc n v ok => if ok then (0, [(0, leBytes n v.toNat)]) else (1, [])
  | .amo o n v => (dw (rd 0 n), [(0, leBytes n (amoValue o n (rd 0 n) (v.toNat % 2 ^ (8 * n))))])
  | .cas n cmp new => (dw (rd 0 n), if rd 0 n = cmp.toNat % 2 ^ (8 * n) then [(0, leBytes n new.toNat)] else [])
  | .badd inc limit =>
    if rd 0 4 + inc.toNat ≤ limit.toNat then (dw (rd 0 4), [(0, leBytes 4 (rd 0 4 + inc.toNat))]) else (0xFFFFFFFF, [])
  | .topk k id score =>
    let r := topk k id.toNat score.toNat ((List.range k).map (fun i => (rd (8 * i + 4) 4, rd (8 * i) 2)))
    (dw r.1, r.2.zipIdx.map (fun p => (8 * p.2, topkBytes (Config.freeWord (fresh + p.2)) p.1)))
  | .lane t v =>
    let old := rd 0 4
    let new := if t = .fp32 then (addN .fp32 .rne (Fmt.fp32.decode old) (Fmt.fp32.decode v.toNat)).1 else (old + v.toNat) % 2 ^ 32
    (dw old, [(0, leBytes 4 new)])
  | .binit n =>
    let e := (barrierOf rd).epoch
    let e' : Word := if e = 0xFFFFFFFF then 1 else e + 1
    let b : Barrier := { epoch := e', gen := 0, arrived := 0, expect := n, stale := 0 }
    (b.g, [(0, b.bytes ++ List.replicate 44 0)])
  | .barr named =>
    let b := barrierOf rd
    if b.epoch = 0 then (notInit, [])
    else let r := b.arrive named; (r.1, [(0, r.2.bytes)])
  | .bread _ => ((barrierOf rd).g, [])
  | .claim cap _ _ _ => if rd 0 4 + 1 ≤ cap.toNat then (dw (rd 0 4), [(0, leBytes 4 (rd 0 4 + 1))]) else (0xFFFFFFFF, [])
  | .expert .. => (0, [])

/-- Whether an operation reads the location. -/
def homeReads : HomeOp → Bool
  | .sc .. | .expert .. => false
  | _ => true

/-! ## Release records (R275) -/

def State.relRec (s : State) (line : Loc) : Option RelRec := (s.pkg.rel.find? (fun p => p.1 == line)).map (·.2)
def State.setRel (line : Loc) (r : Option RelRec) (s : State) : State :=
  s.modPkg (fun p => { p with rel := match r with | some x => tinsert line x (terase p.rel line) | none => terase p.rel line })

/-- Bytes written by an atomic at their home: a release sets the record, an RMW without rl leaves it (R275). -/
def State.rmwHome (who : Option (Half × Fin 2)) (l : Loc) (ws : List (Nat × List Byte)) (rel : Option RelRec) (s : State) : State :=
  if ws = [] then s
  else
    let old := s.relRec (lineOf l)
    (s.writeHome who (ws.flatMap (fun p => placed (l + p.1) p.2))).setRel (lineOf l) (rel.orElse (fun _ => old))

/-- An operation at a location of this package. -/
def State.homeDo (who : Option (Half × Fin 2)) (op : HomeOp) (l : Loc) (rel : Option RelRec) (s : State) : DWord × State :=
  let r := homeEval op s.fresh (fun o n => s.numAt (l + o) n)
  (r.1, { s.rmwHome who l r.2 rel with fresh := s.fresh + 8 })

/-! ## Scope units (R260, R261) -/

/-- Whether two agents lie in one unit of a scope. `split` tells whether the core level is the half-core. -/
def State.sameUnit (s : State) (sc : Scope) (a b : Agent) : Bool :=
  let pk := a.pkg == b.pkg
  match sc with
  | .core => pk && a.core == b.core && (!s.core.split || a.half == b.half)
  | .cluster => pk && a.core.toNat / 4 == b.core.toNat / 4
  | .die => pk && a.core.toNat / 16 == b.core.toNat / 16
  | .package => pk
  | .fabric => s.inDomain false b.pkg.toNat

/-! ## Promotion (R276 to R280) -/

/-- An answered promotion reaches the home (R275, R276): the scope of the record that it names rises, and the ACQPs that wait for it get
their responses. -/
def State.promotionAnswered (line : Loc) (q : Word) (sc : Scope) (s : State) : State :=
  let s := match s.relRec line with
    | some r => if r.q = q ∧ r.scope.code < sc.code then s.setRel line (some { r with scope := sc }) else s
    | none => s
  s.promotionDone line q sc .ack

/-- A request answered: the count (R278), and the answer to the home. -/
def State.answerPromotion (r : PromReq) (s : State) : State :=
  if !r.answer then s
  else
    let s := s.bump (devCore s.coreId.toNat 0x48) 1
    if s.region false r.line = .hbm ∨ s.region false r.line = .cellar then s.promotionAnswered r.line r.q r.scope
    else s.emit (.promoted r.line r.q r.scope)

/-- What serving a request takes (R277): none, answered at once; or a service. The eager promotion of a retired entry, which no one has
asked for, is one (R279). -/
def State.serveRequest (r : PromReq) (s : State) : State :=
  let m := s.sq.man
  let live := m.live.find? (fun e => e.seq == r.q)
  if !r.answer then s.startService r
  else match live with
  | some e => if r.scope.code ≤ e.prom.code then s.answerPromotion r else s.startService r
  | none =>
    if r.scope = .fabric then s.startService r
    else match m.service with
      | some _ => s.modSq (fun q => { q with man := { q.man with queued := q.man.queued ++ [r] } })
      | none => s.answerPromotion r

/-- Live entries up to q take a scope. -/
def Manifest.promote (q : Word) (sc : Scope) (m : Manifest) : Manifest :=
  { m with live := m.live.map (fun e => if seqLe e.seq q && e.prom.code < sc.code then { e with prom := sc } else e) }

/-- The queued requests, served in turn: those that need no service are answered, until one begins a service. -/
def serveQueued : List PromReq → State → State
  | [], s => s
  | r :: rs, s =>
    match s.sq.man.service with
    | some _ => s.modSq (fun q => { q with man := { q.man with queued := q.man.queued ++ (r :: rs) } })
    | none => serveQueued rs (s.serveRequest r)

/-- The service in progress ends (R277, R279), at fabric scope once the core's writes are acknowledged by their homes: its entries are promoted, it is answered, and the next request is served. -/
def State.endService (s : State) : State :=
  match s.sq.man.service with
  | none => s
  | some r =>
    if r.scope = .fabric ∧ s.unacked s.core.active then s else
    let rest := s.sq.man.queued
    let s := s.modSq (fun q => { q with man := { (q.man.promote r.q r.scope) with service := none, queued := [] } })
    serveQueued rest (s.answerPromotion r)

/-- A context of a bank departs (R280): every live entry up to the bank's highest is promoted to package scope and retired, and the
queued requests that name them are answered. -/
def State.drainManifest (bank : Fin 2) (s : State) : State :=
  let m := s.sq.man
  let gone := (m.live.reverse.dropWhile (fun e => e.bank != bank)).reverse
  match gone.getLast? with
  | none => s
  | some last =>
    let s := s.cleanCache s.cacheHalf
    let named (r : PromReq) : Bool := gone.any (fun e => e.seq == r.q)
    let s := s.modSq (fun q => { q with man := { q.man with
      live := q.man.live.drop gone.length, retired := last.seq, queued := q.man.queued.filter (fun r => !(named r)) } })
    (m.queued.filter named).foldl (fun s r => s.answerPromotion r) s

/-- A promotion request as it reaches the modelled core (R189, R277): where its half-core bit does not match the core's mode, as one
whose SEQ is at or below RETIRED. -/
def State.promotionArrives (h : Half) (line : Loc) (q : Word) (sc : Scope) (s : State) : State :=
  if h = .b ∧ !s.core.split then
    s.asHalf .a (fun t => t.serveRequest { line := line, q := t.sq.man.retired, scope := sc, answer := true })
  else s.asHalf h (fun t => t.serveRequest { line := line, q := q, scope := sc, answer := true })
/-- The promotion that the home of a line asks of the core that a record names, for an ACQP whose response it holds (R276). -/
def State.askPromotion (who : Agent) (tag : Nat) (line : Loc) (r : RelRec) (sc : Scope) (v : DWord) (s : State) : State :=
  let s := s.modPkg (fun p => { p with acqps := p.acqps ++ [{ who := who, tag := tag, line := line, q := r.q, scope := sc, v := v }] })
  if s.isSelf r.who then s.promotionArrives r.who.half line r.q sc
  else if r.who.pkg = s.self.pkg then s.emit (.promote r.who line r.q sc)
  else s.send (some r.who.pkg.toNat) (r.who.pkg.toNat, line / 64) (.promote r.who line r.q sc) (.promotion line r.q sc)

/-- ACQP at its home (R276): the value, and the promotion request it sends, if any. -/
def State.acqpRequest (s : State) (who : Agent) (sc : Scope) (line : Loc) : Option RelRec :=
  match s.relRec line with
  | some r => if r.scope.code < sc.code ∧ s.sameUnit sc who r.who then some r else none
  | none => none

end Sys2Proof.Machine
end

