-- ==== Sys2Proof/Machine/ScalarFp.lean ====
section
/-! DEFINITION. The F and D operations of the scalar slot (R1, R13, R18), with the results that the RISC-V specification gives
(log 5): NaN boxing, the rounding modes, canonical NaN, and the conversions to integers. -/

namespace Sys2Proof.Machine

/-! ## Registers and rounding modes -/

def fpFmt (dbl : Bool) : Fmt := if dbl then .fp64 else .fp32

/-- The code an operand gives: an FP32 value that is not NaN-boxed counts as canonical NaN. -/
def unbox (dbl : Bool) (v : DWord) : Nat :=
  if dbl then v.toNat else if v.toNat / 2 ^ 32 = 0xFFFFFFFF then v.toNat % 2 ^ 32 else Fmt.fp32.qnan
/-- A result as it stands in a register. -/
def box (dbl : Bool) (c : Nat) : DWord := if dbl then dw c else dw (c % 2 ^ 32 + 0xFFFFFFFF * 2 ^ 32)

/-- The direction of a rounding mode; none where it is reserved, or dynamic with a reserved frm. -/
def fpMode (rm : FRm) (frm : BitVec 3) : Option RMode :=
  match (if rm = .dyn then frm.toNat else rm.code) with
  | 0 => some .rne | 1 => some .rz | 2 => some .rd | 3 => some .ru | 4 => some .rmm | _ => none

/-! ## Results -/

/-- Where a result goes: an f register or an x register. -/
inductive FpDest where
  | f (r : Reg)
  | x (r : Reg)
  deriving DecidableEq, Repr

def FpDest.write (v : DWord) : FpDest → Write
  | .f r => .f r v
  | .x r => if r = 0 then .flags else .x r v
def FpDest.tracked (lat : Nat) : FpDest → List (Res × Nat)
  | .f r => [(.f r, lat)]
  | .x r => xw r lat

/-- A floating-point word: operands read, destination, latency, value and flags. -/
def fpPlan (reads : List Res) (d : FpDest) (lat : Nat) (r : DWord × Byte) : Plan :=
  { reads := reads, writes := d.tracked lat
    effs := [(.main, State.launch lat (d.write r.1) 0 (scalarFlags r.2))] }

/-- A conversion to an integer of RISC-V: out of range and NaN give the nearest bound (for NaN the upper one) with NV alone. -/
def toIntFp (t : FInt) (md : RMode) (a : Num) : DWord × Byte :=
  let signed := t == .w || t == .l
  let w := if t = .w ∨ t = .wu then 32 else 64
  let put (i : Int) : DWord := if w = 32 then sx32 (BitVec.ofInt 32 i) else dwi i
  match a with
  | .nan _ => (put (intHi signed w), fNV)
  | .inf n => (put (if n then intLo signed w else intHi signed w), fNV)
  | .fin n m e =>
    let (i, ix) := roundInt md (Num.fin n m e).dy
    if i < intLo signed w then (put (intLo signed w), fNV)
    else if i > intHi signed w then (put (intHi signed w), fNV)
    else (put i, if ix then fNX else 0)

/-- The integer that a conversion from an integer reads. -/
def ofIntArg (t : FInt) (v : DWord) : Int :=
  match t with
  | .w => (lo32 v).toInt | .wu => (lo32 v).toNat | .l => v.toInt | .lu => v.toNat

def fpArith (op : FArith) (k : Fmt) (md : RMode) (a b : Num) : FRes :=
  match op with
  | .add => addN k md a b | .sub => addN k md a b.neg | .mul => mulN k md a b | .div => divN k md a b

/-- The four fused forms of RISC-V: ±(a × b) ± c. -/
def fpFma (op : FFma) (k : Fmt) (md : RMode) (a b c : Num) : FRes :=
  match op with
  | .madd => fmaN k md a b c
  | .msub => fmaN k md a b c.neg
  | .nmsub => fmaN k md a.neg b c
  | .nmadd => fmaN k md a.neg b c.neg

def fpCompare (op : FCmp) (a b : Num) : DWord × Byte :=
  let nan := a.isNan || b.isNan
  let snan := a.isSnan || b.isSnan
  match op with
  | .eq => (if !nan && numEq a b then 1 else 0, nvIf snan)
  | .lt => (if !nan && numLt a b then 1 else 0, nvIf nan)
  | .le => (if !nan && (numLt a b || numEq a b) then 1 else 0, nvIf nan)

/-- Sign injection on codes. -/
def fpSign (op : FSgn) (k : Fmt) (a b : Nat) : Nat :=
  let sb := b / 2 ^ (k.eb + k.mb) % 2
  let sa := a / 2 ^ (k.eb + k.mb) % 2
  let s := match op with | .j => sb | .jn => 1 - sb | .jx => (sa + sb) % 2
  a % 2 ^ (k.eb + k.mb) + s * 2 ^ (k.eb + k.mb)

/-- The rounding mode of an operation, where it has one. -/
def fpRm : FpInstr → FRm
  | .arith _ _ rm _ _ _ | .sqrt _ rm _ _ | .fma _ _ rm _ _ _ _ | .toInt _ _ rm _ _ | .ofInt _ _ rm _ _ | .cvt _ rm _ _ => rm
  | _ => .rne

/-- The registers that an operation reads. -/
def fpReads : FpInstr → List Res
  | .arith _ _ _ _ a b | .sgn _ _ _ a b | .minmax _ _ _ a b | .cmp _ _ _ a b => [.f a, .f b]
  | .fma _ _ _ _ a b k => [.f a, .f b, .f k]
  | .sqrt _ _ _ a | .fclass _ _ a | .toInt _ _ _ _ a | .cvt _ _ _ a | .mvToX _ _ a => [.f a]
  | .ofInt _ _ _ _ a | .mvOfX _ _ a => xs [a]
/-- Its destination. -/
def fpDest : FpInstr → FpDest
  | .arith _ _ _ d _ _ | .sqrt _ _ d _ | .fma _ _ _ d _ _ _ | .sgn _ _ d _ _ | .minmax _ _ d _ _ | .ofInt _ _ _ d _ | .cvt _ _ d _
  | .mvOfX _ d _ => .f d
  | .cmp _ _ d _ _ | .fclass _ d _ | .toInt _ _ _ d _ | .mvToX _ d _ => .x d
/-- Its latency (R18). -/
def fpLat : FpInstr → Nat
  | .arith .div .. | .sqrt .. => 12
  | .arith .. | .fma .. | .toInt .. | .ofInt .. | .cvt .. => 4
  | .sgn .. | .minmax .. | .cmp .. | .fclass .. | .mvToX .. | .mvOfX .. => 2
/-- Its value and flags, in a rounding direction. -/
def fpResult (md : RMode) (c : Ctx) (op : FpInstr) : DWord × Byte :=
  let bx (dbl : Bool) (r : FRes) : DWord × Byte := (box dbl r.1, r.2)
  let code (dbl : Bool) (r : Reg) : Nat := unbox dbl (c.f r)
  let num (dbl : Bool) (r : Reg) : Num := (fpFmt dbl).decode (code dbl r)
  match op with
  | .arith o dbl _ _ a b => bx dbl (fpArith o (fpFmt dbl) md (num dbl a) (num dbl b))
  | .sqrt dbl _ _ a => bx dbl (sqrtN (fpFmt dbl) md (num dbl a))
  | .fma o dbl _ _ a b k => bx dbl (fpFma o (fpFmt dbl) md (num dbl a) (num dbl b) (num dbl k))
  | .sgn o dbl _ a b => (box dbl (fpSign o (fpFmt dbl) (code dbl a) (code dbl b)), 0)
  | .minmax mx dbl _ a b => bx dbl (minMaxN (fpFmt dbl) mx (code dbl a) (code dbl b))
  | .cmp o dbl _ a b => fpCompare o (num dbl a) (num dbl b)
  | .fclass dbl _ a => (dw (classOf (fpFmt dbl) (code dbl a)), 0)
  | .toInt t dbl _ _ a => toIntFp t md (num dbl a)
  | .ofInt t dbl _ _ a => bx dbl (cvtOfInt (fpFmt dbl) md false (ofIntArg t (c.x a)))
  | .cvt toDbl _ _ a => bx toDbl (cvtFloat (fpFmt toDbl) md false (num (!toDbl) a))
  | .mvToX dbl _ a => (if dbl then c.f a else sx32 (lo32 (c.f a)), 0)
  | .mvOfX dbl _ a => (if dbl then c.x a else box false ((c.x a).toNat % 2 ^ 32), 0)

/-- SCALAR_FP (R1, R13, R18). -/
def mScalarFp (op : FpInstr) : Meaning :=
  .once fun e s =>
    match fpMode (fpRm op) s.ctx.csrs.frm with
    | none => (fpPlan (fpReads op) (fpDest op) (fpLat op) (0, 0)).barred [e.bad 0x07]
    | some md => fpPlan (fpReads op) (fpDest op) (fpLat op) (fpResult md s.ctx op)
def execScalarFp (op : FpInstr) (s : State) : Host.Outcome State Fault Refusal := issueWord (mScalarFp op) s

end Sys2Proof.Machine
end

