-- ==== Sys2Proof/Machine/ScalarMem.lean ====
section
/-! DEFINITION. Scalar memory accesses: loads, stores, JTAB, the A extension, AMOCAS, and the fences (R10, R14, R15, R36, R113, R123,
R227, R233, R237, R254, R265, R283 to R288). -/

namespace Sys2Proof.Machine

/-! ## Access checks -/

/-- What the checks of a scalar access find: causes, translation, location, region. -/
structure Access where
  raises : List Raise
  trans : Trans
  loc : Loc
  region : Region

def Trans.none : Trans := { frame := 0, size := 0, attr := 0, leaf := 0 }

/-- A cause of an access at an address. -/
def atVa (cause : Nat) (va : DWord) : Raise := { cause := cause, tval := va }

/-- The checks of a scalar access (R10, R226, R227, R232, R233, R286). -/
def State.access (s : State) (va : DWord) (n : Nat) (k : AccessKind) (atomic : Bool) : Access :=
  let mis := if va.toNat % n = 0 then [] else [atVa 0x71 va]
  match s.translate k.need va with
  | .error c => { raises := mis ++ [{ cause := c, tval := va, fault := some k }], trans := Trans.none, loc := 0, region := .hole }
  | .ok t =>
    let l := t.loc s.die va
    let rg := s.region false l
    let a := t.attr
    let rs : List Raise :=
      (if atomic ∧ (!attrAtom a ∨ attrRepl a ∨ rg = .host ∨ rg = .device ∨ rg = .away) then [atVa 0x70 va] else []) ++
      (if rg = .hole ∨ rg = .away ∨ (rg = .device ∧ !atomic ∧ n ≠ 4 ∧ n ≠ 8) then [atVa 0x72 va] else []) ++
      (if rg = .outside then [atVa 0x73 va] else []) ++
      (if k = .write ∧ !atomic ∧ attrSync a then [atVa 0x66 va] else [])
    { raises := mis ++ rs, trans := t, loc := l, region := rg }

/-- Whether a location's home answers from outside the package: another package, the host, or a device's configuration window. -/
def farRegion (rg : Region) (l : Loc) : Bool :=
  rg == .remote || rg == .host || (rg == .device && isEcam (locOff l - 0x7F000000000))

/-! ## Requests to far homes (R284, R456) -/

/-- A request of the waiting bundle for bytes at a location. -/
def State.asked (s : State) (l : Loc) (n : Nat) : Option Remote := s.ctx.remote.find? (fun r => r.loc == l && r.bytes == n)
/-- The answer to it, if it has come, and whether the request is lost instead. -/
def State.answerFor (s : State) (l : Loc) (n : Nat) : Option (HomeResp × Bool) :=
  match s.asked l n with
  | some r => (match r.answer with
    | some a => some (a, r.lost)
    | none => if r.lost then some (.failed, true) else none)
  | none => none

/-- The waiting bundle waits for a new tag's answer about a location. -/
def State.awaits (l : Loc) (n : Nat) (s : State) : State :=
  s.modCtx (fun c => { c with remote := c.remote ++ [{ tag := s.pkg.tags, loc := l, bytes := n, answer := none, lost := false }] })
/-- A request leaves, once. -/
def State.request (l : Loc) (n : Nat) (o : Out) (s : State) : State :=
  if (s.asked l n).isSome then s else (s.awaits l n).sendTo l o (.context s.ctx.ident)
/-- It leaves again, its answer used. -/
def State.reask (l : Loc) (n : Nat) (o : Out) (s : State) : State :=
  (s.modCtx (fun c => { c with remote := c.remote.filter (fun r => !(r.loc == l && r.bytes == n)) })).request l n o

/-! ## Loads (R18, R254, R265) -/

/-- What a scalar read finds: its value or what it raises, or the request that it waits for. -/
inductive ReadRes where
  | value (v : Nat) (hit : Bool)
  | bad
  | waits

def State.readScalar (s : State) (sc : Scope) (x : Access) (n : Nat) : ReadRes :=
  if x.region = .device ∧ !farRegion x.region x.loc then .value (s.devRead (locOff x.loc - 0x7F000000000) n).toNat true
  else match s.peek sc x.loc n with
    | some g => if g.bad then .bad else .value (leNat g.bytes) g.hit
    | none =>
      let a := s.asksFor sc x.loc n
      match s.answerFor a.1 a.2 with
      | some (.value v, false) => .value (v.toNat % 2 ^ (8 * n)) false
      | some _ => .bad
      | none => .waits

/-- The effects of a scalar read: the translation, the line or the request at its home, and the freeze of a miss (R18). -/
def State.readScalarEff (sc : Scope) (va : DWord) (x : Access) (hit : Bool) (s : State) : State :=
  let s := s.tlbFill va x.trans
  if x.region = .host ∨ x.region = .device then s
  else
    let s := s.readEff sc (attrHint x.trans.attr) x.loc
    if hit ∨ x.region = .remote then s else s.freeFreeze

/-- A scalar read as a plan: `f` makes the rest from the value. -/
def readPlan (e : Env) (s : State) (va : DWord) (n : Nat) (base : Plan) (f : Nat → Plan) : Plan :=
  let x := s.access va n .read false
  if x.raises ≠ [] then { base with raises := x.raises, mem := true }
  else match s.readScalar e.scope x n with
    | .bad => { base with raises := [atVa 0xA1 va], mem := true }
    | .waits =>
      let a := s.asksFor e.scope x.loc n
      { base with mem := true, holds := [.remote], ask := some (State.request a.1 a.2 (.read a.1 a.2)) }
    | .value v hit =>
      let p := f v
      { p with mem := true, effs := (.smem, State.readScalarEff e.scope va x hit) :: p.effs }

def LoadOp.bytes : LoadOp → Nat
  | .lb | .lbu => 1 | .lh | .lhu => 2 | .lw | .lwu | .flw => 4 | .ld | .fld => 8
/-- The value a load writes. -/
def loadValue (w : LoadOp) (v : Nat) : DWord :=
  match w with
  | .lb => dwi (sext 8 v) | .lh => dwi (sext 16 v) | .lw => dwi (sext 32 v)
  | .flw => box false v
  | _ => dw v
def loadDest (w : LoadOp) (d : Reg) : FpDest :=
  match w with
  | .flw | .fld => .f d
  | _ => .x d

/-- SCALAR_LOAD (R10, R18, R237, R254, R265). -/
def mScalarLoad (w : LoadOp) (d : Reg) (a : Reg) (i : BitVec 12) : Meaning :=
  .once fun e s =>
    let dst := loadDest w d
    let base : Plan := { reads := xs [a], writes := dst.tracked 3 }
    readPlan e s (s.ctx.x a + i.signExtend 64) (LoadOp.bytes w) base fun v =>
      { base with effs := [(.main, State.launch 3 (dst.write (loadValue w v)))] }
def execScalarLoad (w : LoadOp) (d : Reg) (a : Reg) (i : BitVec 12) (s : State) : Host.Outcome State Fault Refusal :=
  issueWord (mScalarLoad w d a i) s

/-- JTAB (R36, R113). -/
def mJtab (c : Reg) (b : Reg) (a : Reg) : Meaning :=
  .once fun e s =>
    let base : Plan := { reads := xs [a, b, c] }
    if s.ctx.x c ≤ s.ctx.x a then base
    else readPlan e s (s.ctx.x b + 4 * s.ctx.x a) 4 base fun v =>
      { base with ctl := .jump (e.pc + dwi (sext 32 (v / 16 * 16))) true }
def execJtab (c : Reg) (b : Reg) (a : Reg) (s : State) : Host.Outcome State Fault Refusal := issueWord (mJtab c b a) s

/-! ## Stores -/

def StoreOp.bytes : StoreOp → Nat
  | .sb => 1 | .sh => 2 | .sw | .fsw => 4 | .sd | .fsd => 8
def storeSource (w : StoreOp) (c : Ctx) (b : Reg) : DWord :=
  match w with
  | .fsw | .fsd => c.f b
  | _ => c.x b
def storeReads (w : StoreOp) (b : Reg) : List Res :=
  match w with
  | .fsw | .fsd => [.f b]
  | _ => xs [b]

/-- A store of bytes whose checks have passed. -/
def State.storeScalar (sc : Scope) (va : DWord) (x : Access) (bs : List Byte) (s : State) : State :=
  (s.tlbFill va x.trans).store { bytes := placed x.loc bs, scope := sc, hint := attrHint x.trans.attr, repl := attrRepl x.trans.attr }

/-- SCALAR_STORE (R10, R233, R237, R265, R273). -/
def mScalarStore (w : StoreOp) (a : Reg) (b : Reg) (i : BitVec 12) : Meaning :=
  .once fun e s =>
    let va := s.ctx.x a + i.signExtend 64
    let x := s.access va (StoreOp.bytes w) .write false
    let bs := leBytes (StoreOp.bytes w) (storeSource w s.ctx b).toNat
    { raises := x.raises, reads := xs [a] ++ storeReads w b, mem := true
      effs := [(.smem, State.storeScalar e.scope va x bs)] }
def execScalarStore (w : StoreOp) (a : Reg) (b : Reg) (i : BitVec 12) (s : State) : Host.Outcome State Fault Refusal :=
  issueWord (mScalarStore w a b i) s

/-! ## Atomics (R15, R123, R283 to R288) -/

/-- Before an atomic leaves the core, the dirty bytes of its line are written back, and the copies in the core and its die are invalid
(R283). -/
def State.yieldLine (line : Loc) (s : State) : State :=
  let s := (s.noFill line).dropGuest s.die line
  match s.findLine s.cacheHalf line with
  | some y => ((if y.dirty = 0 then s else s.writeBack y).dropLine s.cacheHalf line)
  | none => s

/-- The release record that a release of the running context leaves on a line, once its entry is made (R274, R275). -/
def State.myRecord (s : State) (sc : Scope) (x : Access) : Option RelRec :=
  if attrSync x.trans.attr then some { who := s.self, q := s.sq.man.count, scope := sc } else none

/-- What goes before an operation at a home: the translation, the release's order and entry (R262, R274), the line given up, and
the freeze until the response (R284). `writes` tells whether a release has a write, whose line its entry names. -/
def State.beforeHome (sc : Scope) (rel writes : Bool) (va : DWord) (x : Access) (s : State) : State :=
  let s := s.tlbFill va x.trans
  let s := if rel then (s.releaseOrder sc).appendRelease s.sq.running sc (if writes then some (lineOf x.loc) else none) else s
  (s.yieldLine (lineOf x.loc)).freeFreeze

/-- An operation at the home of this package. -/
def State.atHome (sc : Scope) (rel writes : Bool) (va : DWord) (x : Access) (op : HomeOp) (s : State) : DWord × State :=
  let s := (s.beforeHome sc rel writes va x).l2Req (lineOf x.loc) (attrHint x.trans.attr)
  s.homeDo s.me op x.loc (if rel then s.myRecord sc x else none)

/-- What an operation at a home is about. -/
structure HomeJob where
  va : DWord
  /-- Alignment. -/
  align : Nat
  kind : AccessKind
  op : HomeOp
  aq : Bool
  rel : Bool
  /-- Whether it writes the location. -/
  writes : Bool := true
  /-- Causes besides those of the access. -/
  more : Access → List Raise := fun _ => []
  /-- Causes that the answer gives. -/
  judge : DWord → List Raise := fun _ => []
  /-- The value of rd. -/
  result : DWord → DWord := id
  /-- What else it does once it has been performed. -/
  after : Access → State → State := fun _ s => s

/-- An instruction that executes at a home (R283 to R286). -/
def homePlan (e : Env) (s : State) (j : HomeJob) (reads : List Reg) (d : Reg) : Plan :=
  let x := s.access j.va j.align j.kind true
  let base : Plan := { reads := xs reads, writes := xw d 3, mem := true, closes := true }
  let finish (v : DWord) (s : State) : State :=
    let s := j.after x s
    (if j.aq then s.acquireOrder e.scope else s).launchX 3 d (j.result v)
  if x.raises ++ j.more x ≠ [] then { base with raises := x.raises ++ j.more x }
  else if (s.asked x.loc j.align).isNone ∧ s.releaseHolds j.rel e.scope ≠ [] then
    { base with holds := [.acks], ask := some (State.releaseOrder e.scope) }
  else if farRegion x.region x.loc then
    match s.answerFor x.loc j.align with
    | some (.value v, false) => { base with raises := j.judge v, effs := [(.smem, finish v)] }
    | some (.unsupported, false) => { base with raises := [atVa 0x70 j.va] }
    | some _ => { base with raises := [atVa 0x74 j.va] }
    | none =>
      { base with holds := [.remote],
                  ask := some (fun s => if (s.asked x.loc j.align).isSome then s else
                    (s.beforeHome e.scope j.rel j.writes j.va x).request x.loc j.align (.atomic j.op x.loc e.scope)) }
  else if homeReads j.op ∧ (s.yieldLine (lineOf x.loc)).badLine x.loc then { base with raises := [atVa 0x74 j.va] }
  else
    let v := (homeEval j.op s.fresh (fun o n => (s.yieldLine (lineOf x.loc)).numAt (x.loc + o) n)).1
    { base with raises := j.judge v
                effs := [(.smem, fun s => let r := s.atHome e.scope j.rel j.writes j.va x j.op; finish r.1 r.2)] }

/-- A value of n bytes as rd reads it. -/
def atomValue (dbl : Bool) (v : DWord) : DWord := if dbl then v else sx32 (lo32 v)
def atomBytes (dbl : Bool) : Nat := if dbl then 8 else 4

/-- LR (R15, R123). -/
def mLr (dbl : Bool) (aq : Bool) (rl : Bool) (d : Reg) (a : Reg) : Meaning :=
  .once fun e s => homePlan e s
    { va := s.ctx.x a, align := atomBytes dbl, kind := .read, op := .lr (atomBytes dbl), aq := aq, rel := rl,
      result := atomValue dbl, after := fun x s => s.modCtx (fun c => { c with resv := some (lineOf x.loc) }) } [a] d
def execLr (dbl : Bool) (aq : Bool) (rl : Bool) (d : Reg) (a : Reg) (s : State) : Host.Outcome State Fault Refusal :=
  issueWord (mLr dbl aq rl d a) s

/-- Whether the running context holds a reservation on the line of an address (R15). -/
def State.holdsResv (s : State) (va : DWord) (n : Nat) : Bool :=
  match s.ctx.resv with
  | some l => lineOf (s.access va n .write true).loc == l
  | none => false

/-- SC (R15, R123, R262): one with rl is a release, also where it fails and writes nothing. -/
def mSc (dbl : Bool) (aq : Bool) (rl : Bool) (d : Reg) (a : Reg) (b : Reg) : Meaning :=
  .once fun e s =>
    let ok := s.holdsResv (s.ctx.x a) (atomBytes dbl)
    homePlan e s
      { va := s.ctx.x a, align := atomBytes dbl, kind := .write, op := .sc (atomBytes dbl) (s.ctx.x b) ok, aq := aq,
        rel := rl, writes := ok, after := fun _ s => s.modCtx (fun c => { c with resv := none }) } [a, b] d
def execSc (dbl : Bool) (aq : Bool) (rl : Bool) (d : Reg) (a : Reg) (b : Reg) (s : State) : Host.Outcome State Fault Refusal :=
  issueWord (mSc dbl aq rl d a b) s

/-- AMO (R15, R123, R283). -/
def mAmo (op : AmoOp) (dbl : Bool) (aq : Bool) (rl : Bool) (d : Reg) (a : Reg) (b : Reg) : Meaning :=
  .once fun e s => homePlan e s
    { va := s.ctx.x a, align := atomBytes dbl, kind := .atomic, op := .amo op (atomBytes dbl) (s.ctx.x b), aq := aq, rel := rl,
      result := atomValue dbl } [a, b] d
def execAmo (op : AmoOp) (dbl : Bool) (aq : Bool) (rl : Bool) (d : Reg) (a : Reg) (b : Reg) (s : State) : Host.Outcome State Fault Refusal :=
  issueWord (mAmo op dbl aq rl d a b) s

/-- AMOCAS_W (R287, R123). -/
def mAmocasW (aq : Bool) (rl : Bool) (d : Reg) (a : Reg) (b : Reg) : Meaning :=
  .once fun e s => homePlan e s
    { va := s.ctx.x a, align := 4, kind := .atomic, op := .cas 4 (s.ctx.x d) (s.ctx.x b), aq := aq, rel := rl,
      result := atomValue false } [a, b, d] d
def execAmocasW (aq : Bool) (rl : Bool) (d : Reg) (a : Reg) (b : Reg) (s : State) : Host.Outcome State Fault Refusal :=
  issueWord (mAmocasW aq rl d a b) s

/-- AMOCAS_D (R287, R123). -/
def mAmocasD (aq : Bool) (rl : Bool) (d : Reg) (a : Reg) (b : Reg) : Meaning :=
  .once fun e s => homePlan e s
    { va := s.ctx.x a, align := 8, kind := .atomic, op := .cas 8 (s.ctx.x d) (s.ctx.x b), aq := aq, rel := rl } [a, b, d] d
def execAmocasD (aq : Bool) (rl : Bool) (d : Reg) (a : Reg) (b : Reg) (s : State) : Host.Outcome State Fault Refusal :=
  issueWord (mAmocasD aq rl d a b) s

/-! ## Fences (R14, R123, R262, R273, R300) -/

/-- A fence with its four bits: it closes the open segment where it releases wider than core, and one that releases at fabric scope waits
for the homes of earlier writes (R270). -/
def fencePlan (e : Env) (s : State) (pr pw sr sw : Bool) : Plan :=
  { closes := pw && (sr || sw) && e.scope != .core
    holds := s.releaseHolds (pw && (sr || sw)) e.scope, ask := some (State.releaseOrder e.scope)
    effs := [(.smem, State.fence e.scope pr pw sr sw)] }

/-- FENCE (R14, R123). -/
def mFence (fm : Fin 16) (p : Fin 16) (s : Fin 16) : Meaning :=
  .once fun e st =>
    if fm = 8 then fencePlan e st true true true true
    else fencePlan e st (p.val.testBit 1 || p.val.testBit 3) (p.val.testBit 0 || p.val.testBit 2)
      (s.val.testBit 1 || s.val.testBit 3) (s.val.testBit 0 || s.val.testBit 2)
def execFence (fm : Fin 16) (p : Fin 16) (s : Fin 16) (st : State) : Host.Outcome State Fault Refusal :=
  issueWord (mFence fm p s) st

/-- FENCE_I (R14). -/
def mFenceI : Meaning := .once fun _ _ => { effs := [(.smem, State.fenceI)] }
def execFenceI (s : State) : Host.Outcome State Fault Refusal := issueWord (mFenceI) s

end Sys2Proof.Machine
end

