-- ==== Sys2Proof/Machine/Sync.lean ====
section
/-! DEFINITION. Synchronisation, handles, retention and bank modes: the scalar instructions of R282 (R238 to R242, R289 to R293,
R298 to R311). -/

namespace Sys2Proof.Machine

/-- An operand of two registers and rd. -/
def abPlan (reads : List Reg) (d : Reg) (v : DWord) (effs : List (Phase × (State → State))) : Plan :=
  { reads := xs reads, writes := xw d 1, effs := effs ++ [(.main, State.launchX 1 d v)] }
/-- A word that raises, with its tracked operands. -/
def badPlan (reads : List Reg) (d : Reg) (lat : Nat) (rs : List Raise) : Plan :=
  { raises := rs, reads := xs reads, writes := xw d lat }
/-- A cause that reports an operand. -/
def atOperand (cause : Nat) (v : DWord) : Raise := { cause := cause, tval := v }

/-! ## Atomics of NKX (R298, R299) -/

/-- AMO_BADD (R298). -/
def mAmoBadd (b : Reg) (a : Reg) (d : Reg) : Meaning :=
  .once fun e s =>
    let x := s.ctx.x b
    homePlan e s
      { va := s.ctx.x a, align := 4, kind := .atomic, op := .badd (wd (bitsOf x 0 32)) (wd (bitsOf x 32 32)), aq := false, rel := false,
        more := fun _ => if bitsOf x 32 32 = 0xFFFFFFFF then [atOperand 0x75 x] else [] } [a, b] d
def execAmoBadd (b : Reg) (a : Reg) (d : Reg) (s : State) : Host.Outcome State Fault Refusal := issueWord (mAmoBadd b a d) s

/-- AMO_TOPK (R299). -/
def mAmoTopk (b : Reg) (a : Reg) (d : Reg) : Meaning :=
  .once fun e s =>
    let x := s.ctx.x b
    let k := bitsOf x 28 4
    homePlan e s
      { va := s.ctx.x a, align := 64, kind := .atomic, aq := false, rel := false
        op := .topk k (wd (bitsOf x 32 32)) (BitVec.ofNat 16 (bitsOf x 0 16))
        more := fun _ =>
          if k < 2 ∨ 8 < k ∨ bitsOf x 32 32 = 0xFFFFFFFF ∨ bitsOf x 16 12 ≠ 0 then [atOperand 0x75 x] else [] } [a, b] d
def execAmoTopk (b : Reg) (a : Reg) (d : Reg) (s : State) : Host.Outcome State Fault Refusal := issueWord (mAmoTopk b a d) s

/-! ## Fences and the promoting acquire (R300, R301) -/

/-- FENCE_S (R300, R262). -/
def mFenceS (s : Fin 4) (p : Fin 4) : Meaning :=
  .once fun e st => fencePlan e st (p.val.testBit 0) (p.val.testBit 1) (s.val.testBit 0) (s.val.testBit 1)
def execFenceS (s : Fin 4) (p : Fin 4) (st : State) : Host.Outcome State Fault Refusal := issueWord (mFenceS s p) st

/-- Cause 0x80 on a page without SYNC. -/
def needsSync (va : DWord) (x : Access) : List Raise :=
  if x.region = .hole ∧ x.trans = Trans.none then [] else if attrSync x.trans.attr then [] else [atVa 0x80 va]

/-- ACQP (R254, R276, R284, R301): a read, whose uncorrectable data is delivered as to a scalar register. -/
def mAcqp (a : Reg) (d : Reg) : Meaning :=
  .once fun e s =>
    let va := s.ctx.x a
    let x := s.access va 8 .read false
    let line := lineOf x.loc
    let far := if x.region = .host ∨ x.region = .device then [atVa 0x72 va] else []
    let base : Plan := { reads := xs [a], writes := xw d 3, mem := true, closes := true }
    let finish (v : DWord) (s : State) : State := (s.acquireOrder e.scope).launchX 3 d v
    let before (s : State) : State := s.beforeHome e.scope false true va x
    let local_ (s : State) : State := (before s).l2Req line (attrHint x.trans.attr)
    if x.raises ++ needsSync va x ++ far ≠ [] then { base with raises := x.raises ++ needsSync va x ++ far }
    else match s.answerFor x.loc 8 with
      | some (.value v, false) => { base with effs := [(.smem, finish v)] }
      | some (.uncorrectable, false) => { base with raises := [atVa 0xA1 va] }
      | some _ => { base with raises := [atVa 0x74 va] }
      | none =>
        let once (f : State → State) (s : State) : State := if (s.asked x.loc 8).isSome then s else f s
        if farRegion x.region x.loc then
          { base with holds := [.remote], ask := some (once fun s => (before s).request x.loc 8 (.acqp x.loc e.scope)) }
        else if (s.asked x.loc 8).isSome then { base with holds := [.promotion] }
        else
          let s1 := s.yieldLine line
          let v := dw (s1.numAt x.loc 8)
          if s1.badLine line then { base with raises := [atVa 0xA1 va] }
          else match s1.acqpRequest s.self e.scope line with
            | none => { base with effs := [(.smem, fun s => finish v (local_ s))] }
            | some r => { base with holds := [.promotion], ask := some (once fun s =>
                let s := local_ s
                (((s.awaits x.loc 8).newTag).askPromotion s.self s.pkg.tags line r e.scope v)) }
def execAcqp (a : Reg) (d : Reg) (s : State) : Host.Outcome State Fault Refusal := issueWord (mAcqp a d) s

/-! ## Barriers (R302 to R307) -/

/-- BINIT (R304). -/
def mBinit (b : Reg) (a : Reg) (d : Reg) : Meaning :=
  .once fun e s =>
    let n := s.ctx.x b
    homePlan e s
      { va := s.ctx.x a, align := 64, kind := .atomic, op := .binit (wd (bitsOf n 0 32)), aq := false, rel := true,
        more := fun x => needsSync (s.ctx.x a) x ++
          (if bitsOf n 0 32 = 0 ∨ bitsOf n 32 32 ≠ 0 then [atOperand 0x81 n] else []) } [a, b] d
def execBinit (b : Reg) (a : Reg) (d : Reg) (s : State) : Host.Outcome State Fault Refusal := issueWord (mBinit b a d) s

/-- Cause 0x82 of an arrival. -/
def judgeArrival (va v : DWord) : List Raise := if v = notInit then [atVa 0x82 va] else []
/-- Cause 0x82 of a read of G. -/
def judgeRead (va g : DWord) : List Raise := if bitsOf g 32 32 = 0 then [atVa 0x82 va] else []

/-- BARR (R305). -/
def mBarr (b : Reg) (a : Reg) (d : Reg) : Meaning :=
  .once fun e s =>
    homePlan e s
      { va := s.ctx.x a, align := 64, kind := .atomic, op := .barr (if b = 0 then none else some (s.ctx.x b)), aq := false, rel := true,
        more := needsSync (s.ctx.x a), judge := judgeArrival (s.ctx.x a) } [a, b] d
def execBarr (b : Reg) (a : Reg) (d : Reg) (s : State) : Host.Outcome State Fault Refusal := issueWord (mBarr b a d) s

/-- complete(G) (R303) from the barrier's current generation. -/
def genComplete (cur g : DWord) : Bool :=
  ({ epoch := wd (bitsOf cur 32 32), gen := wd (bitsOf cur 0 32), arrived := 0, expect := 0, stale := 0 } : Barrier).complete g

/-- A wait that returns completion tells it to the pending swap of its context that waits for the barrier (R184). -/
def State.swapNotice (l : Loc) (v : DWord) (s : State) : State :=
  s.modMyMat (fun m => { m with swap := vmod m.swap s.recIdx (fun w => w.map (fun x => if x.loc = l then { x with seen := some v } else x)) })

/-- The wait for a generation (R306): a plan that reads G, and waits unless the generation is complete. -/
def waitPlan (e : Env) (s : State) (va g : DWord) (result : DWord → DWord) (after : State → State) (reads : List Reg) (d : Reg) : Plan :=
  let x := s.access va 64 .atomic true
  let p := homePlan e s
    { va := va, align := 64, kind := .atomic, op := .bread g, aq := true, rel := false, more := needsSync va,
      judge := judgeRead va, result := result, after := fun _ s => after s } reads d
  let told (v : DWord) : Plan := { p with effs := p.effs ++ [(.control, State.swapNotice x.loc v)] }
  if p.raises ≠ [] then p
  else if farRegion x.region x.loc then
    match s.answerFor x.loc 64 with
    | some (.value v, false) =>
      if genComplete v g then told v
      else { p with effs := [], holds := [.barrier], ask := some (State.reask x.loc 64 (.atomic (.bread g) x.loc e.scope)) }
    | _ => { p with holds := [.barrier] }
  else
    let v := dw ((s.yieldLine (lineOf x.loc)).numAt x.loc 8)
    if genComplete v g then told v
    else { p with effs := [], holds := [.barrier] }

/-- BWAIT (R306). -/
def mBwait (b : Reg) (a : Reg) (d : Reg) : Meaning :=
  .once fun e s =>
    let g := s.ctx.x b
    waitPlan e s (s.ctx.x a) g (fun cur => if bitsOf cur 32 32 = bitsOf g 32 32 then 0 else 1) id [a, b] d
def execBwait (b : Reg) (a : Reg) (d : Reg) (s : State) : Host.Outcome State Fault Refusal := issueWord (mBwait b a d) s

/-- BARW (R307). -/
def mBarw (a : Reg) (d : Reg) : Meaning :=
  .once fun e s =>
    let va := s.ctx.x a
    let x := s.access va 64 .atomic true
    let done (s : State) : State := s.modCtx (fun c => { c with arrived := none })
    let gone (g : DWord) (s : State) : State := s.modCtx (fun c => { c with arrived := some (e.pc, x.loc, g) })
    let waiting (g : DWord) : Plan :=
      waitPlan e s va g (fun cur => if bitsOf cur 32 32 = bitsOf g 32 32 then g else 0) done [a] d
    match s.ctx.arrived with
    | some (p, l, g) => if p = e.pc ∧ l = x.loc then waiting g else { reads := xs [a], holds := [.barrier], ask := some done }
    | none =>
      let p := homePlan e s
        { va := va, align := 64, kind := .atomic, op := .barr none, aq := true, rel := true, more := needsSync va,
          judge := judgeArrival va } [a] d
      if p.raises ≠ [] ∨ p.holds.contains .acks then p
      else if farRegion x.region x.loc then
        match s.answerFor x.loc 64 with
        | some (.value v, false) => { p with effs := [], holds := [.barrier], ask := some (fun s => (gone v s).forget) }
        | _ => p
      else
        let b := barrierOf (fun o n => (s.yieldLine (lineOf x.loc)).numAt (x.loc + o) n)
        if b.arrived + 1 = b.expect then p
        else { p with effs := [], holds := [.barrier]
                      ask := some (fun s => let r := s.atHome e.scope true true va x (.barr none); gone r.1 r.2) }
def execBarw (a : Reg) (d : Reg) (s : State) : Host.Outcome State Fault Refusal := issueWord (mBarw a d) s

/-! ## Handles and translation (R238 to R242, R289 to R292) -/

/-- Word w of a handle as XPROBE reads it (R238). -/
def HandleReg.word (h : HandleReg) (w : Nat) : DWord :=
  match w with
  | 0 => h.vbase
  | 1 => h.pbase
  | 2 => dw (h.attr.toNat * 4 + h.cause.toNat * 2 ^ 52 + h.size.val * 2 ^ 60 +
      (match h.state with | .empty => 0 | .valid => 1 | .revoked => 2 | .faulted => 3) * 2 ^ 62)
  | _ => dw (h.asid.toNat + h.epoch.toNat * 2 ^ 32)

def State.epoch (s : State) (asid : BitVec 12) : Word := tget 0 s.pkg.epochs asid.toNat

/-- The handle that a walk gives (R239, R289). A faulted handle's frame, size and attributes are not stated: free (log 16). -/
def State.makeHandle (s : State) (va : DWord) (need : Need) : HandleReg :=
  let c := s.ctx
  let ep := s.epoch c.csrs.asid
  match s.walk c.csrs.asid va need (!c.csrs.prv) with
  | .ok t =>
    { vbase := dw (va.toNat / pageBytes t.size * pageBytes t.size), pbase := dw (t.frame % 2 ^ 60), state := .valid, size := t.size,
      cause := 0, attr := t.attr, epoch := ep, asid := c.csrs.asid }
  | .error n =>
    let f := (Config.freeWord s.fresh).toNat
    { vbase := dw (va.toNat / 2 ^ 16 * 2 ^ 16), pbase := dw (f / 2 ^ 16 % 2 ^ 44 * 2 ^ 16), state := .faulted, size := Fin.ofNat 3 f,
      cause := BitVec.ofNat 8 n, attr := BitVec.ofNat 10 (f / 4), epoch := ep, asid := c.csrs.asid }

/-- XLATE (R239, R289). -/
def mXlate (b : Reg) (a : Reg) (h : Fin 16) : Meaning :=
  .once fun _ s =>
    let k := s.ctx.x b
    let base : Plan := { reads := xs [a, b], writes := [(.h h, 24)] }
    if k = 0 ∨ 3 < k then { base with raises := [atOperand 0x6B k] }
    else
      let need : Need := { r := k.getLsbD 0, w := k.getLsbD 1, x := false }
      { base with effs := [(.main, fun t => (t.launch 24 (.h h (s.makeHandle (s.ctx.x a) need))).drawn)] }
def execXlate (b : Reg) (a : Reg) (h : Fin 16) (s : State) : Host.Outcome State Fault Refusal := issueWord (mXlate b a h) s

/-- XPROBE (R290). -/
def mXprobe (w : Fin 4) (h : Fin 16) (d : Reg) : Meaning :=
  .once fun _ s =>
    let v := if w = 1 ∧ !s.ctx.csrs.prv then 0 else (s.ctx.h h).word w.val
    { reads := [.h h], writes := xw d 1, effs := [(.main, State.launchX 1 d v)] }
def execXprobe (w : Fin 4) (h : Fin 16) (d : Reg) (s : State) : Host.Outcome State Fault Refusal := issueWord (mXprobe w h d) s

/-- HREL (R291). -/
def mHrel (h : Fin 16) : Meaning :=
  .once fun _ _ => { writes := [(.h h, 1)], effs := [(.main, State.launch 1 (.h h HandleReg.reset))] }
def execHrel (h : Fin 16) (s : State) : Host.Outcome State Fault Refusal := issueWord (mHrel h) s

/-- A range of an address space: the page of a size that holds an address, or all of it. -/
structure VRange where
  asid : BitVec 12
  lo : Nat
  hi : Nat
  deriving DecidableEq, Repr

def vRange (asid : BitVec 12) (va : DWord) (sz : Nat) : VRange :=
  if sz = 3 then { asid := asid, lo := 0, hi := 2 ^ 64 }
  else
    let n := pageBytes (Fin.ofNat 3 sz)
    { asid := asid, lo := va.toNat / n * n, hi := va.toNat / n * n + n }
def VRange.meets (r : VRange) (asid : BitVec 12) (base n : Nat) : Bool :=
  r.asid == asid && decide (base < r.hi ∧ r.lo < base + n)

/-- A handle whose page overlaps the range is revoked (R241). -/
def HandleReg.revoke (r : VRange) (h : HandleReg) : HandleReg :=
  if h.state = .valid ∧ r.meets h.asid h.vbase.toNat (pageBytes h.size) then { h with state := .revoked } else h
def Write.revoke (r : VRange) : Write → Write
  | .h d k => .h d (k.revoke r)
  | k => k
def Flight.revoke (r : VRange) (f : Flight) : Flight := { f with w := f.w.revoke r }
/-- The handles of a context, those still to land included, and its translation cache (R235, R289). -/
def Ctx.revoke (r : VRange) (c : Ctx) : Ctx :=
  { c with regs := { c.regs with h := c.regs.h.map (HandleReg.revoke r) }, flights := c.flights.map (Flight.revoke r),
           parked := c.parked.map (fun p => { p with writes := p.writes.map (Flight.revoke r) }),
           tlb := c.tlb.filter (fun t => !r.meets t.asid t.vbase (pageBytes t.size)) }

def Place.handles : Place → List HandleReg
  | .sram _ => []
  | .page h _ => [h]
/-- The handles a command captured. -/
def Job.handles : Job → List HandleReg
  | .copy a b .. => a.handles ++ b.handles
  | .gather a .. | .scatter a .. | .latch a .. | .shelf a .. | .bin a .. | .exrel a => a.handles
  | .route a b _ r t | .routec a b _ r t => a.handles ++ b.handles ++ [r, t]
  | .coll _ a b _ _ | .sealgen a b _ _ => a.handles ++ b.handles
  | .exfetch _ | .expin .. => []
/-- Commands whose items that have not started fail (R340). -/
def Cmd.revoke (r : VRange) (c : Cmd) : Cmd :=
  if c.job.handles.any (fun h => r.meets h.asid h.vbase.toNat (pageBytes h.size)) then { c with revoked := true } else c
def State.revokeCmds (p : Cmd → Bool) (r : VRange) (s : State) : State :=
  s.modCore (fun k => { k with queues := k.queues.map (fun q => { q with cmds := q.cmds.map (fun c => if p c then c.revoke r else c) }) })

/-- The local form of HINV (R292). -/
def State.revokeLocal (r : VRange) (s : State) : State :=
  (s.modCtx (Ctx.revoke r)).revokeCmds (fun c => c.owner == s.ctx.ident) r

/-- A change of the context-save operations in progress. -/
def State.modEngines (f : CtxOp → CtxOp) (s : State) : State :=
  (s.modSeq .a (fun q => { q with engOp := q.engOp.map f })).modSeq .b (fun q => { q with engOp := q.engOp.map f })
/-- A shootdown (R235, R241): every handle and translation cache of the address space, and its epoch. -/
def State.shootdown (r : VRange) (s : State) : State :=
  let s := (s.modAllBanks (fun _ _ c => c.revoke r)).modEngines (fun o =>
    { o with lost := o.lost || o.pieces.any (fun k => r.meets o.asid (o.area.toNat + k * 65536) 65536) })
  (s.revokeCmds (fun _ => true) r).modPkg (fun p => { p with
    epochs := tset 0 p.epochs r.asid.toNat (tget 0 p.epochs r.asid.toNat + 1),
    parkedCtx := p.parkedCtx.map (fun x => { x with ctx := x.ctx.revoke r }) })

/-- Whether accesses made under translations of an address space are still open (R241): items of commands on pages in the range that
have started, landings that wait for data, writes without acknowledgement, scalar accesses that wait, and stores that an open segment
holds. Those of the running context count where `own`: the segment of a bundle that revokes closes before it issues. -/
def State.oldAccesses (own : Bool) (r : VRange) (s : State) : Bool :=
  let cmd (q : Fin 2) (c : Cmd) : Bool :=
    c.job.handles.any (fun h => r.meets h.asid h.vbase.toNat (pageBytes h.size)) && (c.asked.isSome || !c.far.isEmpty || s.cmdOpen q c.num)
  let late (c : Ctx) : Bool := c.csrs.asid == r.asid && (c.flights.any Flight.late || c.parked.any (fun p => p.writes.any Flight.late))
  let waits (h : Half) (b : Fin 2) (c : Ctx) : Bool :=
    (own || !(h == s.core.active && b == s.sq.running)) && c.csrs.asid == r.asid &&
      (c.remote.any (fun x => x.answer.isNone && !x.lost) || (match c.seg with | some g => !g.stores.isEmpty | none => false))
  ([0, 1] : List (Fin 2)).any (fun q => (s.core.queues.get q).cmds.any (cmd q)) || s.unacked .a || s.unacked .b ||
    s.allBanks.any (fun (h, b, c) => late c || waits h b c) || s.pkg.parkedCtx.any (fun p => late p.ctx)
def State.revokeHolds (s : State) (r : VRange) : List Hold := if s.oldAccesses false r then [.revoking] else []

/-- HINV (R235, R241, R292). -/
def mHinv (b : Reg) (a : Reg) (d : Reg) : Meaning :=
  .once fun e s =>
    let k := s.ctx.x b
    let glob := k.getLsbD 0
    let rs : List Raise :=
      (if glob ∧ !s.ctx.csrs.prv then [e.bad 0x0C] else []) ++
      (if bitsOf k 4 48 ≠ 0 ∨ bitsOf k 1 1 ≠ 0 ∨ (!glob ∧ bitsOf k 52 12 ≠ 0) then [atOperand 0x6B k] else [])
    if rs ≠ [] then badPlan [a, b] d 1 rs
    else
      let r := vRange (if glob then BitVec.ofNat 12 (bitsOf k 52 12) else s.ctx.csrs.asid) (s.ctx.x a) (bitsOf k 2 2)
      { abPlan [a, b] d 0 [(.smem, fun t => if glob then (t.shootdown r).freeFreeze else t.revokeLocal r)] with
        closes := glob, holds := if glob then s.revokeHolds r else [] }
def execHinv (b : Reg) (a : Reg) (d : Reg) (s : State) : Host.Outcome State Fault Refusal := issueWord (mHinv b a d) s

/-! ## SPLNT (R236, R293) -/

/-- The status of a SPLNT, with the old leaf where it is 0. -/
def State.splinter (s : State) (asid : BitVec 12) (va : DWord) (table : Nat) : DWord × Option Trans :=
  match s.walkAny asid va { r := false, w := false, x := false } false with
  | .error _ => (2, none)
  | .ok t =>
    if (t.size = 2 ∧ table % 4096 ≠ 0) ∨ (t.size = 1 ∧ table % 256 ≠ 0) then (4, none)
    else if t.mig then (3, none)
    else if t.size = 0 then (1, none)
    else (0, some t)

/-- The new table and the entry that names it, then the shootdown of the old page. -/
def State.splinterNow (asid : BitVec 12) (va : DWord) (table : Nat) (t : Trans) (s : State) : State :=
  let e := s.numAt t.leaf 8
  let tl := s.pkgId * 2 ^ 43 + table
  let (n, sz) := if t.size = 2 then (512, 2 ^ 21) else (32, 2 ^ 16)
  let bs := (List.range n).flatMap (fun i => leBytes 8 (e + i * sz))
  let s := (s.writeHome s.me (placed tl bs)).writeHome s.me (placed t.leaf (leBytes 8 (tl + 1)))
  (s.shootdown (vRange asid va t.size.val)).freeFreeze

/-- SPLNT (R236, R293). -/
def mSplnt (b : Reg) (a : Reg) (d : Reg) : Meaning :=
  .once (supervisor fun _ s =>
    let k := s.ctx.x b
    if bitsOf k 40 12 ≠ 0 ∨ bitsOf k 0 8 ≠ 0 then badPlan [a, b] d 1 [atOperand 0x6B k]
    else
      let asid : BitVec 12 := BitVec.ofNat 12 (bitsOf k 52 12)
      let table := bitsOf k 8 32 * 256
      let r := s.splinter asid (s.ctx.x a) table
      match r.2 with
      | some t =>
        { abPlan [a, b] d r.1 [(.smem, State.splinterNow asid (s.ctx.x a) table t)] with
          closes := true, holds := s.revokeHolds (vRange asid (s.ctx.x a) t.size.val) }
      | none => abPlan [a, b] d r.1 [])
def execSplnt (b : Reg) (a : Reg) (d : Reg) (s : State) : Host.Outcome State Fault Refusal := issueWord (mSplnt b a d) s

/-! ## Retention (R250, R251, R308 to R310) -/

/-- A retention register of a slice is set or cleared. -/
def State.setRet (sl n : Nat) (a b : Nat) (s : State) : State :=
  (s.setDev (devCluster sl (16 * n)) (dw a)).setDev (devCluster sl (16 * n + 8)) (dw b)
/-- The four slices of a die. -/
def dieSlices (d : Nat) : List Nat := (List.range 4).map (4 * d + ·)

/-- Which register and first way a PIN takes, or its status (R308). -/
def State.pinPlace (s : State) (d lo hi ways : Nat) : Except Nat (Nat × Nat) :=
  let sls := dieSlices d
  let overlap := sls.any (fun sl => (List.range 8).any (fun n => match s.retReg sl n with
    | some (_, _, b, l, _) => decide (b * 64 < hi ∧ lo < l * 64)
    | none => false))
  if overlap then .error 3
  else match (List.range 8).find? (fun n => sls.all (fun sl => (s.retReg sl n).isNone)) with
    | none => .error 1
    | some n =>
      match ((List.range 16).filter (fun f => 4 ≤ f && f + ways ≤ 16)).find? (fun f =>
          sls.all (fun sl => (List.range ways).all (fun i => !s.wayReserved sl (f + i)))) with
      | none => .error 2
      | some f => .ok (n, f)

/-- PIN takes one line of its range (R308): one in a way of its register stays there, one in an unreserved way moves into a free way of
the register, and what is left outside them counts as an overflow. -/
def State.pinLine (f ways : Nat) (line : Loc) (s : State) : State :=
  let sl := homeSlice line
  let here := s.setLines sl (homeSet line)
  let free := ((List.range ways).map (· + f)).find? (fun w => here.all (fun x => x.way.val != w))
  match here.find? (fun x => x.line == line) with
  | some x =>
    if f ≤ x.way.val ∧ x.way.val < f + ways then s
    else match free, s.wayReserved sl x.way.val with
      | some w, false => s.modPkg (fun p => { p with l2 := p.l2.map (fun y => if y = x then { y with way := Fin.ofNat 16 w } else y) })
      | _, _ => s.bump (devCluster sl 0x90) 1
  | none => s.l2Fill line 2

def State.pinNow (d n f ways lo hi : Nat) (first : Loc) (s : State) : State :=
  let s := (dieSlices d).foldl (fun s sl => s.setRet sl n (2 ^ 63 + ways * 2 ^ 56 + f * 2 ^ 52 + lo)
    (s.ctx.csrs.asid.toNat * 2 ^ 52 + hi)) s
  ((List.range ((hi - lo) / 64)).foldl (fun s i => s.pinLine f ways (first + 64 * i)) s).freeFreeze

/-- PIN (R250, R251, R308). Where its status is not 0, the register index is 0 (log 86). -/
def mPin (b : Reg) (a : Reg) (d : Reg) : Meaning :=
  .once fun _ s =>
    let va := s.ctx.x a
    let k := s.ctx.x b
    let len := bitsOf k 0 32
    let ways := bitsOf k 32 4
    let bad : List Raise := [atOperand 0x76 k]
    let c0 := decide (va.toNat % 64 ≠ 0 ∨ len = 0 ∨ len % 64 ≠ 0 ∨ ways = 0 ∨ 12 < ways ∨ bitsOf k 36 28 ≠ 0)
    match s.translate AccessKind.read.need va with
    | .error c => badPlan [a, b] d 1 ({ cause := c, tval := va, fault := some .read } :: (if c0 then bad else []))
    | .ok t =>
      let l := t.loc s.die va
      if c0 ∨ va.toNat % pageBytes t.size + len > pageBytes t.size ∨ s.region false l ≠ .hbm then badPlan [a, b] d 1 bad
      else
        let lo := locOff l
        let fill := State.tlbFill va t
        match s.pinPlace (homeDie l) lo (lo + len) ways with
        | .error st => abPlan [a, b] d (dw st) [(.smem, fill)]
        | .ok (n, f) =>
          abPlan [a, b] d (dw (n * 16)) [(.smem, fun t => (fill t).pinNow (homeDie l) n f ways lo (lo + len) l)]
def execPin (b : Reg) (a : Reg) (d : Reg) (s : State) : Host.Outcome State Fault Refusal := issueWord (mPin b a d) s

/-- UNPIN (R309). -/
def mUnpin (a : Reg) (d : Reg) : Meaning :=
  .once fun _ s =>
    let va := s.ctx.x a
    match s.translate AccessKind.read.need va with
    | .error c => badPlan [a] d 1 [{ cause := c, tval := va, fault := some .read }]
    | .ok t =>
      let l := t.loc s.die va
      let hit := if s.region false l ≠ .hbm then none else
        (List.range 8).find? (fun n => match s.retReg (4 * homeDie l) n with
          | some (_, _, b, e, as) => decide (b ≤ locOff l / 64 ∧ locOff l / 64 < e) && (s.ctx.csrs.prv || as == s.ctx.csrs.asid.toNat)
          | none => false)
      match hit with
      | none => abPlan [a] d 1 [(.smem, State.tlbFill va t)]
      | some n => abPlan [a] d 0 [(.smem, fun s => (dieSlices (homeDie l)).foldl (fun s sl => s.setRet sl n 0 0) (s.tlbFill va t))]
def execUnpin (a : Reg) (d : Reg) (s : State) : Host.Outcome State Fault Refusal := issueWord (mUnpin a d) s

/-- PREFL2 (R310). -/
def mPrefl2 (b : Reg) (a : Reg) (d : Reg) : Meaning :=
  .once fun _ s =>
    let va := s.ctx.x a
    let k := s.ctx.x b
    let len := bitsOf k 0 32
    let bad := badPlan [a, b] d 1 [atOperand 0x76 k]
    if bitsOf k 32 2 = 3 ∨ bitsOf k 34 30 ≠ 0 ∨ len = 0 ∨ len % 64 ≠ 0 then bad
    else match s.translate AccessKind.read.need va with
      | .error _ => abPlan [a, b] d 2 []
      | .ok t =>
        let l := t.loc s.die va
        let rg := s.region false l
        if va.toNat % pageBytes t.size + len > pageBytes t.size then bad
        else if rg ≠ .hbm ∧ rg ≠ .cellar then abPlan [a, b] d 3 [(.smem, State.tlbFill va t)]
        else abPlan [a, b] d 0 [(.smem, fun s => (s.tlbFill va t).l2Reqs l len (Fin.ofNat 4 (bitsOf k 32 2)))]
def execPrefl2 (b : Reg) (a : Reg) (d : Reg) (s : State) : Host.Outcome State Fault Refusal := issueWord (mPrefl2 b a d) s

/-! ## Bank modes (R243 to R246, R311) -/

def BankMode.code : BankMode → Nat
  | .cache => 0 | .scratch => 1 | .fifo => 2
def BankMode.ofCode : Nat → BankMode
  | 0 => .cache | 1 => .scratch | _ => .fifo

/-- The bytes of a bank become zero, and its errors go. -/
def State.zeroBank (b : Fin 64) (s : State) : State :=
  s.modCore (fun c => { c with sram := c.sram.filter (fun p => decide (p.1 / 65536 ≠ b.val)),
                               sramBad := c.sramBad.filter (fun w => decide (w / 65536 ≠ b.val)) })

/-- A mode change of one bank (R245). -/
def State.setBank (b : Fin 64) (m : BankMode) (s : State) : State :=
  let old := s.core.bankMode.get b
  if old = m then s
  else
    let ways := s.core.cache.filter (fun x => x.way == b)
    let s := if old = .cache then
        let s := (ways.filter (fun x => x.dirty != 0)).foldl (fun s x => s.writeBack x) s
        (s.modCore (fun c => { c with cache := c.cache.filter (fun x => x.way != b) })).zeroBank b
      else if m = .cache then s.zeroBank b else s
    s.modCore (fun c => { c with bankMode := vset c.bankMode b m })

/-- A bank of a configured bin. -/
def State.binBank (s : State) (b : Nat) : Bool :=
  s.core.mat.bins.toList.any (fun k => decide (k.nbank ≠ 0 ∧ k.base ≤ b ∧ b < k.base + k.nbank))

/-- BMODE (R243, R244, R245, R246, R311). -/
def mBmode (b : Reg) (a : Reg) (d : Reg) : Meaning :=
  .once fun _ s =>
    let x := s.ctx.x a
    let y := s.ctx.x b
    let n := bitsOf x 0 6
    let b' : Fin 64 := Fin.ofNat 64 n
    let rs : List Raise :=
      (if bitsOf x 6 58 ≠ 0 ∨ bitsOf y 2 62 ≠ 0 ∨ bitsOf y 0 2 = 3 then [atOperand 0x59 y] else []) ++
      (if s.foreignBank n then [atOperand 0x52 x] else []) ++
      (if !s.ctx.csrs.prv && s.inAttic n then [atOperand 0x53 x] else []) ++
      (if s.binBank n then [atOperand 0x58 x] else [])
    let m := BankMode.ofCode (bitsOf y 0 2)
    let wb := s.core.cache.any (fun k => k.way == b' && k.dirty != 0)
    { abPlan [a, b] d (dw (s.core.bankMode.get b').code)
        [(.main, fun s => if wb then (s.setBank b' m).freeFreeze else s.setBank b' m)] with
      raises := rs, closes := true
      holds := if s.core.ranges.any (fun r => decide (r.lo < (n + 1) * 65536 ∧ n * 65536 < r.hi)) then [.ranges] else [] }
def execBmode (b : Reg) (a : Reg) (d : Reg) (s : State) : Host.Outcome State Fault Refusal := issueWord (mBmode b a d) s

end Sys2Proof.Machine
end

