-- ==== Sys2Proof/Machine/Control.lean ====
section
/-! DEFINITION. The CSRs (R11, R13, R101 to R106), EVPOST and RDTIME (R121, R122), BANKSW (R118), and the context-save engine (R119,
R120). -/

namespace Sys2Proof.Machine

/-! ## The CSR map (R102, R103) -/

/-- A CSR's access: whether it is read only, and whether it needs supervisor level. None where the map lists no such CSR. -/
def csrAccess (n : Nat) : Option (Bool × Bool) :=
  match n with
  | 0x001 | 0x002 | 0x003 | 0x800 | 0x801 | 0x802 => some (false, false)
  | 0xC00 | 0xC01 | 0xC02 | 0xCC0 | 0xCC1 | 0xCC2 | 0xCC3 | 0xCC4 | 0xCC5 => some (true, false)
  | 0x5C0 | 0x5C1 | 0x5C2 | 0x5C3 | 0x5C4 | 0x5C6 | 0x5C7 | 0x5C8 | 0x5C9 | 0x5CA => some (false, true)
  | 0x5C5 | 0x5CB | 0x5CC => some (true, true)
  | _ => none

def Csrs.rdvset (c : Csrs) : DWord := dw (c.rdvCount.toNat + c.rdvSize.toNat * 2 ^ 32 + c.rdvEn.toNat * 2 ^ 48)
/-- tstat as it reads (R104). -/
def Ctx.tstat (c : Ctx) : DWord :=
  dw (c.csrs.prv.toNat + c.csrs.ie.toNat * 2 + c.csrs.pie.toNat * 4 + c.csrs.pprv.toNat * 8 + c.csrs.sbm.toNat * 16 +
    c.shb.toNat * 256 + c.csrs.intrap.toNat * 512)
def Csrs.tvec (c : Csrs) : DWord := dw (c.tvecBase.toNat * 4096 + c.tvecVec.toNat)
def Csrs.segbase (c : Csrs) : DWord := dw (c.uoff.toNat + c.ulen.toNat * 2 ^ 32)
/-- ctxeng (R120). -/
def Seq.ctxeng (q : Seq) : DWord := dw (q.engOp.isSome.toNat + q.engLoad.toNat * 2 + q.engStatus.val * 256)
def State.coreidReg (s : State) : DWord :=
  dw (s.coreId.toNat + (if s.core.split ∧ s.core.active = .b then 2 ^ 16 else 0))

/-- The value of a CSR of a context. -/
def Ctx.csr (c : Ctx) (n : Nat) : DWord :=
  let k := c.csrs
  match n with
  | 0x001 => k.fflags.zeroExtend 64
  | 0x002 => k.frm.zeroExtend 64
  | 0x003 => k.fcsr
  | 0xC02 => k.instret
  | 0x800 => k.sbmode.zeroExtend 64
  | 0x801 => k.vflags.zeroExtend 64
  | 0x802 => k.rdvset
  | 0xCC1 => k.ilkcyc
  | 0xCC4 => dw c.loops.length
  | 0x5C0 => k.tcause.zeroExtend 64
  | 0x5C1 => k.tepc
  | 0x5C2 => k.tval
  | 0x5C3 => c.tstat
  | 0x5C4 => k.tvec
  | 0x5C5 => k.tnext
  | 0x5C6 => k.tscratch
  | 0x5C7 => k.asid.zeroExtend 64
  | 0x5C8 => k.segbase
  | 0x5CC => k.tcause2.zeroExtend 64
  | _ => 0

/-- The value of a CSR at the issue cycle. -/
def State.csr (s : State) (n : Nat) : DWord :=
  match n with
  | 0xC00 => s.sq.cycle
  | 0xC01 => dw s.nowNs
  | 0xCC0 => s.sq.frzcyc
  | 0xCC2 => s.coreidReg
  | 0xCC3 => dw s.pkgId
  | 0xCC5 => s.sq.evdrop
  | 0x5C9 => s.sq.binwd
  | 0x5CA => (s.sq.banks.get (otherBank s.sq.running)).pc
  | 0x5CB => s.sq.ctxeng
  | n => s.ctx.csr n

/-- A write to a context CSR: the RW fields alone (R23, R103 to R105, R195, R435). -/
def Csrs.write (n : Nat) (v : DWord) (c : Csrs) : Csrs :=
  match n with
  | 0x001 => { c with fflags := v.truncate 5 }
  | 0x002 => { c with frm := v.truncate 3 }
  | 0x003 => c.setFcsr v
  | 0x800 => if bitsOf v 0 2 = 3 then c else { c with sbmode := v.truncate 2 }
  | 0x801 => { c with vflags := v.truncate 8 }
  | 0x802 => { c with rdvEn := v.getLsbD 48 }
  | 0x5C0 => { c with tcause := v.truncate 8 }
  | 0x5C1 => { c with tepc := align16 v }
  | 0x5C2 => { c with tval := v }
  | 0x5C3 => { c with intrap := v.getLsbD 9, sbm := BitVec.ofNat 2 (bitsOf v 4 2), pprv := v.getLsbD 3, pie := v.getLsbD 2,
                      ie := v.getLsbD 1 }
  | 0x5C4 => { c with tvecBase := BitVec.ofNat 52 (bitsOf v 12 52), tvecVec := v.getLsbD 0 }
  | 0x5C6 => { c with tscratch := v }
  | 0x5C7 => { c with asid := v.truncate 12 }
  | 0x5C8 => { c with uoff := v.truncate 22, ulen := BitVec.ofNat 11 (bitsOf v 32 11) }
  | _ => c

/-- A CSR write takes effect for the first bundle after (R102). Flags that land in the cycle of a write of vflags are ORed into the value
(R59). bkpc keeps an address that is not 16 B aligned as it is written (log 88). -/
def State.writeCsr (n : Nat) (v : DWord) (s : State) : State :=
  match n with
  | 0x5C9 => s.modSq (fun q => { q with binwd := v })
  | 0x5CA => s.modSq (fun q => q.modBank (otherBank q.running) (fun c => { c with pc := v }))
  | 0x801 => s.modCtx (fun c => { c with csrs := { c.csrs.write n v with
      vflags := v.truncate 8 ||| (if c.flagged.1 = c.rc then c.flagged.2 else 0) } })
  | n => s.modCsrs (Csrs.write n v)

/-- A CSR instruction: `f` gives the new value from the old, or none where it writes nothing. -/
def csrPlan (e : Env) (s : State) (n : BitVec 12) (reads : List Reg) (d : Reg) (f : DWord → Option DWord) : Plan :=
  let old := s.csr n.toNat
  let new := f old
  let rs : List Raise := match csrAccess n.toNat with
    | none => [e.bad 0x02]
    | some (ro, sup) => (if ro ∧ new.isSome then [e.bad 0x02] else []) ++ (if sup ∧ !s.ctx.csrs.prv then [e.bad 0x0C] else [])
  { raises := rs, reads := xs reads, writes := xw d 1
    effs := (.control, fun s => match new with | some v => s.writeCsr n.toNat v | none => s) :: [(.main, State.launchX 1 d old)] }

/-- CSRRW (R102, R103). -/
def mCsrrw (n : BitVec 12) (d : Reg) (a : Reg) : Meaning := .once fun e s => csrPlan e s n [a] d (fun _ => some (s.ctx.x a))
def execCsrrw (n : BitVec 12) (d : Reg) (a : Reg) (s : State) : Host.Outcome State Fault Refusal := issueWord (mCsrrw n d a) s

/-- CSRRS (R102, R103). -/
def mCsrrs (n : BitVec 12) (d : Reg) (a : Reg) : Meaning :=
  .once fun e s => csrPlan e s n [a] d (fun v => if a = 0 then none else some (v ||| s.ctx.x a))
def execCsrrs (n : BitVec 12) (d : Reg) (a : Reg) (s : State) : Host.Outcome State Fault Refusal := issueWord (mCsrrs n d a) s

/-- CSRRC (R102, R103). -/
def mCsrrc (n : BitVec 12) (d : Reg) (a : Reg) : Meaning :=
  .once fun e s => csrPlan e s n [a] d (fun v => if a = 0 then none else some (v &&& ~~~(s.ctx.x a)))
def execCsrrc (n : BitVec 12) (d : Reg) (a : Reg) (s : State) : Host.Outcome State Fault Refusal := issueWord (mCsrrc n d a) s

/-- CSRRWI (R102, R103). -/
def mCsrrwi (n : BitVec 12) (d : Reg) (u : BitVec 5) : Meaning :=
  .once fun e s => csrPlan e s n [] d (fun _ => some (u.zeroExtend 64))
def execCsrrwi (n : BitVec 12) (d : Reg) (u : BitVec 5) (s : State) : Host.Outcome State Fault Refusal :=
  issueWord (mCsrrwi n d u) s

/-- CSRRSI (R102, R103). -/
def mCsrrsi (n : BitVec 12) (d : Reg) (u : BitVec 5) : Meaning :=
  .once fun e s => csrPlan e s n [] d (fun v => if u = 0 then none else some (v ||| u.zeroExtend 64))
def execCsrrsi (n : BitVec 12) (d : Reg) (u : BitVec 5) (s : State) : Host.Outcome State Fault Refusal :=
  issueWord (mCsrrsi n d u) s

/-- CSRRCI (R102, R103). -/
def mCsrrci (n : BitVec 12) (d : Reg) (u : BitVec 5) : Meaning :=
  .once fun e s => csrPlan e s n [] d (fun v => if u = 0 then none else some (v &&& ~~~(u.zeroExtend 64)))
def execCsrrci (n : BitVec 12) (d : Reg) (u : BitVec 5) (s : State) : Host.Outcome State Fault Refusal :=
  issueWord (mCsrrci n d u) s

/-! ## Events and time (R121, R122, R434) -/

/-- An event posted by software: held while a segment is open (R434), also once its stores perform directly, so that the events of the
core keep their order (R121). -/
def State.postEvent (code : BitVec 16) (p : DWord) (s : State) : State :=
  match s.ctx.seg with
  | some g =>
    s.modCtx (fun c => { c with seg := some { g with events := g.events ++
      [{ stamp := s.nowNs, src := s.srcId, cause := 0, code := code, p0 := p, p1 := 0 }] } })
  | none => s.coreEvent 0 code p 0

/-- EVPOST (R121). -/
def mEvpost (b : Reg) (a : Reg) : Meaning :=
  .once fun _ s => { reads := xs [a, b], effs := [(.main, State.postEvent (BitVec.ofNat 16 (bitsOf (s.ctx.x a) 0 16)) (s.ctx.x b))] }
def execEvpost (b : Reg) (a : Reg) (s : State) : Host.Outcome State Fault Refusal := issueWord (mEvpost b a) s

/-- RDTIME (R122). -/
def mRdtime (a : Reg) (d : Reg) : Meaning :=
  .once fun _ s =>
    let v : DWord := match bitsOf (s.ctx.x a) 0 2 with
      | 0 => dw s.nowNs
      | 1 => s.sq.cycle
      | 2 => s.sq.cycle - s.sq.frzcyc
      | _ => match s.ctx.task with
        | some t => if t.stream.isSome then dw t.budget else 0
        | none => 0
    xPlan [a] d 1 v
def execRdtime (a : Reg) (d : Reg) (s : State) : Host.Outcome State Fault Refusal := issueWord (mRdtime a d) s

/-! ## BANKSW (R118) -/

/-- The other bank of the sequencer becomes the running one; its first bundle issues `n` cycles after. -/
def State.switchTo (b : Fin 2) (n : Nat) (s : State) : State :=
  let s := (s.modCtx (fun c => { c with status := .standby, resv := none })).stopMate s.ctx
  (((s.tick n).modSq (fun q => { q with running := b })).modCtx (fun c => { c with resv := none })).resumeCtx

/-- BANKSW (R118). -/
def mBanksw (a : Reg) (d : Reg) : Meaning :=
  .once (supervisor fun _ s =>
    let b : Fin 2 := if (s.ctx.x a).getLsbD 0 then 1 else 0
    let c := s.sq.banks.get b
    let base : Plan := { reads := xs [a], writes := xw d 1, closes := true }
    let stays (v : DWord) : Plan := { base with effs := [(.control, State.launchX 1 d v)] }
    let loading := match s.sq.engOp with | some o => o.load && o.bank == b && b != s.sq.running | none => false
    if loading then { base with holds := [.engine] }
    else if b = s.sq.running then stays 0
    else if s.sq.loadStatus.get b ≠ 0 then stays (dw (s.sq.loadStatus.get b).val)
    else if c.status = .free ∨ c.status = .ended then stays 4
    else { base with effs := [(.control, fun s => (s.closeSegment.switchTo b bankSwitch).modRegs (Regs.setX d 0))] })
def execBanksw (a : Reg) (d : Reg) (s : State) : Host.Outcome State Fault Refusal := issueWord (mBanksw a d) s

/-! ## The context-save engine (R119, R120) -/

/-- The parts of an area as offsets and sizes (R119); part 6 without its bin data. -/
def areaParts (parts : Nat) : List (Nat × Nat) :=
  (if parts.testBit 0 then [(0, 0x1000)] else []) ++
  (if parts.testBit 2 then [(0x1000, 0x800)] else []) ++
  (if parts / 8 % 16 ≠ 0 then [(0x1800, 0xC00)] else []) ++
  (if parts.testBit 1 then [(0x10000, 0x10000)] else []) ++
  (if parts.testBit 7 then [(0x20000, 0x20000)] else []) ++
  (if parts.testBit 3 then [(0x40000, 0x20000)] else []) ++
  (if parts.testBit 4 then [(0x60000, 0x8000)] else []) ++
  (if parts.testBit 5 then [(0x80000, 0x40000)] else []) ++
  (if parts.testBit 6 then [(0xC0000, 0x400)] else [])

/-- Bytes rounded up to a multiple of 128. -/
def up128 (n : Nat) : Nat := (n + 127) / 128 * 128
/-- The bin numbers of a half-core; in protected mode, of the core. -/
def State.binsOf (s : State) (h : Half) : List MReg := allBins.filter (fun b => !s.core.split || (decide (b.val < 4) == (h == .a)))
/-- The bin numbers of the active core or half-core. -/
def State.ownBins (s : State) : List MReg := s.binsOf s.core.active
/-- Bytes of bin data in an area. -/
def State.binData (s : State) : Nat := (s.ownBins.map (fun b => up128 (s.core.mat.bins.get b).occ)).sum

/-- The 64 KiB pieces that an operation touches. -/
def areaPages (parts data : Nat) : List Nat :=
  let all := areaParts parts ++ (if parts.testBit 6 ∧ data ≠ 0 then [(0xC0400, data)] else [])
  distinct (all.flatMap (fun p => (List.range ((p.1 + p.2 - 1) / 65536 - p.1 / 65536 + 1)).map (· + p.1 / 65536)))

/-- A piece of an area translated for the engine. -/
def State.areaPage (s : State) (o : CtxOp) (k : Nat) : Except Nat Loc :=
  let va := o.area + dw (k * 65536)
  match s.walk o.asid va (if o.load then AccessKind.read.need else AccessKind.write.need) false with
  | .error c => .error c
  | .ok t =>
    let l := t.loc s.die va
    match s.region false l with
    | .hbm | .cellar => if !o.load ∧ attrSync t.attr then .error 0x66 else .ok l
    | .outside => .error 0x73
    | _ => .error 0x72

def State.areaRead (s : State) (o : CtxOp) (off n : Nat) : List Byte :=
  (List.range n).map (fun i => match s.areaPage o ((off + i) / 65536) with
    | .ok l => s.byteAt (l + (off + i) % 65536)
    | .error _ => 0)
def State.areaBad (s : State) (o : CtxOp) (off n : Nat) : Bool :=
  (List.range (n / 64 + 1)).any (fun i => match s.areaPage o ((off + 64 * i) / 65536) with
    | .ok l => s.badLine (l + (off + 64 * i) % 65536)
    | .error _ => false)

/-- The number of 8-byte words of an area. -/
def areaWord (bs : List Byte) (off : Nat) : DWord := dw (leNat ((bs.drop off).take 8))
/-- A bin's descriptor: nine words of 8 bytes in 128 (log 17). -/
def Bin.bytes (b : Bin) : List Byte :=
  [b.base, b.nbank, b.tag.code, b.decl, b.head, b.tail, b.occ, b.hwm, b.ovdecl.toNat].flatMap (leBytes 8) ++ List.replicate 56 0
def binOf (bs : List Byte) : Bin :=
  let w (i : Nat) : Nat := (areaWord bs (8 * i)).toNat
  { base := w 0 % 64, nbank := min (w 1) 16, tag := Tag.ofCode (w 2 % 16), decl := w 3, head := w 4, tail := w 5, occ := w 6, hwm := w 7,
    ovdecl := w 8 != 0 }

/-- The bin descriptors in an area. -/
def State.areaBins (s : State) (o : CtxOp) : List Bin := s.ownBins.map (fun b => binOf (s.areaRead o (0xC0000 + 128 * b.val) 128))
/-- A descriptor that counts more bytes than its banks hold. -/
def Bin.overfull (b : Bin) : Bool := decide (b.nbank * 65536 < b.occ)
/-- Bytes of bin data that an operation moves: the bins', or those that the descriptors of the area name. -/
def State.areaData (s : State) (o : CtxOp) : Nat :=
  if !o.parts.getLsbD 6 then 0
  else if !o.load then s.binData
  else ((s.areaBins o).map (fun b => if b.overfull then 0 else up128 b.occ)).sum

/-- What the checks of CTXSAVE and CTXLOAD raise (R119). -/
def State.areaRaises (s : State) (o : CtxOp) (parts : DWord) : List Raise :=
  (if bitsOf parts 8 56 ≠ 0 then [atOperand 0x6B parts] else []) ++
  (if bitsOf o.area 0 16 ≠ 0 then [atVa 0x71 o.area] else []) ++
  (areaPages o.parts.toNat (s.areaData o)).filterMap (fun k => match s.areaPage o k with
    | .error c => some { cause := c, tval := o.area + dw (k * 65536) }
    | .ok _ => none)

/-- CTXSAVE and CTXLOAD. -/
def ctxPlan (load : Bool) (s : State) (a b : Reg) : Plan :=
  let parts := s.ctx.x b
  let o : CtxOp := { load := load, area := s.ctx.x a, asid := s.ctx.csrs.asid, parts := BitVec.ofNat 8 (bitsOf parts 0 8),
                     bank := otherBank s.sq.running, pieces := [], lost := false }
  { raises := s.areaRaises o parts, reads := xs [a, b], closes := true, mat := decide (bitsOf parts 3 4 ≠ 0)
    holds := if s.sq.engOp.isSome then [.engine] else []
    effs := [(.main, State.modSq (fun q => { q with engLoad := load, engOp := some { o with pieces := areaPages o.parts.toNat (s.areaData o) } }))] }

/-- CTXSAVE (R119, R120). -/
def mCtxsave (b : Reg) (a : Reg) : Meaning := .once (supervisor fun _ s => ctxPlan false s a b)
def execCtxsave (b : Reg) (a : Reg) (s : State) : Host.Outcome State Fault Refusal := issueWord (mCtxsave b a) s

/-- CTXLOAD (R119, R120). -/
def mCtxload (b : Reg) (a : Reg) : Meaning := .once (supervisor fun _ s => ctxPlan true s a b)
def execCtxload (b : Reg) (a : Reg) (s : State) : Host.Outcome State Fault Refusal := issueWord (mCtxload b a) s

/-! ### The layout of an area -/

/-- The context CSRs in R103's order, 8 bytes each (log 17). -/
def ctxCsrs : List Nat :=
  [0x001, 0x002, 0x003, 0xC02, 0x800, 0x801, 0x802, 0xCC1, 0xCC4, 0x5C0, 0x5C1, 0x5C2, 0x5C3, 0x5C4, 0x5C5, 0x5C6, 0x5C7, 0x5C8, 0x5CC]

/-- A restored CSR: every field, those included that a CSR write leaves alone. -/
def Csrs.restore (n : Nat) (v : DWord) (c : Csrs) : Csrs :=
  match n with
  | 0xC02 => { c with instret := v }
  | 0x802 => { c with rdvCount := v.truncate 32, rdvSize := BitVec.ofNat 16 (bitsOf v 32 16), rdvEn := v.getLsbD 48 }
  | 0xCC1 => { c with ilkcyc := v }
  | 0x5C3 => { c.write n v with prv := v.getLsbD 0 }
  | 0x5C5 => { c with tnext := v }
  | 0x5CC => { c with tcause2 := v.truncate 8 }
  | n => c.write n v

/-- Part 0 of a context: 64 registers, the CSRs, the loop stack in four places of 24 bytes, innermost first, and the pc. -/
def Ctx.part0 (c : Ctx) : List Byte :=
  (List.finRange 32).flatMap (fun r => leBytes 8 (c.x r).toNat) ++ (List.finRange 32).flatMap (fun r => leBytes 8 (c.f r).toNat) ++
  ctxCsrs.flatMap (fun n => leBytes 8 (c.csr n).toNat) ++
  (List.range 4).flatMap (fun i => match c.loops[i]? with
    | some f => leBytes 8 f.start.toNat ++ leBytes 8 f.stop.toNat ++ leBytes 8 f.count.toNat
    | none => List.replicate 24 0) ++
  leBytes 8 c.pc.toNat

def Ctx.load0 (bs : List Byte) (c : Ctx) : Ctx :=
  let csrAt (i : Nat) : DWord := areaWord bs (512 + 8 * i)
  let loopAt (i : Nat) : LoopFrame :=
    { start := areaWord bs (664 + 24 * i), stop := areaWord bs (672 + 24 * i), count := (areaWord bs (680 + 24 * i)).truncate 32 }
  { c with
    regs := { c.regs with x := Vector.ofFn (fun i => if i.val = 0 then 0 else areaWord bs (8 * i.val)),
                          f := Vector.ofFn (fun i => areaWord bs (256 + 8 * i.val)) }
    csrs := ctxCsrs.zipIdx.foldl (fun k p => k.restore p.1 (csrAt p.2)) c.csrs
    loops := (List.range (bitsOf (csrAt 8) 0 3)).map loopAt
    pc := areaWord bs 760 }

/-- Part 2: handles of 128 bytes. -/
def Ctx.part2 (c : Ctx) : List Byte :=
  (List.finRange 16).flatMap (fun r => (List.range 4).flatMap (fun w => leBytes 8 ((c.h r).word w).toNat) ++ List.replicate 96 0)
/-- A restored handle, its reserved bits 0 (R5, R238); one with STATE 1 whose epoch is out of date is revoked (R242). -/
def State.handleOf (s : State) (bs : List Byte) (off : Nat) : HandleReg :=
  let w (i : Nat) : DWord := areaWord bs (off + 8 * i)
  let h : HandleReg :=
    { vbase := dw (bitsOf (w 0) 16 48 * 2 ^ 16), pbase := dw (bitsOf (w 1) 16 44 * 2 ^ 16), attr := BitVec.ofNat 10 (bitsOf (w 2) 2 10), cause := BitVec.ofNat 8 (bitsOf (w 2) 52 8),
      size := Fin.ofNat 3 (bitsOf (w 2) 60 2),
      state := (match bitsOf (w 2) 62 2 with | 0 => .empty | 1 => .valid | 2 => .revoked | _ => .faulted),
      asid := BitVec.ofNat 12 (bitsOf (w 3) 0 12), epoch := wd (bitsOf (w 3) 32 32) }
  if h.state = .valid ∧ h.epoch ≠ s.epoch h.asid then { h with state := .revoked } else h

/-- The groups of the active core or half-core. -/
def State.myGroups (s : State) : List Group := (List.finRange 8).filter s.ownGroup

def dataBytes (v : VData) : List Byte := leBytes 128 v.toNat
def dataOf (bs : List Byte) : VData := BitVec.ofNat 1024 (leNat (bs.take 128))

/-- Part 1 of one group: v0 to v31, m0 to m7, 32 tags of 4 bits. -/
def Ctx.part1 (g : Group) (c : Ctx) : List Byte :=
  (List.finRange 32).flatMap (fun r => dataBytes (c.v g r).data) ++ (List.finRange 8).flatMap (fun r => leBytes 4 (c.m g r).toNat) ++
  leBytes 16 (packElems 4 ((List.finRange 32).map (fun r => (c.v g r).tag.code)))
/-- Whether 128 bytes of an area carry an uncorrectable error. -/
def Ctx.load1 (g : Group) (bs : List Byte) (bad : Nat → Bool) (c : Ctx) : Ctx :=
  let tags := leNat ((bs.drop 4128).take 16)
  { c with regs := { c.regs with
      v := vset c.regs.v g (Vector.ofFn (fun r => { data := dataOf (bs.drop (128 * r.val)),
                                                    tag := if bad (128 * r.val) then .poison
                                                           else Tag.ofCode (tags / 2 ^ (4 * r.val) % 16) }))
      m := vset c.regs.m g (Vector.ofFn (fun r => wd (leNat ((bs.drop (4096 + 4 * r.val)).take 4)))) } }

/-- The metadata of one group: accumulator tags and overflow flags, latch tags and window bases, both shelf tags (log 17). -/
def Matrix.meta (g : Group) (m : Matrix) : List Byte :=
  let four (f : Fin 4 → Nat) : List Byte := (List.finRange 4).map (fun i => BitVec.ofNat 8 (f i))
  four (fun i => (m.bank g i).tag.code) ++ four (fun i => (m.bank g i).ovf.toNat) ++ four (fun i => (m.latch g i).tag.code) ++
  four (fun i => (m.latch g i).wb.val) ++ leBytes 4 (m.active.get g).tag.toNat ++ leBytes 4 (m.standby.get g).tag.toNat

/-- A class record: one byte an index, 0xFF where it is empty (log 17). -/
def recordBytes (t : Table (Fin 8)) : List Byte :=
  (List.range 512).map (fun i => match t.find? (fun p => p.1 == i) with | some p => BitVec.ofNat 8 p.2.val | none => 0xFF)
def recordOf (bs : List Byte) : Table (Fin 8) :=
  (bs.take 512).zipIdx.filterMap (fun p => if p.1.toNat < 8 then some (p.2, Fin.ofNat 8 p.1.toNat) else none)

/-- The eight words of an entry; eight zero words where none is listed. -/
def Shelf.entry (sh : Shelf) (i : Nat) : List Word := tget (List.replicate 8 0) sh.entries i
def Shelf.setEntry (i : Nat) (ws : List Word) (sh : Shelf) : Shelf := { sh with entries := tset (List.replicate 8 0) sh.entries i ws }
def Shelf.bytes (sh : Shelf) : List Byte := (List.range 512).flatMap (fun i => (sh.entry i).flatMap (fun w => leBytes 4 w.toNat))
def shelfOf (bs : List Byte) (tag : Word) : Shelf :=
  (List.range 512).foldl (fun sh i => sh.setEntry i ((List.range 8).map (fun j => wd (leNat ((bs.drop (32 * i + 4 * j)).take 4)))))
    { entries := [], tag := tag }

/-- The address of byte i of a bin, counted from its head. -/
def Bin.addr (b : Bin) (i : Nat) : Nat := b.base * 65536 + (b.head + i) % (b.nbank * 65536)
def State.binBytes (s : State) (k : Bin) : List Byte := (List.range k.occ).map (fun i => s.core.sram.get (k.addr i))

/-! ### Matrix-side state as a whole (R411) -/

/-- What the engine saves of a half-core's matrix-side state. -/
def State.packMatrix (s : State) (h : Half) : SavedMatrix :=
  let at_ := ((s.binsOf h).map s.core.mat.bins.get).flatMap (fun k => (List.range k.occ).map k.addr)
  { mat := s.core.mat, bytes := at_.map (fun a => (a, s.core.sram.get a)), bad := s.core.sramBad.filter at_.contains }
/-- What the engine loads. -/
def State.unpackMatrix (h : Half) (m : SavedMatrix) (s : State) : State :=
  let again (w : SwapWait) : SwapWait := { w with asked := false }
  s.modCore (fun k => { k with
    mat := Matrix.take k.split h { m.mat with swap := m.mat.swap.map (Option.map again) } k.mat, sram := k.sram.writeAll m.bytes
    sramBad := k.sramBad.filter (fun w => !m.bytes.any (fun p => p.1 == w)) ++ m.bad })

/-- A context that holds no matrix-side state has that of R194. -/
def SavedMatrix.reset : SavedMatrix := { mat := Matrix.reset, bytes := [], bad := [] }

/-- The saved states without a bank's. -/
def otherSaved (h : Half) (b : Fin 2) (l : List (Half × Fin 2 × SavedMatrix)) : List (Half × Fin 2 × SavedMatrix) :=
  l.filter (fun x => !(x.1 == h && x.2.1 == b))
/-- The matrix-side state of a bank's context comes into the core: the holder's is saved if its flag is set (R411). -/
def State.switchMatrix (b : Fin 2) (s : State) : State :=
  let h := s.core.active
  let i := halfIdx h
  if s.core.matHolder.get i = some b then s
  else
    let s := match s.core.matHolder.get i with
      | some o => if (s.sq.banks.get o).matrixSide then
          s.modCore (fun k => { k with matSaved := otherSaved h o k.matSaved ++ [(h, o, s.packMatrix h)] }) else s
      | none => s
    let new := match s.core.matSaved.find? (fun x => x.1 == h && x.2.1 == b) with
      | some x => x.2.2
      | none => SavedMatrix.reset
    ((s.unpackMatrix h new).modCore (fun k => { k with
      matHolder := vset k.matHolder i (some b), matSaved := otherSaved h b k.matSaved })).modSq
        (fun q => q.modBank b (fun c => { c with matrixSide := true }))

/-! ### Saving -/

/-- A pending swap (R179) stands in the metadata of the first group (log 17). -/
def State.swapArea (s : State) : Nat := 0x1880 + 256 * (s.myGroups.headD 0).val
def swapBytes : Option SwapWait → List Byte
  | some w => leBytes 8 (if w.gen.isSome then 1 else 3) ++ leBytes 8 w.loc ++ leBytes 8 (w.gen.getD 0).toNat ++ leBytes 4 w.c0.toNat ++ leBytes 4 w.c1.toNat
  | none => List.replicate 32 0
def swapOf (bs : List Byte) : Option SwapWait :=
  if areaWord bs 0 = 1 ∨ areaWord bs 0 = 3 then some
    { loc := (areaWord bs 8).toNat, gen := if areaWord bs 0 = 1 then some (areaWord bs 16) else none, c0 := wd (leNat ((bs.drop 24).take 4)), c1 := wd (leNat ((bs.drop 28).take 4)),
      seen := none, asked := false }
  else none

/-- What a save of the given parts writes, by offset in the area. -/
def State.saved (s : State) (parts : Nat) (bank : Fin 2) : List (Nat × List Byte) :=
  let c := s.sq.banks.get bank
  let m := s.core.mat
  let gs := s.myGroups
  let r := m.records.get s.recIdx
  let on (n : Nat) (l : List (Nat × List Byte)) : List (Nat × List Byte) := if parts.testBit n then l else []
  on 0 [(0, c.part0)] ++ on 2 [(0x1000, c.part2)] ++
  (if parts / 8 % 16 ≠ 0 then gs.map (fun g => (0x1800 + 256 * g.val, m.meta g)) ++
    [(0x2000, recordBytes r.active), (0x2200, recordBytes r.standby), (s.swapArea, swapBytes (m.swap.get s.recIdx))] else []) ++
  on 1 (gs.map (fun g => (0x10000 + 0x2000 * g.val, c.part1 g))) ++
  on 3 (gs.flatMap (fun g => (List.finRange 4).map (fun b =>
    (0x40000 + 0x4000 * g.val + 0x1000 * b.val, (m.bank g b).rows.toList.flatMap dataBytes)))) ++
  on 4 (gs.flatMap (fun g => (List.finRange 4).map (fun l =>
    (0x60000 + 0x1000 * g.val + 0x400 * l.val, (m.latch g l).rows.toList.flatMap dataBytes)))) ++
  on 5 (gs.flatMap (fun g => [(0x80000 + 0x8000 * g.val, (m.active.get g).bytes), (0x84000 + 0x8000 * g.val, (m.standby.get g).bytes)])) ++
  on 6 (s.ownBins.map (fun b => (0xC0000 + 128 * b.val, (m.bins.get b).bytes)) ++
    (s.ownBins.foldl (fun (acc : List (Nat × List Byte) × Nat) b =>
      (acc.1 ++ [(acc.2, s.binBytes (m.bins.get b))], acc.2 + up128 (m.bins.get b).occ)) ([], 0xC0400)).1)

/-- The opaque bytes of part 7 (R119 gives it no layout, log 17). -/
def imageBytes (draw : Nat) : List Byte := (List.range 64).map (fun i => Config.cryptoByte draw i)

/-- Bytes at an offset of an area. -/
def State.areaWrite (o : CtxOp) (p : Nat × List Byte) (s : State) : State :=
  let put (off : Nat) (b : Byte) : Option (Loc × Byte) :=
    match s.areaPage o (off / 65536) with
    | .ok l => some (l + off % 65536, b)
    | .error _ => none
  s.writeHome none ((p.2.zipIdx).filterMap (fun q => put (p.1 + q.2) q.1))
/-- Whether every page of an operation is still there (status 1). -/
def State.areaThere (s : State) (o : CtxOp) (data : Nat) : Bool :=
  !o.lost && (areaPages o.parts.toNat data).all (fun k => match s.areaPage o k with | .ok _ => true | .error _ => false)

def State.saveNow (o : CtxOp) (s : State) : State × Fin 16 :=
  let parts := o.parts.toNat
  if !s.areaThere o (s.areaData o) then (s, 1)
  else
    let bad := parts.testBit 6 && s.ownBins.any (fun b =>
      let k := s.core.mat.bins.get b
      (List.range (k.occ / 4)).any (fun i => s.core.sramBad.contains (k.addr (4 * i))))
    let t := (s.saved parts o.bank).foldl (fun t p => t.areaWrite o p) s
    let t := if parts.testBit 7 then
        let im := imageBytes s.fresh
        let c := s.sq.banks.get o.bank
        ((t.areaWrite o (0x20000, im)).drawn).modCore (fun k =>
          { k with images := (im, { rc := c.rc, nextIssue := c.nextIssue, seqNo := c.seqNo, flights := c.flights,
                                    parked := c.parked, ident := c.ident }) :: k.images })
      else t
    (t, if bad then 2 else 0)

/-! ### Loading -/

/-- The metadata of a group loaded for the parts chosen. -/
def Matrix.loadMeta (parts : Nat) (g : Group) (bs : List Byte) (m : Matrix) : Matrix :=
  let byte (i : Nat) : Nat := (bs.getD i 0).toNat
  let m := if parts.testBit 3 then (List.finRange 4).foldl (fun m b => m.modBank g b (fun k =>
      { k with tag := Tag.ofCode (byte b.val % 16), ovf := byte (4 + b.val) != 0 })) m else m
  if parts.testBit 4 then (List.finRange 4).foldl (fun m l => m.modLatch g l (fun k =>
      { k with tag := Tag.ofCode (byte (8 + l.val) % 16), wb := Fin.ofNat 4 (byte (12 + l.val)) })) m else m

/-- A load of one group's matrix-side parts; a shelf is written only where its saved tag differs (R119). -/
def State.loadGroup (o : CtxOp) (parts : Nat) (s : State) (m : Matrix) (g : Group) : Matrix :=
  let md := s.areaRead o (0x1800 + 256 * g.val) 24
  let m := m.loadMeta parts g md
  let m := if parts.testBit 3 then (List.finRange 4).foldl (fun m b => m.modBank g b (fun k =>
      { k with rows := Vector.ofFn (fun r => dataOf (s.areaRead o (0x40000 + 0x4000 * g.val + 0x1000 * b.val + 128 * r.val) 128)) })) m
    else m
  let m := if parts.testBit 4 then (List.finRange 4).foldl (fun m l =>
      let off := 0x60000 + 0x1000 * g.val + 0x400 * l.val
      m.modLatch g l (fun k => { k with
        rows := Vector.ofFn (fun r => dataOf (s.areaRead o (off + 128 * r.val) 128)),
        tag := if s.areaBad o off 1023 then .poison else k.tag })) m else m
  if parts.testBit 5 then
    let ta := wd (leNat ((md.drop 16).take 4))
    let ts := wd (leNat ((md.drop 20).take 4))
    let m := if ta = (m.active.get g).tag then m else
      { m with active := vset m.active g (shelfOf (s.areaRead o (0x80000 + 0x8000 * g.val) 0x4000) ta) }
    if ts = (m.standby.get g).tag then m else
      { m with standby := vset m.standby g (shelfOf (s.areaRead o (0x84000 + 0x8000 * g.val) 0x4000) ts) }
  else m

/-- Bin descriptors and contents loaded (part 6): the bytes stand at each bin's head again, words of uncorrectable lines as such. -/
def State.loadBins (o : CtxOp) (s : State) : State :=
  (s.ownBins.foldl (fun (acc : State × Nat) b =>
    let k := binOf (s.areaRead o (0xC0000 + 128 * b.val) 128)
    let bs := s.areaRead o acc.2 k.occ
    let t := acc.1.modMat (fun m => { m with bins := vset m.bins b k })
    let put (t : State) (p : Byte × Nat) : State := t.modCore (fun c => { c with sram := c.sram.set (k.addr p.2) p.1 })
    let words := (List.range (k.occ / 4)).map (fun i => (k.addr (4 * i), s.areaBad o (acc.2 + 4 * i) 3))
    ((bs.zipIdx.foldl put t).modCore (fun c => { c with
      sramBad := c.sramBad.filter (fun w => !words.any (fun p => p.1 == w)) ++ (words.filter (·.2)).map (·.1) }), acc.2 + up128 k.occ))
    (s, 0xC0400)).1

/-- What CTXLOAD does, and its status. Status 3 arises where a descriptor counts more bytes than its banks hold, and never on CTXSAVE
(log 89). -/
def State.loadNow (o : CtxOp) (s : State) : State × Fin 16 :=
  let parts := o.parts.toNat
  let data := s.areaData o
  if !s.areaThere o 0 then (s, 1)
  else if parts.testBit 6 ∧ (s.areaBins o).any Bin.overfull then (s, 3)
  else if !s.areaThere o data then (s, 1)
  else
    let bad := (areaParts parts ++ (if data = 0 then [] else [(0xC0400, data)])).any (fun p => s.areaBad o p.1 (p.2 - 1))
    let modB (f : Ctx → Ctx) (t : State) : State := t.modSq (fun q => q.modBank o.bank f)
    let t := if parts.testBit 0 then
        (modB (fun c => { c.load0 (s.areaRead o 0 768) with ident := s.core.idents }) s).modCore (fun k => { k with idents := k.idents + 1 })
      else s
    let t := if parts.testBit 2 then
        let bs := s.areaRead o 0x1000 0x800
        modB (fun c => { c with regs := { c.regs with h := Vector.ofFn (fun i => s.handleOf bs (128 * i.val)) } }) t
      else t
    let t := if parts.testBit 1 then s.myGroups.foldl (fun t g =>
        let off := 0x10000 + 0x2000 * g.val
        modB (Ctx.load1 g (s.areaRead o off 4144) (fun i => s.areaBad o (off + i) 127)) t) t else t
    let t := if parts.testBit 7 then
        let bs := s.areaRead o 0x20000 64
        match s.core.images.find? (fun p => p.1 == bs) with
        | some (_, im) => modB (fun c => { c with rc := im.rc, nextIssue := im.nextIssue, seqNo := im.seqNo, flights := im.flights,
                                                  parked := im.parked, ident := im.ident }) t
        | none => modB (fun c => { c with flights := [], parked := [] }) t
      else t
    let t := if parts / 8 % 16 ≠ 0 then (t.switchMatrix o.bank).modMat (fun m => s.myGroups.foldl (s.loadGroup o parts) m) else t
    let rcd : Records := { active := recordOf (s.areaRead o 0x2000 512), standby := recordOf (s.areaRead o 0x2200 512) }
    let t := if parts.testBit 5 then t.modMat (fun m => { m with
      records := vset m.records s.recIdx rcd, swap := vset m.swap s.recIdx (swapOf (s.areaRead o s.swapArea 32)) }) else t
    let t := if parts.testBit 6 then t.loadBins o else t
    (t, if bad then 2 else 0)

/-- CTX_ENGINE_DONE (R118, R119, R120). -/
def execCtxEngineDone (s : State) : Host.Outcome State Fault Refusal :=
  .next (match s.sq.engOp with
    | none => s
    | some o =>
      let r := if o.load then s.loadNow o else s.saveNow o
      r.1.modSq (fun q => { (if o.load then q.modBank o.bank (fun c =>
          if o.parts.getLsbD 0 ∧ r.2 = 0 then { c with status := .standby } else c) else q) with
        engOp := none, engStatus := r.2, loadStatus := if o.load then vset q.loadStatus o.bank r.2 else q.loadStatus }))

end Sys2Proof.Machine
end

