-- ==== Sys2Proof/Machine/VectorInt.lean ====
section
/-! DEFINITION. Vector integer arithmetic, logic, shifts, bit counts, comparison, selection, moves and indexes (R132 to R139). -/

namespace Sys2Proof.Machine

/-- The value of an element under its tag (R132). -/
def intVal (t : Tag) (c : Nat) : Int := if t.isSigned then sext t.width c else (c : Int)
/-- wrap(x) (R132). -/
def wrapElem (t : Tag) (i : Int) : FRes := (wrapTo t.width i, 0)
/-- clamp(x) (R132). -/
def clampElem (t : Tag) (i : Int) : FRes := clampInt t.isSigned t.width i
/-- uclamp(x) (R132). -/
def uclampElem (t : Tag) (i : Int) : FRes := clampInt false t.width i

/-- Two sources, by value under their tag. -/
def int2 (lit : Bool) (f : Tag → Int → Int → FRes) : Reg → Reg → Reg → MReg → Meaning :=
  map2 2 (fun _ t => t.isInt) lit (fun t a b => f t (intVal t a) (intVal t b))
/-- Two sources, as unsigned elements. -/
def uint2 (f : Tag → Nat → Nat → FRes) : Reg → Reg → Reg → MReg → Meaning := map2 2 (fun _ t => t.isInt) false f
/-- One signed source. -/
def int1 (f : Tag → Int → FRes) : Reg → Reg → MReg → Meaning :=
  map1 2 (fun _ t => t.isSigned) (fun t a => f t (intVal t a))

/-- VADD (R132). -/
def mVadd (d : Reg) (a : Reg) (b : Reg) (m : MReg) : Meaning := int2 false (fun t x y => wrapElem t (x + y)) d a b m
def execVadd (d : Reg) (a : Reg) (b : Reg) (m : MReg) (s : State) : Host.Outcome State Fault Refusal :=
  issueWord (mVadd d a b m) s

/-- VADD_LIT (R132, R126). -/
def mVaddLit (d : Reg) (a : Reg) (b : Reg) (m : MReg) : Meaning := int2 true (fun t x y => wrapElem t (x + y)) d a b m
def execVaddLit (d : Reg) (a : Reg) (b : Reg) (m : MReg) (s : State) : Host.Outcome State Fault Refusal :=
  issueWord (mVaddLit d a b m) s

/-- VSUB (R132). -/
def mVsub (d : Reg) (a : Reg) (b : Reg) (m : MReg) : Meaning := int2 false (fun t x y => wrapElem t (x - y)) d a b m
def execVsub (d : Reg) (a : Reg) (b : Reg) (m : MReg) (s : State) : Host.Outcome State Fault Refusal :=
  issueWord (mVsub d a b m) s

/-- VSUB_LIT (R132, R126). -/
def mVsubLit (d : Reg) (a : Reg) (b : Reg) (m : MReg) : Meaning := int2 true (fun t x y => wrapElem t (x - y)) d a b m
def execVsubLit (d : Reg) (a : Reg) (b : Reg) (m : MReg) (s : State) : Host.Outcome State Fault Refusal :=
  issueWord (mVsubLit d a b m) s

/-- VMUL (R132). -/
def mVmul (d : Reg) (a : Reg) (b : Reg) (m : MReg) : Meaning := int2 false (fun t x y => wrapElem t (x * y)) d a b m
def execVmul (d : Reg) (a : Reg) (b : Reg) (m : MReg) (s : State) : Host.Outcome State Fault Refusal :=
  issueWord (mVmul d a b m) s

/-- VMUL_LIT (R132, R126). -/
def mVmulLit (d : Reg) (a : Reg) (b : Reg) (m : MReg) : Meaning := int2 true (fun t x y => wrapElem t (x * y)) d a b m
def execVmulLit (d : Reg) (a : Reg) (b : Reg) (m : MReg) (s : State) : Host.Outcome State Fault Refusal :=
  issueWord (mVmulLit d a b m) s

/-- VMULH (R132). -/
def mVmulh (d : Reg) (a : Reg) (b : Reg) (m : MReg) : Meaning := int2 false (fun t x y => wrapElem t (x * y / (2 ^ t.width : Nat))) d a b m
def execVmulh (d : Reg) (a : Reg) (b : Reg) (m : MReg) (s : State) : Host.Outcome State Fault Refusal :=
  issueWord (mVmulh d a b m) s

/-- VMULHU (R132). -/
def mVmulhu (d : Reg) (a : Reg) (b : Reg) (m : MReg) : Meaning := uint2 (fun t x y => (x * y / 2 ^ t.width, 0)) d a b m
def execVmulhu (d : Reg) (a : Reg) (b : Reg) (m : MReg) (s : State) : Host.Outcome State Fault Refusal :=
  issueWord (mVmulhu d a b m) s

/-- a × b + c, wrapped. -/
def maddElem (t : Tag) (x y z : Nat) : FRes := wrapElem t (intVal t x * intVal t y + intVal t z)

/-- VMADD (R132). -/
def mVmadd (d : Reg) (a : Reg) (b : Reg) (c : Reg) (m : MReg) : Meaning := map3 2 (fun _ t => t.isInt) false maddElem d a b c m
def execVmadd (d : Reg) (a : Reg) (b : Reg) (c : Reg) (m : MReg) (s : State) : Host.Outcome State Fault Refusal :=
  issueWord (mVmadd d a b c m) s

/-- VMADD_LIT (R132, R126). -/
def mVmaddLit (d : Reg) (a : Reg) (b : Reg) (c : Reg) (m : MReg) : Meaning := map3 2 (fun _ t => t.isInt) true maddElem d a b c m
def execVmaddLit (d : Reg) (a : Reg) (b : Reg) (c : Reg) (m : MReg) (s : State) : Host.Outcome State Fault Refusal :=
  issueWord (mVmaddLit d a b c m) s

/-- VADDSAT (R132). -/
def mVaddsat (d : Reg) (a : Reg) (b : Reg) (m : MReg) : Meaning := int2 false (fun t x y => clampElem t (x + y)) d a b m
def execVaddsat (d : Reg) (a : Reg) (b : Reg) (m : MReg) (s : State) : Host.Outcome State Fault Refusal :=
  issueWord (mVaddsat d a b m) s

/-- VSUBSAT (R132). -/
def mVsubsat (d : Reg) (a : Reg) (b : Reg) (m : MReg) : Meaning := int2 false (fun t x y => clampElem t (x - y)) d a b m
def execVsubsat (d : Reg) (a : Reg) (b : Reg) (m : MReg) (s : State) : Host.Outcome State Fault Refusal :=
  issueWord (mVsubsat d a b m) s

/-- VADDSATU (R132). -/
def mVaddsatu (d : Reg) (a : Reg) (b : Reg) (m : MReg) : Meaning := uint2 (fun t x y => uclampElem t ((x : Int) + y)) d a b m
def execVaddsatu (d : Reg) (a : Reg) (b : Reg) (m : MReg) (s : State) : Host.Outcome State Fault Refusal :=
  issueWord (mVaddsatu d a b m) s

/-- VSUBSATU (R132). -/
def mVsubsatu (d : Reg) (a : Reg) (b : Reg) (m : MReg) : Meaning := uint2 (fun t x y => uclampElem t ((x : Int) - y)) d a b m
def execVsubsatu (d : Reg) (a : Reg) (b : Reg) (m : MReg) (s : State) : Host.Outcome State Fault Refusal :=
  issueWord (mVsubsatu d a b m) s

/-- VABS (R132). -/
def mVabs (d : Reg) (a : Reg) (m : MReg) : Meaning := int1 (fun t x => clampElem t x.natAbs) d a m
def execVabs (d : Reg) (a : Reg) (m : MReg) (s : State) : Host.Outcome State Fault Refusal := issueWord (mVabs d a m) s

/-- VNEG (R132). -/
def mVneg (d : Reg) (a : Reg) (m : MReg) : Meaning := int1 (fun t x => wrapElem t (-x)) d a m
def execVneg (d : Reg) (a : Reg) (m : MReg) (s : State) : Host.Outcome State Fault Refusal := issueWord (mVneg d a m) s

/-- VMIN (R132). -/
def mVmin (d : Reg) (a : Reg) (b : Reg) (m : MReg) : Meaning := int2 false (fun t x y => wrapElem t (min x y)) d a b m
def execVmin (d : Reg) (a : Reg) (b : Reg) (m : MReg) (s : State) : Host.Outcome State Fault Refusal :=
  issueWord (mVmin d a b m) s

/-- VMIN_LIT (R132, R126). -/
def mVminLit (d : Reg) (a : Reg) (b : Reg) (m : MReg) : Meaning := int2 true (fun t x y => wrapElem t (min x y)) d a b m
def execVminLit (d : Reg) (a : Reg) (b : Reg) (m : MReg) (s : State) : Host.Outcome State Fault Refusal :=
  issueWord (mVminLit d a b m) s

/-- VMAX (R132). -/
def mVmax (d : Reg) (a : Reg) (b : Reg) (m : MReg) : Meaning := int2 false (fun t x y => wrapElem t (max x y)) d a b m
def execVmax (d : Reg) (a : Reg) (b : Reg) (m : MReg) (s : State) : Host.Outcome State Fault Refusal :=
  issueWord (mVmax d a b m) s

/-- VMAX_LIT (R132, R126). -/
def mVmaxLit (d : Reg) (a : Reg) (b : Reg) (m : MReg) : Meaning := int2 true (fun t x y => wrapElem t (max x y)) d a b m
def execVmaxLit (d : Reg) (a : Reg) (b : Reg) (m : MReg) (s : State) : Host.Outcome State Fault Refusal :=
  issueWord (mVmaxLit d a b m) s

/-- VMINU (R132). -/
def mVminu (d : Reg) (a : Reg) (b : Reg) (m : MReg) : Meaning := uint2 (fun _ x y => (min x y, 0)) d a b m
def execVminu (d : Reg) (a : Reg) (b : Reg) (m : MReg) (s : State) : Host.Outcome State Fault Refusal :=
  issueWord (mVminu d a b m) s

/-- VMAXU (R132). -/
def mVmaxu (d : Reg) (a : Reg) (b : Reg) (m : MReg) : Meaning := uint2 (fun _ x y => (max x y, 0)) d a b m
def execVmaxu (d : Reg) (a : Reg) (b : Reg) (m : MReg) (s : State) : Host.Outcome State Fault Refusal :=
  issueWord (mVmaxu d a b m) s

/-! ## Logic (R133) -/

/-- A logic operation on whole lanes; the result carries VA's tag, or RAW where a register VB carries another. -/
def logic2 (lit : Bool) (f : VData → VData → VData) (d a b : Reg) (m : MReg) : Meaning :=
  .lanes fun e g s =>
    let va := s.ctx.v g a
    let (x, rs) := if lit then e.scalarLanes b (va.tag == .fp64) else ((s.ctx.v g b).data, [])
    let tag := if lit || (s.ctx.v g b).tag == va.tag then va.tag else .raw
    vPlan e g s ([{ opnd := 0, reg := a, ok := anyData }] ++ (if lit then [] else [{ opnd := 1, reg := b, ok := anyData }])) rs d m 2
      fun mask => { data := f va.data x, bits := activeBits (tag == .fp64) mask, tag := tag }

/-- VAND (R133). -/
def mVand (d : Reg) (a : Reg) (b : Reg) (m : MReg) : Meaning := logic2 false (fun x y => x &&& y) d a b m
def execVand (d : Reg) (a : Reg) (b : Reg) (m : MReg) (s : State) : Host.Outcome State Fault Refusal :=
  issueWord (mVand d a b m) s

/-- VAND_LIT (R133, R126). -/
def mVandLit (d : Reg) (a : Reg) (b : Reg) (m : MReg) : Meaning := logic2 true (fun x y => x &&& y) d a b m
def execVandLit (d : Reg) (a : Reg) (b : Reg) (m : MReg) (s : State) : Host.Outcome State Fault Refusal :=
  issueWord (mVandLit d a b m) s

/-- VOR (R133). -/
def mVor (d : Reg) (a : Reg) (b : Reg) (m : MReg) : Meaning := logic2 false (fun x y => x ||| y) d a b m
def execVor (d : Reg) (a : Reg) (b : Reg) (m : MReg) (s : State) : Host.Outcome State Fault Refusal := issueWord (mVor d a b m) s

/-- VOR_LIT (R133, R126). -/
def mVorLit (d : Reg) (a : Reg) (b : Reg) (m : MReg) : Meaning := logic2 true (fun x y => x ||| y) d a b m
def execVorLit (d : Reg) (a : Reg) (b : Reg) (m : MReg) (s : State) : Host.Outcome State Fault Refusal :=
  issueWord (mVorLit d a b m) s

/-- VXOR (R133). -/
def mVxor (d : Reg) (a : Reg) (b : Reg) (m : MReg) : Meaning := logic2 false (fun x y => x ^^^ y) d a b m
def execVxor (d : Reg) (a : Reg) (b : Reg) (m : MReg) (s : State) : Host.Outcome State Fault Refusal :=
  issueWord (mVxor d a b m) s

/-- VXOR_LIT (R133, R126). -/
def mVxorLit (d : Reg) (a : Reg) (b : Reg) (m : MReg) : Meaning := logic2 true (fun x y => x ^^^ y) d a b m
def execVxorLit (d : Reg) (a : Reg) (b : Reg) (m : MReg) (s : State) : Host.Outcome State Fault Refusal :=
  issueWord (mVxorLit d a b m) s

/-- VANDN (R133). -/
def mVandn (d : Reg) (a : Reg) (b : Reg) (m : MReg) : Meaning := logic2 false (fun x y => x &&& ~~~y) d a b m
def execVandn (d : Reg) (a : Reg) (b : Reg) (m : MReg) (s : State) : Host.Outcome State Fault Refusal :=
  issueWord (mVandn d a b m) s

/-- VNOT (R133). -/
def mVnot (d : Reg) (a : Reg) (m : MReg) : Meaning :=
  .lanes fun e g s =>
    let va := s.ctx.v g a
    vPlan e g s [{ opnd := 0, reg := a, ok := anyData }] [] d m 2
      fun mask => { data := ~~~va.data, bits := activeBits (va.tag == .fp64) mask, tag := va.tag }
def execVnot (d : Reg) (a : Reg) (m : MReg) (s : State) : Host.Outcome State Fault Refusal := issueWord (mVnot d a m) s

/-! ## Shifts and counts (R134, R135) -/

/-- A shift or rotation of elements of width w. -/
def shift2 (lit : Bool) (f : Nat → Nat → Nat → Nat) : Reg → Reg → Reg → MReg → Meaning :=
  map2 2 (fun _ t => shiftTag t) lit (fun t a n => (f t.width a n % 2 ^ t.width, 0))

def shlElem (w a n : Nat) : Nat := if n < w then a * 2 ^ n else 0
def shrElem (w a n : Nat) : Nat := if n < w then a / 2 ^ n else 0
def sraElem (w a n : Nat) : Nat := wrapTo w (sext w a / (2 ^ (min n w) : Nat))
def rolElem (w a n : Nat) : Nat := a * 2 ^ (n % w) + a / 2 ^ (w - n % w)

/-- VSHL (R134). -/
def mVshl (d : Reg) (a : Reg) (b : Reg) (m : MReg) : Meaning := shift2 false shlElem d a b m
def execVshl (d : Reg) (a : Reg) (b : Reg) (m : MReg) (s : State) : Host.Outcome State Fault Refusal :=
  issueWord (mVshl d a b m) s

/-- VSHL_LIT (R134, R126). -/
def mVshlLit (d : Reg) (a : Reg) (b : Reg) (m : MReg) : Meaning := shift2 true shlElem d a b m
def execVshlLit (d : Reg) (a : Reg) (b : Reg) (m : MReg) (s : State) : Host.Outcome State Fault Refusal :=
  issueWord (mVshlLit d a b m) s

/-- VSHR (R134). -/
def mVshr (d : Reg) (a : Reg) (b : Reg) (m : MReg) : Meaning := shift2 false shrElem d a b m
def execVshr (d : Reg) (a : Reg) (b : Reg) (m : MReg) (s : State) : Host.Outcome State Fault Refusal :=
  issueWord (mVshr d a b m) s

/-- VSHR_LIT (R134, R126). -/
def mVshrLit (d : Reg) (a : Reg) (b : Reg) (m : MReg) : Meaning := shift2 true shrElem d a b m
def execVshrLit (d : Reg) (a : Reg) (b : Reg) (m : MReg) (s : State) : Host.Outcome State Fault Refusal :=
  issueWord (mVshrLit d a b m) s

/-- VSRA (R134). -/
def mVsra (d : Reg) (a : Reg) (b : Reg) (m : MReg) : Meaning := shift2 false sraElem d a b m
def execVsra (d : Reg) (a : Reg) (b : Reg) (m : MReg) (s : State) : Host.Outcome State Fault Refusal :=
  issueWord (mVsra d a b m) s

/-- VSRA_LIT (R134, R126). -/
def mVsraLit (d : Reg) (a : Reg) (b : Reg) (m : MReg) : Meaning := shift2 true sraElem d a b m
def execVsraLit (d : Reg) (a : Reg) (b : Reg) (m : MReg) (s : State) : Host.Outcome State Fault Refusal :=
  issueWord (mVsraLit d a b m) s

/-- VROL (R134). -/
def mVrol (d : Reg) (a : Reg) (b : Reg) (m : MReg) : Meaning := shift2 false rolElem d a b m
def execVrol (d : Reg) (a : Reg) (b : Reg) (m : MReg) (s : State) : Host.Outcome State Fault Refusal :=
  issueWord (mVrol d a b m) s

/-- VROR (R134). -/
def mVror (d : Reg) (a : Reg) (b : Reg) (m : MReg) : Meaning := shift2 false (fun w a n => rolElem w a (w - n % w)) d a b m
def execVror (d : Reg) (a : Reg) (b : Reg) (m : MReg) (s : State) : Host.Outcome State Fault Refusal :=
  issueWord (mVror d a b m) s

/-- The number of one bits among the low n bits. -/
def popcount : Nat → Nat → Nat
  | 0, _ => 0
  | n + 1, v => v % 2 + popcount n (v / 2)
/-- The number of bits up to the highest one bit. -/
def bitLength (v : Nat) : Nat := if v = 0 then 0 else Nat.log2 v + 1

/-- VCLZ (R135). -/
def mVclz (d : Reg) (a : Reg) (m : MReg) : Meaning := map1 2 (fun _ t => shiftTag t) (fun t x => (t.width - bitLength x, 0)) d a m
def execVclz (d : Reg) (a : Reg) (m : MReg) (s : State) : Host.Outcome State Fault Refusal := issueWord (mVclz d a m) s

/-- VPOPC (R135). -/
def mVpopc (d : Reg) (a : Reg) (m : MReg) : Meaning := map1 2 (fun _ t => shiftTag t) (fun t x => (popcount t.width x, 0)) d a m
def execVpopc (d : Reg) (a : Reg) (m : MReg) (s : State) : Host.Outcome State Fault Refusal := issueWord (mVpopc d a m) s

/-! ## Compare, select, move, broadcast, index (R136 to R139) -/

/-- The conditions of VCMP. -/
def condHolds (c : Nat) (x y : Int) : Bool :=
  match c with
  | 0 => x == y | 1 => x != y | 2 => decide (x < y) | 3 => decide (x ≤ y) | 4 => decide (x > y) | _ => decide (x ≥ y)

/-- A word with bit l from a predicate. -/
def wordOf (p : Nat → Bool) : Word := wd (packElems 1 ((List.range 32).map (fun l => if p l then 1 else 0)))

/-- A comparison of lanes into a mask register. -/
def compare2 (lit signed : Bool) (d : Fin 8) (a b : Reg) (c : Fin 8) (m : MReg) : Meaning :=
  .lanes fun e g s =>
    let va := s.ctx.v g a
    let (x, sb, rs) := if lit then (let (v, r) := e.scalarLanes b false; (v, ([] : List Src), r))
      else ((s.ctx.v g b).data, [{ opnd := 1, reg := b, ok := laneInt }], [])
    let val (v : Nat) : Int := if signed then sext 32 v else (v : Int)
    mPlan e g s ([{ opnd := 0, reg := a, ok := laneInt }] ++ sb) rs [] d m 2
      fun mask => (wordOf (fun l => condHolds c.val (val (lane va.data l)) (val (lane x l))), mask, 0)

/-- VCMP (R136). -/
def mVcmp (d : Fin 8) (a : Reg) (b : Reg) (c : Fin 8) (m : MReg) : Meaning := compare2 false true d a b c m
def execVcmp (d : Fin 8) (a : Reg) (b : Reg) (c : Fin 8) (m : MReg) (s : State) : Host.Outcome State Fault Refusal :=
  issueWord (mVcmp d a b c m) s

/-- VCMP_LIT (R136, R126). -/
def mVcmpLit (d : Fin 8) (a : Reg) (b : Reg) (c : Fin 8) (m : MReg) : Meaning := compare2 true true d a b c m
def execVcmpLit (d : Fin 8) (a : Reg) (b : Reg) (c : Fin 8) (m : MReg) (s : State) : Host.Outcome State Fault Refusal :=
  issueWord (mVcmpLit d a b c m) s

/-- VCMPU (R136). -/
def mVcmpu (d : Fin 8) (a : Reg) (b : Reg) (c : Fin 8) (m : MReg) : Meaning := compare2 false false d a b c m
def execVcmpu (d : Fin 8) (a : Reg) (b : Reg) (c : Fin 8) (m : MReg) (s : State) : Host.Outcome State Fault Refusal :=
  issueWord (mVcmpu d a b c m) s

/-- VSEL (R137). -/
def mVsel (d : Reg) (a : Reg) (b : Reg) (m : MReg) : Meaning :=
  .lanes fun e g s =>
    let va := s.ctx.v g a
    let vb := s.ctx.v g b
    vPlan e g s [{ opnd := 0, reg := a, ok := anyData }, { opnd := 1, reg := b, ok := (· == va.tag) }] [] d m 2
      fun mask => { data := blend (activeBits (va.tag == .fp64) mask) va.data vb.data, bits := allOnes, tag := va.tag }
def execVsel (d : Reg) (a : Reg) (b : Reg) (m : MReg) (s : State) : Host.Outcome State Fault Refusal :=
  issueWord (mVsel d a b m) s

/-- VMOV (R138). -/
def mVmov (d : Reg) (a : Reg) (m : MReg) : Meaning :=
  .lanes fun e g s =>
    let va := s.ctx.v g a
    vPlan e g s [{ opnd := 0, reg := a, ok := anyData }] [] d m 2
      fun mask => { data := va.data, bits := activeBits (va.tag == .fp64) mask, tag := va.tag }
def execVmov (d : Reg) (a : Reg) (m : MReg) (s : State) : Host.Outcome State Fault Refusal := issueWord (mVmov d a m) s

/-- VBCAST (R138). -/
def mVbcast (d : Reg) (b : Reg) (t : Tag) (m : MReg) : Meaning :=
  .lanes fun e g s =>
    let (x, rs) := e.scalarLanes b (t == .fp64)
    vPlan e g s [] rs d m 2 fun mask => { data := x, bits := activeBits (t == .fp64) mask, tag := t }
def execVbcast (d : Reg) (b : Reg) (t : Tag) (m : MReg) (s : State) : Host.Outcome State Fault Refusal :=
  issueWord (mVbcast d b t m) s

/-- VLANEID (R139). -/
def mVlaneid (d : Reg) (m : MReg) (v : Fin 4) : Meaning :=
  .lanes fun e g s =>
    let val (l : Nat) : Nat :=
      match v.val with
      | 0 => l | 1 => g.val | 2 => 32 * g.val + l | _ => 256 * s.coreId.toNat + 32 * g.val + l
    vPlan e g s [] [] d m 2 fun mask => lanesOut .int32 mask val
def execVlaneid (d : Reg) (m : MReg) (v : Fin 4) (s : State) : Host.Outcome State Fault Refusal := issueWord (mVlaneid d m v) s

end Sys2Proof.Machine
end

