-- ==== Sys2Proof/Machine/VectorFp.lean ====
section
/-! DEFINITION. Vector floating point: arithmetic, comparison, classes, special functions, reductions, conversions and
quantisation (R140 to R151, R54, R61 to R64, R69). -/

namespace Sys2Proof.Machine

/-! ## Arithmetic (R140, R141) -/

/-- Two FP sources of one tag. -/
def fp2 (lit : Bool) (f : Fmt → Num → Num → FRes) : Reg → Reg → Reg → MReg → Meaning :=
  map2 4 fpTag lit (fun t x y => let k := Fmt.ofTag t; f k (k.decode x) (k.decode y))
/-- Three FP sources of one tag. -/
def fp3 (lit : Bool) (f : Fmt → Num → Num → Num → FRes) : Reg → Reg → Reg → Reg → MReg → Meaning :=
  map3 4 fpTag lit (fun t x y z => let k := Fmt.ofTag t; f k (k.decode x) (k.decode y) (k.decode z))

/-- VFADD (R141). -/
def mVfadd (d : Reg) (a : Reg) (b : Reg) (m : MReg) (r : Rnd) : Meaning := fp2 false (fun k x y => addN k r.mode x y) d a b m
def execVfadd (d : Reg) (a : Reg) (b : Reg) (m : MReg) (r : Rnd) (s : State) : Host.Outcome State Fault Refusal :=
  issueWord (mVfadd d a b m r) s

/-- VFADD_LIT (R141, R126). -/
def mVfaddLit (d : Reg) (a : Reg) (b : Reg) (m : MReg) (r : Rnd) : Meaning := fp2 true (fun k x y => addN k r.mode x y) d a b m
def execVfaddLit (d : Reg) (a : Reg) (b : Reg) (m : MReg) (r : Rnd) (s : State) : Host.Outcome State Fault Refusal :=
  issueWord (mVfaddLit d a b m r) s

/-- VFSUB (R141). -/
def mVfsub (d : Reg) (a : Reg) (b : Reg) (m : MReg) (r : Rnd) : Meaning := fp2 false (fun k x y => addN k r.mode x y.neg) d a b m
def execVfsub (d : Reg) (a : Reg) (b : Reg) (m : MReg) (r : Rnd) (s : State) : Host.Outcome State Fault Refusal :=
  issueWord (mVfsub d a b m r) s

/-- VFSUB_LIT (R141, R126). -/
def mVfsubLit (d : Reg) (a : Reg) (b : Reg) (m : MReg) (r : Rnd) : Meaning :=
  fp2 true (fun k x y => addN k r.mode x y.neg) d a b m
def execVfsubLit (d : Reg) (a : Reg) (b : Reg) (m : MReg) (r : Rnd) (s : State) : Host.Outcome State Fault Refusal :=
  issueWord (mVfsubLit d a b m r) s

/-- VFMUL (R141). -/
def mVfmul (d : Reg) (a : Reg) (b : Reg) (m : MReg) (r : Rnd) : Meaning := fp2 false (fun k x y => mulN k r.mode x y) d a b m
def execVfmul (d : Reg) (a : Reg) (b : Reg) (m : MReg) (r : Rnd) (s : State) : Host.Outcome State Fault Refusal :=
  issueWord (mVfmul d a b m r) s

/-- VFMUL_LIT (R141, R126). -/
def mVfmulLit (d : Reg) (a : Reg) (b : Reg) (m : MReg) (r : Rnd) : Meaning := fp2 true (fun k x y => mulN k r.mode x y) d a b m
def execVfmulLit (d : Reg) (a : Reg) (b : Reg) (m : MReg) (r : Rnd) (s : State) : Host.Outcome State Fault Refusal :=
  issueWord (mVfmulLit d a b m r) s

/-- VFMA (R141). -/
def mVfma (d : Reg) (a : Reg) (b : Reg) (c : Reg) (m : MReg) (r : Rnd) : Meaning :=
  fp3 false (fun k x y z => fmaN k r.mode x y z) d a b c m
def execVfma (d : Reg) (a : Reg) (b : Reg) (c : Reg) (m : MReg) (r : Rnd) (s : State) : Host.Outcome State Fault Refusal :=
  issueWord (mVfma d a b c m r) s

/-- VFMA_LIT (R141, R126). -/
def mVfmaLit (d : Reg) (a : Reg) (b : Reg) (c : Reg) (m : MReg) (r : Rnd) : Meaning :=
  fp3 true (fun k x y z => fmaN k r.mode x y z) d a b c m
def execVfmaLit (d : Reg) (a : Reg) (b : Reg) (c : Reg) (m : MReg) (r : Rnd) (s : State) : Host.Outcome State Fault Refusal :=
  issueWord (mVfmaLit d a b c m r) s

/-- VFMS (R141). -/
def mVfms (d : Reg) (a : Reg) (b : Reg) (c : Reg) (m : MReg) (r : Rnd) : Meaning :=
  fp3 false (fun k x y z => fmaN k r.mode x y z.neg) d a b c m
def execVfms (d : Reg) (a : Reg) (b : Reg) (c : Reg) (m : MReg) (r : Rnd) (s : State) : Host.Outcome State Fault Refusal :=
  issueWord (mVfms d a b c m r) s

/-- VFNMA (R141). -/
def mVfnma (d : Reg) (a : Reg) (b : Reg) (c : Reg) (m : MReg) (r : Rnd) : Meaning :=
  fp3 false (fun k x y z => fmaN k r.mode x.neg y z) d a b c m
def execVfnma (d : Reg) (a : Reg) (b : Reg) (c : Reg) (m : MReg) (r : Rnd) (s : State) : Host.Outcome State Fault Refusal :=
  issueWord (mVfnma d a b c m r) s

/-- VFNMS (R141). -/
def mVfnms (d : Reg) (a : Reg) (b : Reg) (c : Reg) (m : MReg) (r : Rnd) : Meaning :=
  fp3 false (fun k x y z => fmaN k r.mode x.neg y z.neg) d a b c m
def execVfnms (d : Reg) (a : Reg) (b : Reg) (c : Reg) (m : MReg) (r : Rnd) (s : State) : Host.Outcome State Fault Refusal :=
  issueWord (mVfnms d a b c m r) s

/-- VFMIN (R142). -/
def mVfmin (d : Reg) (a : Reg) (b : Reg) (m : MReg) : Meaning :=
  map2 4 fpTag false (fun t x y => minMaxN (Fmt.ofTag t) false x y) d a b m
def execVfmin (d : Reg) (a : Reg) (b : Reg) (m : MReg) (s : State) : Host.Outcome State Fault Refusal :=
  issueWord (mVfmin d a b m) s

/-- VFMAX (R142). -/
def mVfmax (d : Reg) (a : Reg) (b : Reg) (m : MReg) : Meaning :=
  map2 4 fpTag false (fun t x y => minMaxN (Fmt.ofTag t) true x y) d a b m
def execVfmax (d : Reg) (a : Reg) (b : Reg) (m : MReg) (s : State) : Host.Outcome State Fault Refusal :=
  issueWord (mVfmax d a b m) s

/-- A code with its sign bit set as given; canonical NaN for a NaN (R143). -/
def signedCode (k : Fmt) (x : Nat) (neg : Bool) : FRes :=
  let n := k.decode x
  if n.isNan then (k.qnan, nvIf n.isSnan) else (x % 2 ^ (k.eb + k.mb) + k.signBit neg, 0)

/-- VFABS (R143). -/
def mVfabs (d : Reg) (a : Reg) (m : MReg) : Meaning := map1 4 fpTag (fun t x => signedCode (Fmt.ofTag t) x false) d a m
def execVfabs (d : Reg) (a : Reg) (m : MReg) (s : State) : Host.Outcome State Fault Refusal := issueWord (mVfabs d a m) s

/-- VFNEG (R143). -/
def mVfneg (d : Reg) (a : Reg) (m : MReg) : Meaning :=
  map1 4 fpTag (fun t x => signedCode (Fmt.ofTag t) x (!((Fmt.ofTag t).decode x).isNeg)) d a m
def execVfneg (d : Reg) (a : Reg) (m : MReg) (s : State) : Host.Outcome State Fault Refusal := issueWord (mVfneg d a m) s

/-! ## Compare and classify (R144, R145) -/

/-- The truth of a condition and whether it sets NV. -/
def fpCond (c : Nat) (x y : Num) : Bool × Byte :=
  let nan := x.isNan || y.isNan
  let snan := x.isSnan || y.isSnan
  match c with
  | 0 => (!nan && numEq x y, nvIf snan)
  | 1 => (nan || !numEq x y, nvIf snan)
  | 2 => (!nan && numLt x y, nvIf nan)
  | 3 => (!nan && (numLt x y || numEq x y), nvIf nan)
  | 4 => (!nan && numLt y x, nvIf nan)
  | 5 => (!nan && (numLt y x || numEq x y), nvIf nan)
  | 6 => (nan, nvIf snan)
  | _ => (!nan, nvIf snan)

/-- VFCMP: FP64 in V0 alone, or FP32. -/
def fcompare (lit : Bool) (d : Fin 8) (a b : Reg) (c : Fin 8) (m : MReg) : Meaning :=
  .lanes fun e g s =>
    let va := s.ctx.v g a
    let (x, sb, rs) := secondOperand lit e g s va.tag b
    let wide := va.tag == .fp64
    let k := Fmt.ofTag va.tag
    let at_ (v : VData) (l : Nat) : Num := k.decode (if wide then elem 64 v (l / 2) else lane v l)
    let res (l : Nat) : Bool × Byte := fpCond c.val (at_ va.data l) (at_ x l)
    mPlan e g s ([{ opnd := 0, reg := a, ok := fun t => t == .fp32 || (t == .fp64 && e.slot != .v1) }] ++ sb) rs [] d m 4
      fun mask =>
        let act := activeLane wide mask
        (wordOf (fun l => (res l).1), wordOf act, orAll ((List.range 32).map (fun l => (0, if act l then (res l).2 else 0))))

/-- VFCMP (R144). -/
def mVfcmp (d : Fin 8) (a : Reg) (b : Reg) (c : Fin 8) (m : MReg) : Meaning := fcompare false d a b c m
def execVfcmp (d : Fin 8) (a : Reg) (b : Reg) (c : Fin 8) (m : MReg) (s : State) : Host.Outcome State Fault Refusal :=
  issueWord (mVfcmp d a b c m) s

/-- VFCMP_LIT (R144, R126). -/
def mVfcmpLit (d : Fin 8) (a : Reg) (b : Reg) (c : Fin 8) (m : MReg) : Meaning := fcompare true d a b c m
def execVfcmpLit (d : Fin 8) (a : Reg) (b : Reg) (c : Fin 8) (m : MReg) (s : State) : Host.Outcome State Fault Refusal :=
  issueWord (mVfcmpLit d a b c m) s

/-- VFCLASS (R145). -/
def mVfclass (d : Reg) (a : Reg) (m : MReg) : Meaning :=
  .lanes fun e g s =>
    let va := s.ctx.v g a
    let k := Fmt.ofTag va.tag
    vPlan e g s [{ opnd := 0, reg := a, ok := fpTag e }] [] d m 4 fun mask =>
      if va.tag = .fp64 then
        { data := ofLanes (fun l => classOf k (elem 64 va.data (l / 2))), bits := activeBits true mask, tag := .int32 }
      else
        let w := va.tag.width
        { data := ofElems w ((elems w va.data).map (classOf k)), bits := activeBits false mask,
          tag := if va.tag = .fp32 then .int32 else .int16 }
def execVfclass (d : Reg) (a : Reg) (m : MReg) (s : State) : Host.Outcome State Fault Refusal := issueWord (mVfclass d a m) s

/-! ## Special functions (R146) -/

/-- One FP source at latency 12. -/
def special1 (f : Fmt → Num → FRes) : Reg → Reg → MReg → Meaning :=
  map1 12 fpTag (fun t x => let k := Fmt.ofTag t; f k (k.decode x))

/-- VRCP (R146). -/
def mVrcp (d : Reg) (a : Reg) (m : MReg) (r : Rnd) : Meaning := special1 (fun k x => rcpN k r.mode x) d a m
def execVrcp (d : Reg) (a : Reg) (m : MReg) (r : Rnd) (s : State) : Host.Outcome State Fault Refusal :=
  issueWord (mVrcp d a m r) s

/-- VRSQ (R146). -/
def mVrsq (d : Reg) (a : Reg) (m : MReg) (r : Rnd) : Meaning := special1 (fun k x => rsqN k r.mode x) d a m
def execVrsq (d : Reg) (a : Reg) (m : MReg) (r : Rnd) (s : State) : Host.Outcome State Fault Refusal :=
  issueWord (mVrsq d a m r) s

/-- VSQRT (R146). -/
def mVsqrt (d : Reg) (a : Reg) (m : MReg) (r : Rnd) : Meaning := special1 (fun k x => sqrtN k r.mode x) d a m
def execVsqrt (d : Reg) (a : Reg) (m : MReg) (r : Rnd) (s : State) : Host.Outcome State Fault Refusal :=
  issueWord (mVsqrt d a m r) s

/-- VDIV (R146). -/
def mVdiv (d : Reg) (a : Reg) (b : Reg) (m : MReg) (r : Rnd) : Meaning :=
  map2 12 fpTag false (fun t x y => let k := Fmt.ofTag t; divN k r.mode (k.decode x) (k.decode y)) d a b m
def execVdiv (d : Reg) (a : Reg) (b : Reg) (m : MReg) (r : Rnd) (s : State) : Host.Outcome State Fault Refusal :=
  issueWord (mVdiv d a b m r) s

/-- VEXP2 (R146). -/
def mVexp2 (d : Reg) (a : Reg) (m : MReg) (r : Rnd) : Meaning := special1 (fun k x => exp2N k r.mode x) d a m
def execVexp2 (d : Reg) (a : Reg) (m : MReg) (r : Rnd) (s : State) : Host.Outcome State Fault Refusal :=
  issueWord (mVexp2 d a m r) s

/-- VLOG2 (R146). -/
def mVlog2 (d : Reg) (a : Reg) (m : MReg) (r : Rnd) : Meaning := special1 (fun k x => log2N k r.mode x) d a m
def execVlog2 (d : Reg) (a : Reg) (m : MReg) (r : Rnd) (s : State) : Host.Outcome State Fault Refusal :=
  issueWord (mVlog2 d a m r) s

/-! ## Reductions (R69, R147) -/

/-- One node of the tree: inactive inputs pass by. -/
def redNode (f : Nat → Nat → FRes) (x y : Option (Nat × Byte)) : Option (Nat × Byte) :=
  match x, y with
  | some a, some b => let r := f a.1 b.1; some (r.1, a.2 ||| b.2 ||| r.2)
  | some a, none => some a
  | none, y => y
/-- One level of the tree. -/
def redLevel (f : Nat → Nat → FRes) : List (Option (Nat × Byte)) → List (Option (Nat × Byte))
  | x :: y :: r => redNode f x y :: redLevel f r
  | l => l
def redTree (f : Nat → Nat → FRes) : Nat → List (Option (Nat × Byte)) → Option (Nat × Byte)
  | 0, l => (l.headD none)
  | n + 1, l => redTree f n (redLevel f l)

/-- The bits of a reduction's result: a NaN that the tree passes on is the canonical one (R49). -/
def redResult (t : Tag) (v : Nat) : Nat :=
  if (t = .fp32 ∨ t = .fp64) ∧ ((Fmt.ofTag t).decode v).isNan then (Fmt.ofTag t).qnan else v

/-- A lane reduction, written into every element. -/
def reduce (lat : Nat) (ok : Env → Tag → Bool) (f : Tag → Nat → Nat → FRes) (idle : Tag → Nat) (d a : Reg) (m : MReg) : Meaning :=
  .lanes fun e g s =>
    let va := s.ctx.v g a
    let w := va.tag.width
    vPlan e g s [{ opnd := 0, reg := a, ok := ok e }] [] d m lat fun mask =>
      let leaves := (List.range (1024 / w)).map (fun i => if activeElem w mask i then some (elem w va.data i, (0 : Byte)) else none)
      let (v, fl) := (redTree (f va.tag) (if w = 64 then 4 else 5) leaves).getD (idle va.tag, 0)
      { data := ofElems w (List.replicate (1024 / w) (redResult va.tag v)), bits := allOnes, tag := va.tag, flags := fl }

/-- FP32, or FP64 in V0 (R147, R129). -/
def redFp (e : Env) (t : Tag) : Bool := t == .fp32 || (t == .fp64 && e.slot != .v1)

/-- VREDADD (R147, R69). -/
def mVredadd (d : Reg) (a : Reg) (m : MReg) : Meaning :=
  reduce 8 redFp (fun t x y => let k := Fmt.ofTag t; addN k .rne (k.decode x) (k.decode y)) (fun _ => 0) d a m
def execVredadd (d : Reg) (a : Reg) (m : MReg) (s : State) : Host.Outcome State Fault Refusal := issueWord (mVredadd d a m) s

/-- VREDMAX (R147, R69). -/
def mVredmax (d : Reg) (a : Reg) (m : MReg) : Meaning :=
  reduce 8 redFp (fun t x y => minMaxN (Fmt.ofTag t) true x y) (fun t => (Fmt.ofTag t).inf true) d a m
def execVredmax (d : Reg) (a : Reg) (m : MReg) (s : State) : Host.Outcome State Fault Refusal := issueWord (mVredmax d a m) s

/-- VREDMIN (R147, R69). -/
def mVredmin (d : Reg) (a : Reg) (m : MReg) : Meaning :=
  reduce 8 redFp (fun t x y => minMaxN (Fmt.ofTag t) false x y) (fun t => (Fmt.ofTag t).inf false) d a m
def execVredmin (d : Reg) (a : Reg) (m : MReg) (s : State) : Host.Outcome State Fault Refusal := issueWord (mVredmin d a m) s

/-- VREDIADD (R147, R69). -/
def mVrediadd (d : Reg) (a : Reg) (m : MReg) : Meaning :=
  reduce 6 (fun _ t => t == .int32) (fun t x y => wrapElem t (intVal t x + intVal t y)) (fun _ => 0) d a m
def execVrediadd (d : Reg) (a : Reg) (m : MReg) (s : State) : Host.Outcome State Fault Refusal := issueWord (mVrediadd d a m) s

/-- VREDIMAX (R147, R69). -/
def mVredimax (d : Reg) (a : Reg) (m : MReg) : Meaning :=
  reduce 6 (fun _ t => t == .int32) (fun t x y => wrapElem t (max (intVal t x) (intVal t y))) (fun _ => 0x80000000) d a m
def execVredimax (d : Reg) (a : Reg) (m : MReg) (s : State) : Host.Outcome State Fault Refusal := issueWord (mVredimax d a m) s

/-- VREDIMIN (R147, R69). -/
def mVredimin (d : Reg) (a : Reg) (m : MReg) : Meaning :=
  reduce 6 (fun _ t => t == .int32) (fun t x y => wrapElem t (min (intVal t x) (intVal t y))) (fun _ => 0x7FFFFFFF) d a m
def execVredimin (d : Reg) (a : Reg) (m : MReg) (s : State) : Host.Outcome State Fault Refusal := issueWord (mVredimin d a m) s

/-! ## Conversions (R148, R149, R61 to R64) -/

/-- One element converted from one format to another. -/
def convert (src dst : Tag) (md : RMode) (sat : Bool) (c : Nat) : FRes :=
  if src.isInt then
    if dst.isInt then clampInt dst.isSigned dst.width (intVal src c)
    else cvtOfInt (Fmt.ofTag dst) md false (intVal src c)
  else
    let n := (Fmt.ofTag src).decode c
    if dst.isInt then cvtToInt dst.isSigned dst.width md n else cvtFloat (Fmt.ofTag dst) md sat n

/-- Elements per unit: the unit is a lane, or a lane pair where a format is FP64 (R149). -/
def perUnit (pair : Bool) (t : Tag) : Nat := (if pair then 64 else 32) / t.width

/-- A conversion with its movement of elements (R149). -/
def cvtPlan (sat : Bool) (d a : Reg) (p : Nat) (t : Tag) (m : MReg) (md : RMode) : Meaning :=
  .lanes fun e g s =>
    let va := s.ctx.v g a
    let pair := va.tag == .fp64 || t == .fp64
    let na := perUnit pair va.tag
    let nb := perUnit pair t
    let parts := max (na / nb) (nb / na)
    let bad := if va.tag.isCvt && decide (p ≥ parts) then [e.bad 0x08] else []
    vPlan e g s [{ opnd := 0, reg := a, ok := Tag.isCvt }] bad d m 4 fun mask =>
      -- for target element j: its source element, if this instruction writes it
      let src (j : Nat) : Option Nat :=
        let u := j / nb
        let k := j % nb
        if na ≥ nb then some (u * na + (p * nb + k)) else if k / na = p then some (u * na + k % na) else none
      let w := t.width
      let rs := (List.range (1024 / w)).map (fun j =>
        if activeElem w mask j then (src j).map (fun i => convert va.tag t md sat (elem va.tag.width va.data i)) else none)
      { data := ofElems w (rs.map (fun r => (r.getD (0, 0)).1)),
        bits := ofElems w (rs.map (fun r => if r.isSome then 2 ^ w - 1 else 0)),
        tag := t, flags := orAll (rs.filterMap id) }

/-- VCVT (R148, R149). -/
def mVcvt (d : Reg) (a : Reg) (p : Fin 16) (t : Tag) (m : MReg) (r : Rnd) : Meaning := cvtPlan false d a p.val t m r.mode
def execVcvt (d : Reg) (a : Reg) (p : Fin 16) (t : Tag) (m : MReg) (r : Rnd) (s : State) : Host.Outcome State Fault Refusal :=
  issueWord (mVcvt d a p t m r) s

/-- VCVTSAT (R148, R149). -/
def mVcvtsat (d : Reg) (a : Reg) (p : Fin 16) (t : Tag) (m : MReg) (r : Rnd) : Meaning := cvtPlan true d a p.val t m r.mode
def execVcvtsat (d : Reg) (a : Reg) (p : Fin 16) (t : Tag) (m : MReg) (r : Rnd) (s : State) : Host.Outcome State Fault Refusal :=
  issueWord (mVcvtsat d a p t m r) s

/-! ## Blocked quantisation (R54, R150, R151) -/

/-- The partner of an even register. The spec does not say what the partner of v31 is, where an odd VD of VQNT4 raises 0x20; the model's
is v0, which then counts as a destination (DESIGN CHOICE, log 103). -/
def nextReg (r : Reg) : Reg := Fin.ofNat 32 (r.val + 1)
/-- The register n above. -/
def regPlus (r : Reg) (n : Nat) : Reg := Fin.ofNat 32 (r.val + n)

/-- The block of lane l of a source set (R150). -/
def quantInputs (s : State) (g : Group) (a : Reg) (t : Tag) (l : Nat) : List Num :=
  (List.range 8).map (fun i =>
    if t = .fp32 then Fmt.fp32.decode (lane (s.ctx.v g (regPlus a i)).data l)
    else (Fmt.ofTag t).decode (elem 16 (s.ctx.v g (regPlus a (i / 2))).data (2 * l + i % 2)))

/-- VQNT4 (R150, R54). Where the base of the source set is POISON the size of the set is not known; v(va+1) to v(va+3) stand in
either set, and one whose tag is not the base's makes the tags unequal, 0x20, the lower cause (DESIGN CHOICE, log 90). -/
def mVqnt4 (d : Reg) (a : Reg) (b : Reg) (m : MReg) : Meaning :=
  .lanes fun e g s =>
    let t := (s.ctx.v g a).tag
    let half := t == .bf16 || t == .fp16
    let known := half || t == .fp32
    let n := if t == .fp32 then 8 else if half || t == .poison then 4 else 1
    let set_ := (List.range n).map (fun i =>
      ({ opnd := 0, reg := regPlus a i, ok := fun u => known && u == t, num := i } : Src))
    let srcs := set_ ++ [{ opnd := 1, reg := b, ok := (· == .bf16) }]
    let misal := if a.val % (if t = .fp32 then 8 else 4) ≠ 0 then [e.bad 0x08] else []
    let odd := if d.val % 2 = 1 then [({ cause := 0x20, tval := e.tagTval g 3 0 (s.ctx.v g d).tag } : Raise)] else []
    let lat := e.lat 4
    { raises := misal ++ srcs.flatMap (Src.raises e g s) ++ odd
      reads := srcs.map (fun x => Res.v g x.reg) ++ maskRead g m
      writes := [(.v g d, lat), (.v g (nextReg d), lat)]
      effs := [(.main, fun st =>
        let mask := s.ctx.m g m
        let band (l : Nat) : Nat := elem 16 (s.ctx.v g b).data (2 * l)
        let q := (List.range 32).map (fun l =>
          if maskBit mask l then quantBlock (quantInputs s g a t l) (Fmt.bf16.decode (band l)) else (0, 0, 0))
        let flags := q.foldl (fun f x => f ||| x.2.2) 0
        let bits := activeBits false mask
        (st.launch lat (.v g d (ofElems 32 (q.map (·.1))) bits .fp4b) flags).launch lat
          (.v g (nextReg d) (ofElems 32 (q.zipIdx.map (fun x => x.1.2.1 + band x.2 * 2 ^ 16))) bits .fp4b))] }
def execVqnt4 (d : Reg) (a : Reg) (b : Reg) (m : MReg) (s : State) : Host.Outcome State Fault Refusal :=
  issueWord (mVqnt4 d a b m) s

/-- Causes of an FP4B base: an odd register, or a partner without the tag, POISON among the other tags (R52, R130 OPND 4). -/
def pairRaises (e : Env) (g : Group) (s : State) (a : Reg) : List Raise :=
  if a.val % 2 = 1 then [{ cause := 0x20, tval := e.tagTval g 0 0 (s.ctx.v g a).tag }]
  else
    let p := s.ctx.v g (nextReg a)
    Src.raises e g s { opnd := 4, reg := nextReg a, ok := (· == .fp4b) } ++
      (if p.tag = .poison then [{ cause := 0x20, tval := e.tagTval g 4 0 .poison }] else [])

/-- A blocked value in a target format, with the flags of R151. -/
def dequant (f : Fmt) (x : Num × Bool) : FRes :=
  match x.1 with
  | .nan _ => (f.qnan, nvIf x.2)
  | n => cvtFloat f .rne false n

/-- VDQNT4 (R151, R53). -/
def mVdqnt4 (d : Reg) (a : Reg) (p : Fin 8) (t : Tag) (m : MReg) : Meaning :=
  .lanes fun e g s =>
    let va := s.ctx.v g a
    let vs := s.ctx.v g (nextReg a)
    let plan := vPlan e g s [{ opnd := 0, reg := a, ok := (· == .fp4b) }] [] d m 4 fun mask =>
        let n := 32 / t.width
        elementwise t.width t mask (fun j =>
          dequant (Fmt.ofTag t) (blockElem (lane va.data (j / n)) (lane vs.data (j / n)) (n * p.val + j % n)))
    { plan with reads := [Res.v g a, Res.v g (nextReg a)] ++ maskRead g m, raises := plan.raises ++ pairRaises e g s a }
def execVdqnt4 (d : Reg) (a : Reg) (p : Fin 8) (t : Tag) (m : MReg) (s : State) : Host.Outcome State Fault Refusal :=
  issueWord (mVdqnt4 d a p t m) s

end Sys2Proof.Machine
end

