-- ==== Sys2Proof/Machine/VectorMove.lean ====
section
/-! DEFINITION. Packs, permutes, the neighbour shift, tags, residues, masks, and lane accesses to core SRAM (R152 to R165,
R187). -/

namespace Sys2Proof.Machine

/-! ## Packs (R152) -/

/-- VPACK (R152). -/
def mVpack (d : Reg) (a : Reg) (b : Reg) (m : MReg) : Meaning :=
  .lanes fun e g s =>
    let va := s.ctx.v g a
    let vb := s.ctx.v g b
    let t : Tag := if va.tag = .int32 then .int16 else if va.tag = .int16 then .int8 else .int4
    let w := va.tag.width
    let n := 32 / w
    vPlan e g s [{ opnd := 0, reg := a, ok := fun t => t == .int32 || t == .int16 || t == .int8 },
                 { opnd := 1, reg := b, ok := (· == va.tag) }] [] d m 2 fun mask =>
      elementwise (w / 2) t mask (fun j =>
        let k := j % (2 * n)
        let x := if k < n then elem w va.data (j / (2 * n) * n + k) else elem w vb.data (j / (2 * n) * n + (k - n))
        (x % 2 ^ (w / 2), 0))
def execVpack (d : Reg) (a : Reg) (b : Reg) (m : MReg) (s : State) : Host.Outcome State Fault Refusal :=
  issueWord (mVpack d a b m) s

/-- The result tag of an unpack. -/
def unpackTag (t : Tag) : Tag := if t = .int16 then .int32 else if t = .int4 then .int8 else .int16

/-- VUNPACKLO and VUNPACKHI. -/
def unpack (hi : Bool) (d a : Reg) (m : MReg) : Meaning :=
  .lanes fun e g s =>
    let va := s.ctx.v g a
    let t := unpackTag va.tag
    let n := 32 / t.width
    vPlan e g s [{ opnd := 0, reg := a, ok := fun t => t == .int16 || t == .int8 || t == .uint8 || t == .int4 }] [] d m 2 fun mask =>
      elementwise t.width t mask (fun j =>
        (wrapTo t.width (intVal va.tag (elem va.tag.width va.data (j / n * (2 * n) + j % n + if hi then n else 0))), 0))

/-- VUNPACKLO (R152). -/
def mVunpacklo (d : Reg) (a : Reg) (m : MReg) : Meaning := unpack false d a m
def execVunpacklo (d : Reg) (a : Reg) (m : MReg) (s : State) : Host.Outcome State Fault Refusal := issueWord (mVunpacklo d a m) s

/-- VUNPACKHI (R152). -/
def mVunpackhi (d : Reg) (a : Reg) (m : MReg) : Meaning := unpack true d a m
def execVunpackhi (d : Reg) (a : Reg) (m : MReg) (s : State) : Host.Outcome State Fault Refusal := issueWord (mVunpackhi d a m) s

/-! ## Permutes (R153 to R155) -/

/-- VPERM (R153). -/
def mVperm (d : Reg) (a : Reg) (b : Reg) (m : MReg) : Meaning :=
  .lanes fun e g s =>
    let va := s.ctx.v g a
    let vb := s.ctx.v g b
    vPlan e g s [{ opnd := 0, reg := a, ok := anyData }, { opnd := 1, reg := b, ok := laneInt }] [] d m 2
      fun mask => lanesOut va.tag mask (fun l => lane va.data (lane vb.data l % 32))
def execVperm (d : Reg) (a : Reg) (b : Reg) (m : MReg) (s : State) : Host.Outcome State Fault Refusal :=
  issueWord (mVperm d a b m) s

/-- Lane i of the 64 lanes of two registers (R154). -/
def lane64 (x y : VData) (i : Nat) : Nat := if i < 32 then lane x i else lane y (i - 32)

/-- VSLIDE (R154). -/
def mVslide (d : Reg) (a : Reg) (b : Reg) (s : Reg) (m : MReg) : Meaning :=
  .lanes fun e g st =>
    let va := st.ctx.v g a
    let vb := st.ctx.v g b
    vPlan e g st [{ opnd := 0, reg := a, ok := anyData }, { opnd := 1, reg := b, ok := (· == va.tag) }] [] d m 2
      fun mask => lanesOut va.tag mask (fun l => lane64 va.data vb.data (l + s.val))
def execVslide (d : Reg) (a : Reg) (b : Reg) (s : Reg) (m : MReg) (st : State) : Host.Outcome State Fault Refusal :=
  issueWord (mVslide d a b s m) st

/-- VSLIDE_LIT (R154, R126). -/
def mVslideLit (d : Reg) (a : Reg) (b : Reg) (c : Reg) (m : MReg) : Meaning :=
  .lanes fun e g s =>
    let va := s.ctx.v g a
    let vc := s.ctx.v g c
    let n := (e.scalarSource b false).getD 0 % 32
    vPlan e g s [{ opnd := 0, reg := a, ok := anyData }, { opnd := 2, reg := c, ok := (· == va.tag) }]
      (e.scalarLanes b false).2 d m 2 fun mask => lanesOut va.tag mask (fun l => lane64 va.data vc.data (l + n))
def execVslideLit (d : Reg) (a : Reg) (b : Reg) (c : Reg) (m : MReg) (s : State) : Host.Outcome State Fault Refusal :=
  issueWord (mVslideLit d a b c m) s

/-- VZIP and VUNZIP. -/
def zipLanes (f : VData → VData → Nat → Nat) (d a b : Reg) (m : MReg) : Meaning :=
  .lanes fun e g s =>
    let va := s.ctx.v g a
    let vb := s.ctx.v g b
    vPlan e g s [{ opnd := 0, reg := a, ok := anyData }, { opnd := 1, reg := b, ok := (· == va.tag) }] [] d m 2
      fun mask => lanesOut va.tag mask (f va.data vb.data)

/-- VZIP (R155). -/
def mVzip (d : Reg) (a : Reg) (b : Reg) (m : MReg) (h : Fin 2) : Meaning :=
  zipLanes (fun x y l => lane (if l % 2 = 0 then x else y) (16 * h.val + l / 2)) d a b m
def execVzip (d : Reg) (a : Reg) (b : Reg) (m : MReg) (h : Fin 2) (s : State) : Host.Outcome State Fault Refusal :=
  issueWord (mVzip d a b m h) s

/-- VUNZIP (R155). -/
def mVunzip (d : Reg) (a : Reg) (b : Reg) (m : MReg) (h : Fin 2) : Meaning :=
  zipLanes (fun x y l => lane (if l < 16 then x else y) (2 * (l % 16) + h.val)) d a b m
def execVunzip (d : Reg) (a : Reg) (b : Reg) (m : MReg) (h : Fin 2) (s : State) : Host.Outcome State Fault Refusal :=
  issueWord (mVunzip d a b m h) s

/-! ## The neighbour shift network (R187) -/

/-- The source group of a group, if there is one: NSH ends at the edges, NSHR goes round. -/
def neighbour (split ring : Bool) (v : Nat) (g : Group) : Option Group :=
  let n := if split then 4 else 8
  let base := g.val / n * n
  let i := g.val % n
  let off : Int := match v with | 0 => -1 | 1 => 1 | 2 => 2 | _ => -2
  let j := (i : Int) + off
  if ring then some (Fin.ofNat 8 (base + (j % n).toNat))
  else if 0 ≤ j ∧ j < n then some (Fin.ofNat 8 (base + j.toNat)) else none

/-- NSH and NSHR. -/
def shiftGroups (ring : Bool) (d a : Reg) (m : MReg) (v : Fin 4) : Meaning :=
  .lanes fun e g s =>
    match neighbour s.core.split ring v.val g with
    | none => { names := [.v g d] }
    | some k =>
      let va := s.ctx.v k a
      let rs : List Raise :=
        if va.tag = .poison then [{ cause := 0x21, tval := e.tagTval g 0 0 .poison, state := some (.v k a va) }]
        else if anyData va.tag then [] else [{ cause := 0x20, tval := e.tagTval g 0 0 va.tag }]
      let lat := e.lat 2
      { raises := rs, reads := [Res.v k a] ++ maskRead g m, writes := [(.v g d, lat)]
        effs := [(.main, State.launch lat (.v g d va.data (activeBits (va.tag == .fp64) (s.ctx.m g m)) va.tag))] }

/-- NSH (R187). -/
def mNsh (d : Reg) (a : Reg) (m : MReg) (v : Fin 4) : Meaning := shiftGroups false d a m v
def execNsh (d : Reg) (a : Reg) (m : MReg) (v : Fin 4) (s : State) : Host.Outcome State Fault Refusal :=
  issueWord (mNsh d a m v) s

/-- NSHR (R187). -/
def mNshr (d : Reg) (a : Reg) (m : MReg) (v : Fin 4) : Meaning := shiftGroups true d a m v
def execNshr (d : Reg) (a : Reg) (m : MReg) (v : Fin 4) (s : State) : Host.Outcome State Fault Refusal :=
  issueWord (mNshr d a m v) s

/-! ## Tags and residues (R160 to R162) -/

/-- VTAGSET (R160). -/
def mVtagset (d : Reg) (a : Reg) (t : Tag) (m : MReg) : Meaning :=
  .lanes fun e g s =>
    let va := s.ctx.v g a
    vPlan e g s [{ opnd := 0, reg := a, ok := anyData }] [] d m 2
      fun mask => { data := va.data, bits := activeBits (t == .fp64) mask, tag := t }
def execVtagset (d : Reg) (a : Reg) (t : Tag) (m : MReg) (s : State) : Host.Outcome State Fault Refusal :=
  issueWord (mVtagset d a t m) s

/-- VTAGRD (R161, R45). -/
def mVtagrd (d : Reg) (a : Reg) (m : MReg) : Meaning :=
  .lanes fun e g s =>
    let lat := e.lat 2
    { reads := [Res.v g a] ++ maskRead g m, writes := [(.v g d, lat)]
      effs := [(.main, State.launch lat (.v g d (ofLanes (fun _ => (s.ctx.v g a).tag.code)) (activeBits false (s.ctx.m g m)) .int32))] }
def execVtagrd (d : Reg) (a : Reg) (m : MReg) (s : State) : Host.Outcome State Fault Refusal := issueWord (mVtagrd d a m) s

/-- The values of the active elements of a register, or of an FP4B pair. -/
def activeValues (v partner : VReg) (mask : Word) : List Num :=
  if v.tag = .fp4b then
    (List.range 256).filterMap (fun i =>
      if maskBit mask (i / 8) then some (blockElem (lane v.data (i / 8)) (lane partner.data (i / 8)) (i % 8)).1 else none)
  else
    let w := v.tag.width
    (List.range (1024 / w)).filterMap (fun i => if activeElem w mask i then some (elemNum v.tag (elem w v.data i)) else none)

/-- The record of VRES as lanes 0 to 3 (R162). -/
def residueData (res nfin nnf : Nat) : VData :=
  ofLanes (fun l => match l with
    | 0 => res % 2 ^ 32 | 1 => res / 2 ^ 32 | 2 => nfin % 2 ^ 32 | 3 => nnf % 2 ^ 32 | _ => 0)

/-- VRES, with the record of VC added in where there is one. -/
def residuePlan (acc : Option Reg) (d a : Reg) (m : MReg) : Meaning :=
  .lanes fun e g s =>
    let va := s.ctx.v g a
    let pair := va.tag == .fp4b
    let srcA : Src := { opnd := 0, reg := a, ok := fun t => t.isData && t != .raw }
    let srcC : List Src := match acc with | some c => [{ opnd := 2, reg := c, ok := (· == .raw) }] | none => []
    let lat := e.lat 4
    { raises := srcA.raises e g s ++ (if pair then pairRaises e g s a else []) ++ srcC.flatMap (Src.raises e g s)
      reads := [Res.v g a] ++ (if pair then [Res.v g (nextReg a)] else []) ++
        (match acc with | some c => [Res.v g c] | none => []) ++ maskRead g m
      writes := [(.v g d, lat)]
      effs := [(.main, fun t =>
        let (r, n, k) := residues (activeValues va (s.ctx.v g (nextReg a)) (s.ctx.m g m))
        let (r0, n0, k0) := match acc with
          | some c =>
            let x := (s.ctx.v g c).data
            (lane x 0 + lane x 1 % 2 ^ 29 * 2 ^ 32, lane x 2, lane x 3)
          | none => (0, 0, 0)
        t.launch lat (.v g d (residueData ((r + r0) % resP) (n + n0) (k + k0)) allOnes .raw))] }

/-- VRES (R162, R70, R71). -/
def mVres (d : Reg) (a : Reg) (m : MReg) : Meaning := residuePlan none d a m
def execVres (d : Reg) (a : Reg) (m : MReg) (s : State) : Host.Outcome State Fault Refusal := issueWord (mVres d a m) s

/-- VRES_ACC (R162, R70, R71). -/
def mVresAcc (d : Reg) (a : Reg) (c : Reg) (m : MReg) : Meaning := residuePlan (some c) d a m
def execVresAcc (d : Reg) (a : Reg) (c : Reg) (m : MReg) (s : State) : Host.Outcome State Fault Refusal :=
  issueWord (mVresAcc d a c m) s

/-! ## Masks (R163 to R165) -/

/-- VMSK (R163). -/
def mVmsk (d : Fin 8) (a : Fin 8) (b : Fin 8) (f : Fin 8) : Meaning :=
  .lanes fun e g s =>
    let x := s.ctx.m g a
    let y := s.ctx.m g b
    let v : Word := match f.val with
      | 0 => x &&& y | 1 => x ||| y | 2 => x ^^^ y | 3 => x &&& ~~~y | 4 => x ||| ~~~y | 5 => ~~~(x ^^^ y) | 6 => ~~~x | _ => x
    mPlan e g s [] [] (maskRead g a ++ (if f.val < 6 then maskRead g b else [])) d 0 2 fun _ => (v, 0xFFFFFFFF, 0)
def execVmsk (d : Fin 8) (a : Fin 8) (b : Fin 8) (f : Fin 8) (s : State) : Host.Outcome State Fault Refusal :=
  issueWord (mVmsk d a b f) s

/-- A number in every active lane as INT32. -/
def intInLanes (n : Nat) (g : Group) (src m : MReg) (d : Reg) (e : Env) (s : State) : Plan :=
  let lat := e.lat 2
  { reads := maskRead g src ++ maskRead g m, writes := [(.v g d, lat)]
    effs := [(.main, State.launch lat (.v g d (ofLanes (fun _ => n)) (activeBits false (s.ctx.m g m)) .int32))] }

/-- VMPOPC (R164). -/
def mVmpopc (d : Reg) (a : Fin 8) (m : MReg) : Meaning :=
  .lanes fun e g s => intInLanes (popcount 32 (s.ctx.m g a).toNat) g a m d e s
def execVmpopc (d : Reg) (a : Fin 8) (m : MReg) (s : State) : Host.Outcome State Fault Refusal := issueWord (mVmpopc d a m) s

/-- The index of the lowest one bit, or 32. -/
def lowestBit (v : Word) : Nat := ((List.range 32).find? (fun i => v.getLsbD i)).getD 32

/-- VMFIRST (R164). -/
def mVmfirst (d : Reg) (a : Fin 8) (m : MReg) : Meaning := .lanes fun e g s => intInLanes (lowestBit (s.ctx.m g a)) g a m d e s
def execVmfirst (d : Reg) (a : Fin 8) (m : MReg) (s : State) : Host.Outcome State Fault Refusal := issueWord (mVmfirst d a m) s

/-- VMSET (R165, R80). -/
def mVmset (d : Fin 8) (b : Reg) : Meaning :=
  .lanes fun e g s =>
    mPlan e g s [] (e.scalarLanes b false).2 [] d 0 2 fun _ => (wd ((e.scalarSource b false).getD 0), 0xFFFFFFFF, 0)
def execVmset (d : Fin 8) (b : Reg) (s : State) : Host.Outcome State Fault Refusal := issueWord (mVmset d b) s

/-- VMSET_NZ (R165). -/
def mVmsetNz (d : Fin 8) (a : Reg) : Meaning :=
  .lanes fun e g s =>
    mPlan e g s [{ opnd := 0, reg := a, ok := anyData }] [] [] d 0 2
      fun _ => (wordOf (fun l => lane (s.ctx.v g a).data l != 0), 0xFFFFFFFF, 0)
def execVmsetNz (d : Fin 8) (a : Reg) (s : State) : Host.Outcome State Fault Refusal := issueWord (mVmsetNz d a) s

/-! ## Core SRAM lane accesses (R156 to R159, R344) -/

/-- How the lanes of an access are addressed. -/
inductive LaneForm where
  | unit | stride | scatter
  deriving DecidableEq, Repr

/-- The address of lane l, modulo 2^22 (R156). -/
def laneAddr (f : LaneForm) (va : VData) (k l : Nat) : Nat :=
  match f with
  | .unit => (lane va 0 + 128 * k + 4 * l) % 2 ^ 22
  | .stride => wrapTo 22 ((lane va 0 + 4 * k : Nat) + (l : Int) * sext 32 (lane va 1))
  | .scatter => (lane va l + 4 * k) % 2 ^ 22

def bankOf (a : Nat) : Fin 64 := Fin.ofNat 64 (a / 65536)
/-- The causes of one core SRAM address (R157). -/
def State.sramCauses (s : State) (a : Nat) : List Nat :=
  (if a % 4 ≠ 0 then [0x50] else []) ++ (if s.core.bankMode.get (bankOf a) ≠ .scratch then [0x51] else []) ++
  (if s.foreignBank (bankOf a).val then [0x52] else []) ++
  (if !s.ctx.csrs.prv && s.inAttic (bankOf a).val then [0x53] else [])

/-- The tval of causes 0x50 to 0x53 (R157). -/
def sramTval (e : Env) (g : Group) (l a : Nat) : DWord :=
  dw (a + l * 2 ^ 24 + g.val * 2 ^ 29 + e.slot.code * 2 ^ 32 + (if e.shelf.isSome then 2 ^ 35 else 0))

/-- The active lanes of a register, by its tag (R127). -/
def activeLanes (t : Tag) (mask : Word) : List Nat := (List.range 32).filter (activeLane (t == .fp64) mask)

def sramRaises (e : Env) (g : Group) (s : State) (ls : List (Nat × Nat)) : List Raise :=
  ls.flatMap (fun p => (s.sramCauses p.2).map (fun c => { cause := c, tval := sramTval e g p.1 p.2 }))

/-- Whether a word of core SRAM holds an uncorrectable error (R159). -/
def State.sramBadWord (s : State) (a : Nat) : Bool := s.core.sramBad.contains (a / 4 * 4)

/-- Bytes written to core SRAM as whole words, which clears their errors. -/
def State.sramWrite (a : Nat) (bs : List Byte) (s : State) : State :=
  s.modCore (fun c => { c with sram := c.sram.write a bs,
                               sramBad := c.sramBad.filter (fun w => !(decide (a ≤ w) && decide (w < a + bs.length))) })

/-- A lane store of one word: the 128 B block is logged at its first change since the mark (R436). -/
def State.laneStore (a v : Nat) (s : State) : State :=
  let b := a / 128 * 128
  (s.logUndo [.block b (s.core.sram.read b 128)]).sramWrite a (leBytes 4 v)

/-- VLD, VLDS and VLDG. -/
def sramLoad (f : LaneForm) (d a k : Reg) (t : Tag) (m : MReg) : Meaning :=
  .lanes fun e g s =>
    let va := s.ctx.v g a
    let mask := s.ctx.m g m
    let ls := (activeLanes t mask).map (fun l => (l, laneAddr f va.data k.val l))
    let lat := e.lat 6
    { raises := Src.raises e g s { opnd := 0, reg := a, ok := laneInt } ++ sramRaises e g s ls
      reads := [Res.v g a] ++ maskRead g m, writes := [(.v g d, lat)]
      touches := ls.map (fun p => (p.2, p.2 + 4, false))
      effs := [(.main, State.launch lat (.v g d
        (ofLanes (fun l => match ls.find? (fun p => p.1 == l) with | some p => leNat (s.core.sram.read p.2 4) | none => 0))
        (activeBits (t == .fp64) mask) (if ls.any (fun p => s.sramBadWord p.2) then .poison else t)))] }

/-- VST, VSTS and VSTSC. -/
def sramStore (f : LaneForm) (d a k : Reg) (m : MReg) : Meaning :=
  .lanes fun e g s =>
    let va := s.ctx.v g a
    let vd := s.ctx.v g d
    let ls := (activeLanes vd.tag (s.ctx.m g m)).map (fun l => (l, laneAddr f va.data k.val l))
    { raises := Src.raises e g s { opnd := 0, reg := a, ok := laneInt } ++ Src.raises e g s { opnd := 3, reg := d, ok := anyData } ++
        sramRaises e g s ls
      reads := [Res.v g a, Res.v g d] ++ maskRead g m
      touches := ls.map (fun p => (p.2, p.2 + 4, true))
      effs := [(.main, fun t => ls.foldl (fun t p => t.laneStore p.2 (lane vd.data p.1)) t)] }

/-- VLD (R156). -/
def mVld (d : Reg) (a : Reg) (k : Reg) (t : Tag) (m : MReg) : Meaning := sramLoad .unit d a k t m
def execVld (d : Reg) (a : Reg) (k : Reg) (t : Tag) (m : MReg) (s : State) : Host.Outcome State Fault Refusal :=
  issueWord (mVld d a k t m) s

/-- VST (R156). -/
def mVst (s : Reg) (a : Reg) (k : Reg) (m : MReg) : Meaning := sramStore .unit s a k m
def execVst (s : Reg) (a : Reg) (k : Reg) (m : MReg) (st : State) : Host.Outcome State Fault Refusal :=
  issueWord (mVst s a k m) st

/-- VLDS (R156). -/
def mVlds (d : Reg) (a : Reg) (k : Reg) (t : Tag) (m : MReg) : Meaning := sramLoad .stride d a k t m
def execVlds (d : Reg) (a : Reg) (k : Reg) (t : Tag) (m : MReg) (s : State) : Host.Outcome State Fault Refusal :=
  issueWord (mVlds d a k t m) s

/-- VSTS (R156). -/
def mVsts (s : Reg) (a : Reg) (k : Reg) (m : MReg) : Meaning := sramStore .stride s a k m
def execVsts (s : Reg) (a : Reg) (k : Reg) (m : MReg) (st : State) : Host.Outcome State Fault Refusal :=
  issueWord (mVsts s a k m) st

/-- VLDG (R156). -/
def mVldg (d : Reg) (a : Reg) (k : Reg) (t : Tag) (m : MReg) : Meaning := sramLoad .scatter d a k t m
def execVldg (d : Reg) (a : Reg) (k : Reg) (t : Tag) (m : MReg) (s : State) : Host.Outcome State Fault Refusal :=
  issueWord (mVldg d a k t m) s

/-- VSTSC (R156). -/
def mVstsc (s : Reg) (a : Reg) (k : Reg) (m : MReg) : Meaning := sramStore .scatter s a k m
def execVstsc (s : Reg) (a : Reg) (k : Reg) (m : MReg) (st : State) : Host.Outcome State Fault Refusal :=
  issueWord (mVstsc s a k m) st

end Sys2Proof.Machine
end

