-- ==== Sys2Proof/Machine/VectorMem.lean ====
section
/-! DEFINITION. Lane accesses through handles (R240, R294 to R297) and their landings (R254 to R256). -/

namespace Sys2Proof.Machine

/-! ## Handle accesses (R240) -/

/-- The location of a byte of a handle's page, with this die's replica where the page is replicated (R234). -/
def HandleReg.loc (h : HandleReg) (die off : Nat) : Loc :=
  (if attrCellar h.attr then cellarBase else 0) + h.pbase.toNat + off + (if attrRepl h.attr then die * 2 ^ 37 else 0)

/-- The causes of an access of n bytes at an offset of a handle's page. `host` tells whether the host window may be accessed,
`msg` whether the message domain applies (R455), `atomic` whether it is an atomic. -/
def State.handleCauses (s : State) (h : HandleReg) (off n : Nat) (k : AccessKind) (atomic host msg : Bool) : List Nat :=
  match h.state with
  | .faulted => [h.cause.toNat]
  | .revoked => [0x62]
  | .empty => [0x63]
  | .valid =>
    let rg := s.region msg (h.loc s.die off)
    (if off + n > pageBytes h.size then [0x64] else []) ++
    (if (k.need.r ∧ !attrR h.attr) ∨ (k.need.w ∧ !attrW h.attr) then [0x65] else []) ++
    (if k.need.w ∧ !atomic ∧ attrSync h.attr then [0x66] else []) ++
    (if atomic ∧ (!attrAtom h.attr ∨ attrRepl h.attr ∨ rg = .host ∨ rg = .device ∨ rg = .away) then [0x70] else []) ++
    (if rg = .hole ∨ rg = .away ∨ rg = .device ∨ (rg = .host ∧ !host) then [0x72] else []) ++
    (if rg = .outside then [0x73] else [])

/-- The causes of one lane's access of 4 bytes; tval holds VBASE + offset. -/
def State.handleRaises (s : State) (h : HandleReg) (k : AccessKind) (atomic : Bool) (off : Nat) : List Raise :=
  ((if off % 4 ≠ 0 then [0x71] else []) ++ s.handleCauses h off 4 k atomic false false).map
    (fun c => { cause := c, tval := h.vbase + dw off : Raise })

/-! ## The control word (R294) -/

def ctlHandle (w : Nat) : HReg := Fin.ofNat 16 (fld w 20 4)
def ctlTag (w : Nat) : Nat := fld w 16 4
def ctlArr (w : Nat) : Nat := fld w 0 12
/-- Causes 0x09 and 0x6B of a control word: `load` tells whether TAG is a result tag, `arrives` whether ARR must be given. -/
def ctlRaises (e : Env) (b : Reg) (load arrives : Bool) : List Raise :=
  match e.scalarSource b false with
  | none => [e.bad 0x09]
  | some w =>
    if fld w 24 8 ≠ 0 ∨ fld w 12 4 ≠ 0 ∨ (if load then 12 < ctlTag w else ctlTag w ≠ 0) ∨
        (if arrives then ctlArr w = 0 else ctlArr w ≠ 0) then [atOperand 0x6B (dw w)]
    else []
def ctlWord (e : Env) (b : Reg) : Nat := (e.scalarSource b false).getD 0

/-- The L2 hint of an access (R295). -/
def laneHint (h : Fin 4) (attr : BitVec 10) : Fin 4 := match h with | 0 => attrHint attr | 1 => 1 | 2 => 0 | _ => 2

/-- The byte offset of lane l (R295): from lane 0's value, or from the lane's own. -/
def handleOff (gather : Bool) (va : VData) (k l : Nat) : Nat :=
  if gather then lane va l + 4 * k else lane va 0 + 128 * k + 4 * l

/-- Active lanes with their offsets. -/
def handleLanes (gather : Bool) (va : VData) (k : Nat) (t : Tag) (mask : Word) : List (Nat × Nat) :=
  (activeLanes t mask).map (fun l => (l, handleOff gather va k l))

/-- The distinct lines of some lanes. -/
def laneLines (ls : List (Nat × Loc)) : List Loc := distinct (ls.map (fun p => lineOf p.2))

/-! ## Loads -/

/-- The bits of a word at a location that the open segment forwards, and which ones they are (R273). -/
def State.heldBits (s : State) (l : Loc) : Word × Word :=
  let z := s.heldOver l (List.replicate 4 0)
  let o := s.heldOver l (List.replicate 4 0xFF)
  (wd (leNat z), wd (leNat ((z.zip o).map (fun p => if p.1 = p.2 then (0xFF : Byte) else 0))))

/-- A lane of a load: read at issue where its line is at hand, else asked for under a tag. -/
def State.laneAsk (s : State) (sc : Scope) (tag : Loc → Nat) (p : Nat × Loc) : LaneAsk :=
  match s.peek sc p.2 4 with
  | some g => { lane := p.1, loc := p.2, tag := 0, got := some (wd (leNat g.bytes), if g.bad then 0xA1 else 0), held := 0, heldMask := 0 }
  | none => { lane := p.1, loc := p.2, tag := tag (lineOf p.2), got := none, held := (s.heldBits p.2).1, heldMask := (s.heldBits p.2).2 }

/-- A landing load is sent, one request for each line that its lanes touch (R315): lanes of this package are read at issue, in the order
of R263; those of another package are awaited, and the core cache takes their lines at scope core (R244). -/
def State.sendLanding (sc : Scope) (hint : Fin 4) (lat : Nat) (g : Group) (d : Reg) (bits : VData) (t : Tag) (ls : List (Nat × Loc))
    (s : State) : State :=
  let s := (laneLines ls).foldl (fun s l => s.readEff sc hint l) s
  let far := laneLines (ls.filter (fun p => (s.peek sc p.2 4).isNone))
  let asks := ls.map (s.laneAsk sc (fun l => s.pkg.tags + far.idxOf l))
  let who : Asker := .landing s.ctx.ident (if s.caches sc then some s.cacheHalf else none)
  far.foldl (fun s l => s.sendTo l (.read l 64) who) (s.launch lat (.landing g d bits t asks false))

/-- VLDX and VLDXG. -/
def handleLoad (gather : Bool) (d a b k : Reg) (m : MReg) (h : Fin 4) : Meaning :=
  .lanes fun e g s =>
    let w := ctlWord e b
    let va := s.ctx.v g a
    let hr := s.ctx.h (ctlHandle w)
    let t := Tag.ofCode (ctlTag w)
    let mask := s.ctx.m g m
    let ls := handleLanes gather va.data k.val t mask
    let lat := e.lat (ctlArr w)
    { raises := ctlRaises e b true true ++ Src.raises e g s { opnd := 0, reg := a, ok := laneInt } ++
        ls.flatMap (fun p => s.handleRaises hr .read false p.2)
      reads := [Res.v g a, .h (ctlHandle w)] ++ maskRead g m, writes := [(.v g d, lat)], landings := 1, mem := true
      effs := [(.main, State.sendLanding e.scope (laneHint h hr.attr) lat g d (activeBits (t == .fp64) mask) t
        (ls.map (fun p => (p.1, hr.loc s.die p.2))))] }

/-- VLDX (R294, R295, R255). -/
def mVldx (d : Reg) (a : Reg) (b : Reg) (k : Reg) (m : MReg) (h : Fin 4) : Meaning := handleLoad false d a b k m h
def execVldx (d : Reg) (a : Reg) (b : Reg) (k : Reg) (m : MReg) (h : Fin 4) (s : State) : Host.Outcome State Fault Refusal :=
  issueWord (mVldx d a b k m h) s

/-- VLDXG (R294, R295, R255). -/
def mVldxg (d : Reg) (a : Reg) (b : Reg) (k : Reg) (m : MReg) (h : Fin 4) : Meaning := handleLoad true d a b k m h
def execVldxg (d : Reg) (a : Reg) (b : Reg) (k : Reg) (m : MReg) (h : Fin 4) (s : State) : Host.Outcome State Fault Refusal :=
  issueWord (mVldxg d a b k m h) s

/-! ## Stores -/

/-- VSTX and VSTXS: the active lanes in ascending order, one request for each line that they touch (R315). -/
def handleStore (gather : Bool) (d a b k : Reg) (m : MReg) (h : Fin 4) : Meaning :=
  .lanes fun e g s =>
    let w := ctlWord e b
    let va := s.ctx.v g a
    let vd := s.ctx.v g d
    let hr := s.ctx.h (ctlHandle w)
    let ls := handleLanes gather va.data k.val vd.tag (s.ctx.m g m)
    let bytes := ls.flatMap (fun p => placed (hr.loc s.die p.2) (leBytes 4 (lane vd.data p.1)))
    { raises := ctlRaises e b false false ++ Src.raises e g s { opnd := 0, reg := a, ok := laneInt } ++
        Src.raises e g s { opnd := 3, reg := d, ok := anyData } ++ ls.flatMap (fun p => s.handleRaises hr .write false p.2)
      reads := [Res.v g a, Res.v g d, .h (ctlHandle w)] ++ maskRead g m, mem := true
      effs := if bytes = [] then [] else
        [(.main, State.store { bytes := bytes, scope := e.scope, hint := laneHint h hr.attr, repl := attrRepl hr.attr })] }

/-- VSTX (R294, R295). -/
def mVstx (s : Reg) (a : Reg) (b : Reg) (k : Reg) (m : MReg) (h : Fin 4) : Meaning := handleStore false s a b k m h
def execVstx (s : Reg) (a : Reg) (b : Reg) (k : Reg) (m : MReg) (h : Fin 4) (st : State) : Host.Outcome State Fault Refusal :=
  issueWord (mVstx s a b k m h) st

/-- VSTXS (R294, R295). -/
def mVstxs (s : Reg) (a : Reg) (b : Reg) (k : Reg) (m : MReg) (h : Fin 4) : Meaning := handleStore true s a b k m h
def execVstxs (s : Reg) (a : Reg) (b : Reg) (k : Reg) (m : MReg) (h : Fin 4) (st : State) : Host.Outcome State Fault Refusal :=
  issueWord (mVstxs s a b k m h) st

/-! ## VAMOADD (R297) -/

/-- One lane performed at its home in this package; where the line's read half is uncorrectable nothing is, and the old word is not
stated. -/
def State.amoLane (t : Tag) (p : Nat × Loc × Word) (s : State) : LaneAsk × State :=
  let ask (v : Word) (cause : Nat) : LaneAsk := { lane := p.1, loc := p.2.1, tag := 0, got := some (v, cause), held := 0, heldMask := 0 }
  if s.badLine p.2.1 then (ask (wd (Config.freeWord s.fresh).toNat) 0x74, s.drawn)
  else let r := s.homeDo s.me (.lane t p.2.2) p.2.1 none; (ask (wd r.1.toNat) 0, r.2)

/-- The lanes in ascending order: what each got, and the state after. -/
def State.amoLanes (t : Tag) : List (Nat × Loc × Word) → State → List LaneAsk × State
  | [], s => ([], s)
  | p :: r, s =>
    let x := s.amoLane t p
    let y := x.2.amoLanes t r
    (x.1 :: y.1, y.2)

/-- VAMOADD is sent: the copies of its lines go (R283), and each line is requested once (R315); each lane is an atomic at its home. -/
def State.sendAmo (sc : Scope) (hint : Fin 4) (lat : Nat) (g : Group) (d : Reg) (bits : VData) (t : Tag) (ls : List (Nat × Loc × Word))
    (s : State) : State :=
  let s := (laneLines (ls.map (fun p => (p.1, p.2.1)))).foldl (fun s l => (s.yieldLine l).l2Req l hint) s
  if ls.any (fun p => s.region false p.2.1 == .remote) then
    let asks : List LaneAsk := ls.zipIdx.map (fun (p, i) =>
      { lane := p.1, loc := p.2.1, tag := s.pkg.tags + i, got := none, held := 0, heldMask := 0 })
    ls.foldl (fun s p => s.sendTo p.2.1 (.atomic (.lane t p.2.2) p.2.1 sc) (.landing s.ctx.ident none))
      (s.launch lat (.landing g d bits t asks true))
  else
    let r := s.amoLanes t ls
    r.2.launch lat (.landing g d bits t r.1 true)

/-- VAMOADD (R297, R294, R240). -/
def mVamoadd (d : Reg) (a : Reg) (b : Reg) (c : Reg) (m : MReg) : Meaning :=
  .lanes fun e g s =>
    let w := ctlWord e b
    let va := s.ctx.v g a
    let vc := s.ctx.v g c
    let hr := s.ctx.h (ctlHandle w)
    let mask := s.ctx.m g m
    let ls := handleLanes true va.data 0 vc.tag mask
    let lat := e.lat (ctlArr w)
    { raises := ctlRaises e b false true ++ Src.raises e g s { opnd := 0, reg := a, ok := laneInt } ++
        Src.raises e g s { opnd := 2, reg := c, ok := fun t => t == .int32 || t == .fp32 } ++
        ls.flatMap (fun p => s.handleRaises hr .atomic true p.2)
      reads := [Res.v g a, Res.v g c, .h (ctlHandle w)] ++ maskRead g m, writes := [(.v g d, lat)], mem := true, closes := true
      effs := [(.main, State.sendAmo e.scope (attrHint hr.attr) lat g d (activeBits false mask) vc.tag
        (ls.map (fun p => (p.1, hr.loc s.die p.2, wd (lane vc.data p.1)))))] }
def execVamoadd (d : Reg) (a : Reg) (b : Reg) (c : Reg) (m : MReg) (s : State) : Host.Outcome State Fault Refusal :=
  issueWord (mVamoadd d a b c m) s

end Sys2Proof.Machine
end

