-- ==== Sys2Proof/Machine/Matrix.lean ====
section
/-! DEFINITION. The matrix strip (R197 to R221): beats, drains, latch writes, clears, accumulator rows from the vector slots, and
the bins. -/

namespace Sys2Proof.Machine

/-! ## Pairings and windows (R65, R198, R199) -/

/-- A pairing: K, the accumulator format, and the windows of a latch. -/
structure Pairing where
  k : Nat
  acc : AccFmt
  nw : Nat
  deriving DecidableEq, Repr

def pairing (a b : Tag) : Option Pairing :=
  let half (t : Tag) : Bool := t == .bf16 || t == .fp16
  let byte (t : Tag) : Bool := t == .e4m3 || t == .e5m2
  let int8 (t : Tag) : Bool := t == .int8 || t == .uint8
  if a = .fp64 ∧ b = .fp64 then some { k := 1, acc := .fp64, nw := 4 }
  else if a = .fp32 ∧ b = .fp32 then some { k := 4, acc := .fp32, nw := 2 }
  else if half a ∧ half b then some { k := 16, acc := .fp32, nw := 1 }
  else if byte a ∧ byte b then some { k := 32, acc := .fp32, nw := 1 }
  else if a = .fp4b ∧ b = .fp4b then some { k := 64, acc := .fp32, nw := 1 }
  else if int8 a ∧ int8 b then some { k := 32, acc := .int32, nw := 1 }
  else if a = .int4 ∧ b = .int4 then some { k := 64, acc := .int32, nw := 1 }
  else none

/-- The bytes of a slice (R200). -/
def sliceBytes (t : Tag) : Nat := match t with | .fp4b => 512 | .fp32 => 128 | .fp64 => 64 | _ => 256

/-- A factor of a product: a number, or an integer. -/
inductive Factor where
  | num (n : Num)
  | int (i : Int)

/-- The element of a code in a format. -/
def factor (t : Tag) (c : Nat) : Factor := if t.isInt then .int (intVal t c) else .num ((Fmt.ofTag t).decode c)

/-- Row i of a slice (R200); `n` is the number that its bytes make. -/
def sliceRow (t : Tag) (k n i : Nat) : List Factor :=
  (List.range k).map (fun j =>
    if t = .fp4b then
      .num (blockElem (n / 2 ^ (32 * (8 * i + j / 8)) % 2 ^ 32) (n / 2 ^ (32 * (64 + 8 * i + j / 8)) % 2 ^ 32) (j % 8)).1
    else factor t (n / 2 ^ (t.width * (k * i + j)) % 2 ^ t.width))

/-- Column j of window w of a latch (R198, R199); `partner` holds the scale words of an FP4B operand. -/
def latchColumn (t : Tag) (k w : Nat) (l partner : Latch) (j : Nat) : List Factor :=
  let row (x : Latch) (r : Nat) : Nat := lane (x.rows.toList.getD r 0) j
  (List.range k).map (fun e =>
    match t with
    | .fp64 => factor t (row l (2 * w) + 2 ^ 32 * row l (2 * w + 1))
    | .fp32 => factor t (row l (4 * w + e))
    | .fp4b => .num (blockElem (row l (e / 8)) (row partner (e / 8)) (e % 8)).1
    | _ => let n := 32 / t.width; factor t (row l (e / n) / 2 ^ (t.width * (e % n)) % 2 ^ t.width))

def noTerms : Terms := { nan := false, pinf := false, ninf := false, notNegZero := false, sum := dyZero }

/-- One more exact product (R66, R68). -/
def addTerm (ts : Terms) (a b : Factor) : Terms :=
  match a, b with
  | .int x, .int y => { ts with notNegZero := true, sum := dyAdd ts.sum (dyOfInt (x * y)) }
  | .num x, .num y =>
    if x.isNan || y.isNan || (!x.isFinite && y.isZero) || (x.isZero && !y.isFinite) then { ts with nan := true }
    else
      let neg := x.isNeg != y.isNeg
      if !x.isFinite || !y.isFinite then (if neg then { ts with ninf := true } else { ts with pinf := true })
      else { ts with notNegZero := ts.notNegZero || !((x.isZero || y.isZero) && neg), sum := dyAdd ts.sum (dyMul x.dy y.dy) }
  | _, _ => ts

/-- The terms of the 8 × 32 elements, by row. -/
def beatTerms (ta tb : Tag) (k w n : Nat) (l partner : Latch) : List Terms :=
  let cols := (List.range 32).map (latchColumn tb k w l partner)
  (List.range 8).flatMap (fun i => let r := sliceRow ta k n i
    cols.map (fun c => (r.zip c).foldl (fun ts p => addTerm ts p.1 p.2) noTerms))

/-! ## Bins (R201, R202, R434) -/

def State.bin (s : State) (b : MReg) : Bin := s.core.mat.bins.get b
def State.modBin (b : MReg) (f : Bin → Bin) (s : State) : State := s.modMat (fun m => { m with bins := vmod m.bins b f })
/-- The address of byte i from the tail. -/
def Bin.tailAddr (k : Bin) (i : Nat) : Nat := k.base * 65536 + (k.tail + i) % k.cap

/-- Bytes written at the tail, whole words among them clean again; they do not count yet. -/
def State.binPut (b : MReg) (bs : List Byte) (s : State) : State :=
  let k := s.bin b
  let at_ := (bs.zipIdx).map (fun p => (k.tailAddr p.2, p.1))
  (s.modCore (fun c => { c with sram := c.sram.writeAll at_,
                                sramBad := c.sramBad.filter (fun w => !at_.any (fun p => p.1 / 4 * 4 == w)) })).modBin b
    (fun k => { k with tail := (k.tail + bs.length) % k.cap })
/-- The occupancy rises by n (R201). -/
def Bin.fill (n : Nat) (k : Bin) : Bin :=
  let o := k.occ + n
  { k with occ := o, hwm := max k.hwm o, ovdecl := k.ovdecl || decide (o > k.decl) }
/-- A push. -/
def State.binPush (b : MReg) (bs : List Byte) (s : State) : State := (s.binPut b bs).modBin b (Bin.fill bs.length)

/-- A pop: the bytes, and whether one of their words is uncorrectable. Bytes freed in an open segment are noted (R434). -/
def State.binPop (b : MReg) (n : Nat) (s : State) : List Byte × Bool × State :=
  let k := s.bin b
  let at_ := (List.range n).map k.addr
  let s' := s.modBin b (fun k => { k with head := (k.head + n) % k.cap, occ := k.occ - n })
  (at_.map s.core.sram.get, at_.any (fun a => s.sramBadWord a),
   s'.modCtx (fun c => { c with seg := c.seg.map (fun g => { g with freed := vmod g.freed b (· + n) }) }))

/-- A bin that an instruction may use: configured, and of the issuing half-core. -/
def State.binUsable (s : State) (b : MReg) : Bool := decide ((s.bin b).nbank ≠ 0) && s.ownBins.contains b

/-! ## Beats (R203, R209, R210) -/

inductive BeatOp where
  | mac | macz | mwin
  deriving DecidableEq, Repr

/-- A CPYL of the context in flight to a latch of a group (R205). -/
def State.latchFilling (s : State) (g : Group) (ls : List (Fin 4)) : Bool :=
  s.core.queues.toList.any (fun q => q.cmds.any (fun c => match c.job with
    | .latch _ l gm _ => c.owner == s.ctx.ident && gm.getLsbD g.val && ls.contains l
    | _ => false))

/-- The partner of a latch. -/
def nextLatch (l : Fin 4) : Fin 4 := Fin.ofNat 4 (l.val / 2 * 2 + 1)

/-- Cause 0x21 of a bank or a latch. The state at fault (R437) is a block or row of it that the undo log holds, for each is logged with
the tag (log 104). -/
def Env.poisonBank (e : Env) (s : State) (g : Group) (blk : Fin 4) (b : Fin 4) : List Raise :=
  let k := s.core.mat.bank g b
  let at_ (q : Fin 4) : Undo := .acc g b q [] k.tag k.ovf
  if k.tag = .poison then [{ cause := 0x21, tval := e.form, state := some (at_ ((([0, 1, 2, 3] : List (Fin 4)).find? (fun q => s.inLog (at_ q))).getD blk)) }]
  else []
def Env.poisonLatch (e : Env) (s : State) (g : Group) (l : Fin 4) : List Raise :=
  let k := s.core.mat.latch g l
  let at_ (r : Fin 8) : Undo := .latchRow g l r 0 k.tag k.wb
  if k.tag = .poison then [{ cause := 0x21, tval := e.form, state := some (at_ (((List.finRange 8).find? (fun r => s.inLog (at_ r))).getD 0)) }]
  else []

/-- The banks of a format. -/
def banksFor (f : AccFmt) (a : Fin 4) : List (Fin 4) := if f = .fp64 then pairOf a else [a]

/-- Flights in the order in which they land. -/
def insertFlight (f : Flight) : List Flight → List Flight
  | [] => [f]
  | g :: r => if f.before g then f :: g :: r else g :: insertFlight f r
def flightOrder (l : List Flight) : List Flight := l.foldl (fun r f => insertFlight f r) []
/-- The tag of a bank once the writes in flight that land by running cycle t have landed. -/
def State.tagAt (s : State) (g : Group) (b : Fin 4) (t : Nat) : Tag :=
  (flightOrder (s.ctx.flights.filter (fun f => decide (f.land ≤ t)))).foldl (fun tag f => match f.w with
    | .accZero g' b' u => if g' = g ∧ b' = b then u else tag
    | .beat g' a _ fmt clear _ _ bad _ =>
      if g' = g ∧ (beatBanks fmt a).contains b then (if bad then .poison else if clear then fmt.tag else tag) else tag
    | _ => tag) (s.core.mat.bank g b).tag

/-- The rows of a latch that window w of a pairing takes (R198, R199). -/
def windowRows (t : Tag) (w : Nat) (l : Fin 4) : List (Fin 4 × Fin 8) :=
  let rows (lo n : Nat) : List (Fin 8) := (List.range n).map (fun i => Fin.ofNat 8 (lo + i))
  match t with
  | .fp64 => (rows (2 * w) 2).map (fun r => (l, r))
  | .fp32 => (rows (4 * w) 4).map (fun r => (l, r))
  | .fp4b => (rows 0 8).map (fun r => (l, r)) ++ (rows 0 8).map (fun r => (nextLatch l, r))
  | _ => (rows 0 8).map (fun r => (l, r))

/-- MAC, MACZ and MWIN. -/
def beat (op : BeatOp) (l : Fin 4) (b : MReg) (a r : Fin 4) (w : Fin 8) (z : Bool) : Meaning :=
  .lanes fun e g s =>
    let k := s.bin b
    let usable := s.binUsable b
    let lt := s.core.mat.latch g l
    let pt := s.core.mat.latch g (nextLatch l)
    let fp4 := lt.tag == .fp4b
    let pr := if usable then pairing k.tag lt.tag else none
    let fmt := match pr with | some p => p.acc | none => .fp32
    let banks := banksFor fmt a
    let lat := e.lat 4
    let judged : List Raise :=
      if !usable then [e.detail 0x56 b.val]
      else match pr with
        | none => [e.bad 0x22]
        | some p =>
          (if op ≠ .macz ∧ banks.any (fun x => (s.core.mat.bank g x).tag ≠ p.acc.tag) then [e.bad 0x23] else []) ++
          (if p.nw ≤ w.val then [e.detail 0x41 l.val] else []) ++
          (if p.acc = .fp64 ∧ a.val % 2 = 1 then [e.detail 0x43 a.val] else [])
    let n := sliceBytes k.tag
    let (kk, nw) := match pr with | some p => (p.k, p.nw) | none => (0, 1)
    let win := (w.val + lt.wb.val) % nw
    let whole := op == .macz && (beatBanks fmt a).any (fun x => s.tagAt g x (s.ctx.rc + lat) != fmt.tag)
    let shoot (pad bad : Bool) (ts : List Terms) (t : State) : State :=
      t.launch lat (.beat g a r fmt (op == .macz) whole pad bad ts)
    { raises := e.poisonLatch s g l ++ (if fp4 then e.poisonLatch s g (nextLatch l) else []) ++
        (if op = .macz then [] else banks.flatMap (e.poisonBank s g r)) ++ judged ++
        (if fp4 ∧ (l.val % 2 = 1 ∨ pt.tag ≠ .fp4b) then [e.detail 0x42 l.val] else [])
      writes := banks.map (fun x => (.acc g x r, lat)), banks := banks, mat := true
      clears := if whole then
          banks.flatMap (fun x => (([0, 1, 2, 3] : List (Fin 4)).filter (· != r)).map (fun k => (.acc g x k, lat))) else []
      window := if z then [] else windowRows lt.tag win l
      holds := if s.latchFilling g (if fp4 then [l, nextLatch l] else [l]) then [.latchFill] else []
      pops := if z ∨ !usable then [] else [(b, n)]
      effs := (if z then [(.pop, shoot true false [])] else
          [(.pop, fun t => let x := t.binPop b n
            shoot false x.2.1 (beatTerms k.tag lt.tag kk win (leNat x.1) lt pt) x.2.2)]) ++
        (if op = .mwin then [(.main, State.modMat (fun m => m.modLatch g l (fun x => { x with wb := Fin.ofNat 4 ((x.wb.val + 1) % nw) })))]
         else []) }

/-- MNOP (R208, R214). -/
def mMnop : Meaning := .lanes fun _ _ _ => {}
def execMnop (s : State) : Host.Outcome State Fault Refusal := issueWord (mMnop) s

/-- MAC (R203, R209, R210). -/
def mMac (l : Fin 4) (b : Fin 8) (a : Fin 4) (r : Fin 4) (w : Fin 8) (z : Bool) : Meaning := beat .mac l b a r w z
def execMac (l : Fin 4) (b : Fin 8) (a : Fin 4) (r : Fin 4) (w : Fin 8) (z : Bool) (s : State) : Host.Outcome State Fault Refusal :=
  issueWord (mMac l b a r w z) s

/-- MACZ (R203, R209, R210). -/
def mMacz (l : Fin 4) (b : Fin 8) (a : Fin 4) (r : Fin 4) (w : Fin 8) (z : Bool) : Meaning := beat .macz l b a r w z
def execMacz (l : Fin 4) (b : Fin 8) (a : Fin 4) (r : Fin 4) (w : Fin 8) (z : Bool) (s : State) : Host.Outcome State Fault Refusal :=
  issueWord (mMacz l b a r w z) s

/-- MWIN (R203, R209, R210). -/
def mMwin (l : Fin 4) (b : Fin 8) (a : Fin 4) (r : Fin 4) (w : Fin 8) (z : Bool) : Meaning := beat .mwin l b a r w z
def execMwin (l : Fin 4) (b : Fin 8) (a : Fin 4) (r : Fin 4) (w : Fin 8) (z : Bool) (s : State) : Host.Outcome State Fault Refusal :=
  issueWord (mMwin l b a r w z) s

/-! ## Drains (R205, R211, R212) -/

/-- The target of a drain, its parts, and the rows of a part; none where CVT is not listed. -/
def drainTarget (bank : Tag) (cvt : Nat) : Option (Tag × Nat × Nat) :=
  match bank, cvt with
  | .fp32, 0 => some (.fp32, 8, 1) | .fp32, 1 => some (.bf16, 4, 2) | .fp32, 2 => some (.fp16, 4, 2)
  | .fp32, 3 => some (.e4m3, 2, 4) | .fp32, 4 => some (.e5m2, 2, 4)
  | .int32, 0 => some (.int32, 8, 1) | .int32, 1 => some (.int16, 4, 2) | .int32, 2 => some (.int8, 2, 4)
  | .int32, 3 => some (.uint8, 2, 4) | .int32, 4 => some (.fp32, 8, 1)
  | .fp64, 0 => some (.fp64, 16, 1) | .fp64, 1 => some (.fp32, 8, 1)
  | _, _ => none

/-- Whether a target is a narrower floating-point format, for which the saturating column may be chosen. -/
def narrowFp (bank target : Tag) : Bool := !bank.isInt && decide (target.width < bank.width)

/-- MDRAIN and MDRAINZ. R211 names no cause for an even bank tagged FP64 whose odd partner carries another data tag: the model drains
the bits of both; the pair of an odd bank is the even bank below it with it, whose POISON raises 0x21 beside 0x43 (DESIGN CHOICE, log 91). -/
def drain (zero : Bool) (q : Fin 2) (p : Fin 8) (a r : Fin 4) (v : Reg) (c : Fin 8) (z : Bool) : Meaning :=
  .lanes fun e g s =>
    let bk := s.core.mat.bank g a
    let pair := bk.tag == .fp64
    let banks := if pair then pairOf a else [a]
    let tgt := drainTarget bk.tag c.val
    let (t, parts, rows) := tgt.getD (.fp32, 8, 1)
    let f64 := tgt.isSome && t == .fp64
    let part := if f64 then 8 * q.val + p.val else p.val
    let lat := e.lat 6
    let lo := s.core.mat.bank g (evenOf a)
    let hi := s.core.mat.bank g (oddOf a)
    let wide (row col : Nat) : Nat := lane (lo.row row) col + 2 ^ 32 * lane (hi.row row) col
    let base := 8 * r.val
    let conv (code : Nat) : FRes := convert bk.tag t .rne z code
    let out : List FRes :=
      if f64 then (List.range 16).map (fun i => conv (wide (base + part / 2) (16 * (part % 2) + i)))
      else (List.range (32 * rows)).map (fun i =>
        let row := base + rows * part + i % rows
        conv (if pair then wide row (i / rows) else lane (bk.row row) (i / rows)))
    let gone : List (Nat × VData × VData) :=
      if f64 then [(base + part / 2, 0, laneBits (fun j => j / 16 == part % 2))]
      else (List.range rows).map (fun i => (base + rows * part + i, 0, allOnes))
    { raises := (if !f64 ∧ q = 1 then [e.bad 0x08] else []) ++
        (if z ∧ !(tgt.isSome && narrowFp bk.tag t) then [e.bad 0x08] else []) ++ banks.flatMap (e.poisonBank s g r) ++
        (if pair ∧ a.val % 2 = 1 then [e.detail 0x43 a.val] else []) ++
        (if tgt.isNone ∨ parts ≤ part then [e.detail 0x45 (part * 8 + c.val)] else [])
      reads := banks.map (fun x => .acc g x r), banks := banks, mat := true
      writes := (.v g v, lat) :: (if zero then banks.map (fun x => (.acc g x r, lat)) else [])
      effs := (.main, State.launch lat (.v g v (ofElems t.width (out.map (·.1))) allOnes t) (orAll out)) ::
        (if zero then banks.map (fun x => (.main, State.launch lat (.accRows g x r gone))) else []) }

/-- MDRAIN (R211, R212). -/
def mMdrain (q : Fin 2) (p : Fin 8) (a : Fin 4) (r : Fin 4) (v : Reg) (c : Fin 8) (z : Bool) : Meaning :=
  drain false q p a r v c z
def execMdrain (q : Fin 2) (p : Fin 8) (a : Fin 4) (r : Fin 4) (v : Reg) (c : Fin 8) (z : Bool) (s : State) : Host.Outcome State Fault Refusal :=
  issueWord (mMdrain q p a r v c z) s

/-- MDRAINZ (R211, R212). -/
def mMdrainz (q : Fin 2) (p : Fin 8) (a : Fin 4) (r : Fin 4) (v : Reg) (c : Fin 8) (z : Bool) : Meaning :=
  drain true q p a r v c z
def execMdrainz (q : Fin 2) (p : Fin 8) (a : Fin 4) (r : Fin 4) (v : Reg) (c : Fin 8) (z : Bool) (s : State) : Host.Outcome State Fault Refusal :=
  issueWord (mMdrainz q p a r v c z) s

/-! ## Latch writes and clears (R213, R214) -/

/-- MLATCH (R199, R205, R213). -/
def mMlatch (l : Fin 4) (w : Fin 8) (v : Reg) : Meaning :=
  .lanes fun e g s =>
    let x := s.ctx.v g v
    let fp4 := x.tag == .fp4b
    let lat := e.lat 4
    let row (k : Fin 4) : Undo := let y := s.core.mat.latch g k; .latchRow g k w (y.rows.get w) y.tag y.wb
    let put (k : Fin 4) (d : VReg) : Phase × (State → State) := (.main, State.launch lat (.latchRow g k w d.data d.tag))
    { raises := Src.raises e g s { opnd := 0, reg := v, ok := anyData } ++ (if fp4 then pairRaises e g s v else []) ++
        (if fp4 ∧ (l.val % 2 = 1 ∨ (s.core.mat.latch g (nextLatch l)).tag ≠ .fp4b) then [e.detail 0x42 l.val] else [])
      reads := [Res.v g v] ++ (if fp4 then [Res.v g (nextReg v)] else []), mat := true
      holds := if s.latchFilling g (if fp4 then [l, nextLatch l] else [l]) then [.latchFill] else []
      effs := (.main, fun t => (t.logUndo [row l]).modMat (fun m => m.modLatch g l (fun k => { k with wb := 0 }))) ::
        put l x :: (if fp4 then [put (nextLatch l) (s.ctx.v g (nextReg v))] else []) }
def execMlatch (l : Fin 4) (w : Fin 8) (v : Reg) (s : State) : Host.Outcome State Fault Refusal := issueWord (mMlatch l w v) s

/-- MZERO (R214). -/
def mMzero (a : Fin 4) (c : Fin 8) : Meaning :=
  .lanes fun e g _ =>
    let banks : List (Fin 4) := if c = 2 then pairOf a else [a]
    let t : Tag := if c = 0 then .fp32 else if c = 1 then .int32 else .fp64
    let lat := e.lat 4
    { raises := (if c = 2 ∧ a.val % 2 = 1 then [e.detail 0x43 a.val] else []) ++
        (if 2 < c.val then [e.detail 0x45 c.val] else [])
      writes := banks.flatMap (fun x => ([0, 1, 2, 3] : List (Fin 4)).map (fun k => (.acc g x k, lat))), banks := banks, mat := true
      effs := banks.map (fun x => (.main, State.launch lat (.accZero g x t))) }
def execMzero (a : Fin 4) (c : Fin 8) (s : State) : Host.Outcome State Fault Refusal := issueWord (mMzero a c) s

/-! ## Accumulator rows from the vector slots (R215, R216) -/

def blockOf (row : Reg) : Fin 4 := Fin.ofNat 4 (row.val / 8)
/-- Cause 0x43 of a pair that is misnamed or not FP64. -/
def pairBad (e : Env) (s : State) (g : Group) (c : Fin 4) : List Raise :=
  if c.val % 2 = 1 ∨ (pairOf c).any (fun b => (s.core.mat.bank g b).tag != .fp64) then [e.detail 0x43 c.val]
  else []

/-- VACR (R215). -/
def mVacr (d : Reg) (a : Reg) (c : Fin 4) (m : MReg) : Meaning :=
  .lanes fun e g s =>
    let k := s.core.mat.bank g c
    let lat := e.lat 3
    { raises := e.poisonBank s g (blockOf a) c, reads := [Res.acc g c (blockOf a)] ++ maskRead g m
      writes := [(.v g d, lat)], banks := [c], mat := true
      effs := [(.main, State.launch lat (.v g d (k.row a.val) (activeBits (k.tag == .fp64) (s.ctx.m g m)) k.tag))] }
def execVacr (d : Reg) (a : Reg) (c : Fin 4) (m : MReg) (s : State) : Host.Outcome State Fault Refusal :=
  issueWord (mVacr d a c m) s

/-- VACR_D (R215). -/
def mVacrD (d : Reg) (a : Reg) (h : Fin 2) (c : Fin 4) (m : MReg) : Meaning :=
  .lanes fun e g s =>
    let lo := (s.core.mat.bank g (evenOf c)).row a.val
    let hi := (s.core.mat.bank g (oddOf c)).row a.val
    let pair := pairOf c
    let lat := e.lat 3
    { raises := pair.flatMap (e.poisonBank s g (blockOf a)) ++ pairBad e s g c
      reads := pair.map (fun x => Res.acc g x (blockOf a)) ++ maskRead g m, writes := [(.v g d, lat)], banks := pair, mat := true
      effs := [(.main, State.launch lat (.v g d
        (ofPairs (fun i => lane lo (16 * h.val + i) + 2 ^ 32 * lane hi (16 * h.val + i))) (activeBits true (s.ctx.m g m)) .fp64))] }
def execVacrD (d : Reg) (a : Reg) (h : Fin 2) (c : Fin 4) (m : MReg) (s : State) : Host.Outcome State Fault Refusal :=
  issueWord (mVacrD d a h c m) s

/-- VACR_ST (R215). -/
def mVacrSt (d : Reg) (c : Fin 4) (m : MReg) : Meaning :=
  .lanes fun e g s =>
    let k := s.core.mat.bank g c
    let lat := e.lat 3
    { reads := maskRead g m, writes := [(.v g d, lat)], banks := [c], mat := true
      effs := [(.main, State.launch lat (.v g d (ofLanes (fun _ => k.tag.code + 256 * k.ovf.toNat))
        (activeBits false (s.ctx.m g m)) .int32))] }
def execVacrSt (d : Reg) (c : Fin 4) (m : MReg) (s : State) : Host.Outcome State Fault Refusal := issueWord (mVacrSt d c m) s

/-- VACW (R216). -/
def mVacw (d : Reg) (a : Reg) (c : Fin 4) (m : MReg) : Meaning :=
  .lanes fun e g s =>
    let k := s.core.mat.bank g c
    let lat := e.lat 3
    { raises := Src.raises e g s { opnd := 3, reg := d, ok := fun t =>
          (t == .fp32 || t == .int32) && (k.tag == .poison || t == k.tag) } ++ e.poisonBank s g (blockOf a) c
      reads := [Res.v g d] ++ maskRead g m, writes := [(.acc g c (blockOf a), lat)], banks := [c], mat := true
      effs := [(.main, State.launch lat (.accRows g c (blockOf a) [(a.val, (s.ctx.v g d).data, activeBits false (s.ctx.m g m))]))] }
def execVacw (d : Reg) (a : Reg) (c : Fin 4) (m : MReg) (s : State) : Host.Outcome State Fault Refusal :=
  issueWord (mVacw d a c m) s

/-- VACW_D (R216). -/
def mVacwD (d : Reg) (a : Reg) (h : Fin 2) (c : Fin 4) (m : MReg) : Meaning :=
  .lanes fun e g s =>
    let pair := pairOf c
    let v := (s.ctx.v g d).data
    let bits := laneBits (fun j => j / 16 == h.val && maskBit (s.ctx.m g m) (2 * (j % 16)))
    let half (o : Nat) : VData := ofLanes (fun j => lane v (2 * (j % 16) + o))
    let lat := e.lat 3
    { raises := Src.raises e g s { opnd := 3, reg := d, ok := (· == .fp64) } ++ pair.flatMap (e.poisonBank s g (blockOf a)) ++
        pairBad e s g c
      reads := [Res.v g d] ++ maskRead g m, writes := pair.map (fun x => (.acc g x (blockOf a), lat)), banks := pair, mat := true
      effs := [(.main, State.launch lat (.accRows g (evenOf c) (blockOf a) [(a.val, half 0, bits)])),
               (.main, State.launch lat (.accRows g (oddOf c) (blockOf a) [(a.val, half 1, bits)]))] }
def execVacwD (d : Reg) (a : Reg) (h : Fin 2) (c : Fin 4) (m : MReg) (s : State) : Host.Outcome State Fault Refusal :=
  issueWord (mVacwD d a h c m) s

/-! ## Bin instructions (R217 to R219) -/

/-- VPUSH (R217). -/
def mVpush (d : Reg) (b : Fin 8) : Meaning :=
  .lanes fun e g s =>
    let usable := s.binUsable b
    { raises := Src.raises e g s { opnd := 3, reg := d, ok := fun t => anyData t && (!usable || (s.bin b).tag == .raw || t == (s.bin b).tag) } ++
        (if usable then [] else [e.detail 0x56 b.val])
      reads := [Res.v g d], mat := true, pushes := if usable then [(b, 128)] else []
      effs := [(.push, State.binPush b (dataBytes (s.ctx.v g d).data))] }
def execVpush (d : Reg) (b : Fin 8) (s : State) : Host.Outcome State Fault Refusal := issueWord (mVpush d b) s

/-- VPOP (R217). -/
def mVpop (d : Reg) (b : Fin 8) : Meaning :=
  .lanes fun e g s =>
    let usable := s.binUsable b
    let lat := e.lat 6
    { raises := if usable then [] else [e.detail 0x56 b.val]
      writes := [(.v g d, lat)], mat := true, pops := if usable then [(b, 128)] else []
      effs := [(.pop, fun t => let x := t.binPop b 128
        x.2.2.launch lat (.v g d (dataOf x.1) allOnes (if x.2.1 then .poison else (s.bin b).tag)))] }
def execVpop (d : Reg) (b : Fin 8) (s : State) : Host.Outcome State Fault Refusal := issueWord (mVpop d b) s

/-- A copy command of the context in flight to a bin. -/
def State.binFilling (s : State) (b : MReg) : Bool :=
  s.core.queues.toList.any (fun q => q.cmds.any (fun c => match c.job with | .bin _ k _ => k == b && c.owner == s.ctx.ident | _ => false))

/-- The status of a BINSET (R218). -/
def State.binsetStatus (s : State) (b : MReg) (base n tag decl : Nat) (force : Bool) : Nat :=
  let holds := decide ((s.bin b).occ ≠ 0) && !force
  if n = 0 then (if holds then 3 else 0)
  else
    let banks := (List.range n).map (· + base)
    let others := allBins.filter (· != b)
    if banks.any (fun k => decide (k < 64) && !s.foreignBank k && s.core.bankMode.get (Fin.ofNat 64 k) != .fifo) then 1
    else if others.any (fun o => let k := s.bin o; decide (k.nbank ≠ 0 ∧ base < k.base + k.nbank ∧ k.base < base + n)) then 2
    else if holds then 3
    else if banks.any (fun k => decide (64 ≤ k) || s.foreignBank k) then 4
    else if 12 < tag then 5
    else if n * 65536 < decl then 6
    else 0

/-- BINSET (R218). -/
def mBinset (b : Reg) (a : Reg) (d : Reg) : Meaning :=
  .once fun _ s =>
    let x := s.ctx.x a
    let y := s.ctx.x b
    let k : MReg := Fin.ofNat 8 (bitsOf x 0 3)
    let rs : List Raise :=
      (if bitsOf x 3 3 ≠ 0 ∨ bitsOf x 19 1 ≠ 0 ∨ bitsOf x 24 39 ≠ 0 ∨ bitsOf y 32 32 ≠ 0 then [atOperand 0x57 x] else []) ++
      (if s.ownBins.contains k then [] else [atOperand 0x56 x])
    let n := bitsOf x 12 7
    let st := s.binsetStatus k (bitsOf x 6 6) n (bitsOf x 20 4) (bitsOf y 0 32) (x.getLsbD 63)
    let new : Bin := if n = 0 then Bin.reset else
      { Bin.reset with base := bitsOf x 6 6, nbank := n, tag := Tag.ofCode (bitsOf x 20 4), decl := bitsOf y 0 32 }
    { abPlan [a, b] d (dw st) (if st = 0 then [(.main, State.modBin k (fun _ => new))] else []) with
      raises := rs, closes := true, mat := true, holds := if s.binFilling k then [.queue] else [] }
def execBinset (b : Reg) (a : Reg) (d : Reg) (s : State) : Host.Outcome State Fault Refusal := issueWord (mBinset b a d) s

/-- BINQ (R219). -/
def mBinq (a : Reg) (d : Reg) : Meaning :=
  .once fun _ s =>
    let x := s.ctx.x a
    let b : MReg := Fin.ofNat 8 (bitsOf x 0 3)
    let k := s.bin b
    let v : Nat := match bitsOf x 4 2 with
      | 0 => k.occ + k.ovdecl.toNat * 2 ^ 32
      | 1 => k.hwm
      | 2 => k.base + k.nbank * 2 ^ 6 + k.tag.code * 2 ^ 16 + k.decl * 2 ^ 32
      | _ => k.head + k.tail * 2 ^ 32
    let rs : List Raise :=
      (if bitsOf x 3 1 ≠ 0 ∨ bitsOf x 6 2 ≠ 0 ∨ bitsOf x 9 55 ≠ 0 then [atOperand 0x57 x] else []) ++
      (if s.ownBins.contains b then [] else [atOperand 0x56 x])
    { abPlan [a] d (dw v) (if x.getLsbD 8 then [(.smem, State.modBin b (fun k => { k with hwm := k.occ, ovdecl := false }))] else []) with
      raises := rs, mat := true }
def execBinq (a : Reg) (d : Reg) (s : State) : Host.Outcome State Fault Refusal := issueWord (mBinq a d) s

end Sys2Proof.Machine
end

