-- ==== Sys2Proof/Machine/EngineMem.lean ====
section
/-! DEFINITION. What the engines read and write (R252, R254, R265, R272, R340), seals (R347), and chunk headers (R348). -/

namespace Sys2Proof.Machine

/-! ## Memory as the engines see it -/

/-- Bytes that an engine has read, with the offsets of the uncorrectable words among them. -/
structure Data where
  bytes : List Byte
  bad : List Nat
  deriving DecidableEq, Repr

/-- Whether a location answers from outside the package. -/
def State.away (s : State) (l : Loc) : Bool := s.region true l == .remote || s.region true l == .host

/-- Bytes read at a location; none where they must still come from outside the package. -/
def State.engRead (s : State) (far : List (Loc × List Byte × Bool)) (l n : Nat) : Option Data :=
  let words := (List.range ((n + 3) / 4)).map (4 * ·)
  if s.away l then
    match far.find? (fun p => p.1 == l && p.2.1.length == n) with
    | some p => some { bytes := p.2.1, bad := if p.2.2 then words else [] }
    | none => none
  else some { bytes := s.bytesAt l n, bad := if s.badRange l n then words.filter (fun i => s.badLine (l + i)) else [] }

/-- One request for each line an engine touches in this package (R252). -/
def State.engCount (l n : Nat) (hint : Fin 4) (s : State) : State := if s.away l then s else s.l2Reqs l n hint

/-- Bytes written by an engine, at the scope of its command; uncorrectable words mark their lines (R254). -/
def State.engWrite (l : Loc) (d : Data) (hint : Fin 4) (repl : Bool) (s : State) (sc : Scope := .package) : State :=
  if d.bytes = [] then s
  else
    let s := (s.engCount l d.bytes.length hint).sendWrite none sc (placed l d.bytes) (distinct (d.bad.map (fun i => lineOf (l + i))))
    if repl then s.modPkg (fun p => { p with replicas := p.replicas ++ replicaWrites s.die (placed l d.bytes) }) else s

/-! ## Places of a command (R372) -/

def placeHint (hint : Fin 4) (p : Place) : Fin 4 :=
  match p with
  | .page h _ => if hint = 0 then attrHint h.attr else laneHint hint h.attr
  | .sram _ => 0
def placeLoc (die : Nat) (p : Place) (off : Int) : Nat :=
  match p with
  | .page h o => h.loc die ((o : Int) + off).toNat
  | .sram a => ((a : Int) + off).toNat % 2 ^ 22

def State.readPlace (s : State) (far : List (Loc × List Byte × Bool)) (p : Place) (off : Int) (n : Nat) : Option Data :=
  let l := placeLoc s.die p off
  match p with
  | .page .. => s.engRead far l n
  | .sram _ => some { bytes := s.core.sram.read l n, bad := ((List.range (n / 4)).map (4 * ·)).filter (fun i => s.sramBadWord (l + i)) }
def State.countPlace (p : Place) (off : Int) (n : Nat) (hint : Fin 4) (s : State) : State :=
  match p with
  | .page .. => s.engCount (placeLoc s.die p off) n (placeHint hint p)
  | .sram _ => s
/-- Bytes written to a place; uncorrectable words stay so (R159, R254). -/
def State.writePlace (p : Place) (off : Int) (d : Data) (hint : Fin 4) (s : State) (sc : Scope := .package) : State :=
  let l := placeLoc s.die p off
  match p with
  | .page h _ => s.engWrite l d (placeHint hint p) (attrRepl h.attr) sc
  | .sram _ => (s.sramWrite l d.bytes).modCore (fun c => { c with sramBad := distinct (c.sramBad ++ d.bad.map (fun i => (l + i) / 4 * 4)) })

/-- What stands at home of lines that the core cache also holds is taken over, so that what a finished command has written is read
from then on (R377); a line of another package leaves it. -/
def State.refreshCache (s : State) : State :=
  let s := (s.core.cache.filter (fun x => s.away x.line)).foldl (fun s x =>
    (if x.dirty = 0 then s else s.writeBack x).dropLine x.half x.line) s
  s.modCore (fun k => { k with cache := k.cache.map (fun x =>
    { x with bytes := (placed x.line x.bytes).map (fun p => if x.dirty.getLsbD (p.1 - x.line) then p.2 else s.byteAt p.1),
             bad := s.badLine x.line }) })

/-! ## Seals (R347) -/

/-- The elements of a payload under a tag, RAW read as INT32. -/
def payloadElems (t : Tag) (bs : List Byte) : List Num :=
  let t := if t = .raw then Tag.int32 else t
  if t.width = 4 then bs.flatMap (fun b => [elemNum t (b.toNat % 16), elemNum t (b.toNat / 16)])
  else (pieces (t.width / 8) (bs.length / (t.width / 8)) bs).map (fun x => elemNum t (leNat x))
def sealOf (t : Tag) (bs : List Byte) : Seal :=
  let r := residues (payloadElems t bs)
  { res := BitVec.ofNat 61 r.1, nfin := wd r.2.1, nnf := wd r.2.2 }
def sealBytes (x : Seal) : List Byte := leBytes 8 x.res.toNat ++ leBytes 4 x.nfin.toNat ++ leBytes 4 x.nnf.toNat
def sealRead (bs : List Byte) : Seal :=
  { res := BitVec.ofNat 61 (leNat (bs.take 8)), nfin := wd (leNat ((bs.drop 8).take 4)), nnf := wd (leNat ((bs.drop 12).take 4)) }
/-- The bytes of an element of a tag, at least one (R391). -/
def elemBytes (t : Tag) : Nat := max (t.width / 8) 1

/-! ## Records (R341) -/

/-- An item record with its fields. -/
def record (reason spkg sdie dpkg ddie stage : Nat) : DWord :=
  dw (reason + stage % 2 ^ 16 * 2 ^ 8 + ddie % 8 * 2 ^ 24 + sdie % 8 * 2 ^ 27 + dpkg % 2 ^ 17 * 2 ^ 30 + spkg % 2 ^ 17 * 2 ^ 47)

/-- The event of an engine that detects a failure (R351, R425): the record, then COLLID and CHUNK, with ATTEMPT as the code. -/
def State.engineEvent (d : Fin 8) (cause : Byte) (rec_ : DWord) (collid attempt chunk : Nat) (s : State) : State :=
  if (s.pkg.revents.get d).length < 256 then
    s.modPkg (fun p => { p with revents := vmod p.revents d (fun l => l ++
      [{ stamp := s.timeNs, src := 0x8000 + d.val, cause := cause, code := BitVec.ofNat 16 attempt, p0 := rec_,
         p1 := dw (collid + chunk * 2 ^ 32) }]) })
  else s.bump (devRing 0x20) 1

/-! ## Chunk headers (R348) -/

/-- CRC-32C of one byte more. -/
def crcByte (crc : Nat) (b : Byte) : Nat :=
  (List.range 8).foldl (fun c _ => if c % 2 = 1 then c / 2 ^^^ 0x82F63B78 else c / 2) (crc ^^^ b.toNat)
def crc32c (bs : List Byte) : Nat := (bs.foldl crcByte 0xFFFFFFFF) ^^^ 0xFFFFFFFF

/-- Bytes 0x00 to 0x37 of a header. -/
def chunkHeader (c : Chunk) : List Byte :=
  leBytes 8 (c.collid.toNat + c.attempt.toNat * 2 ^ 32 + c.stage.toNat * 2 ^ 48) ++
  leBytes 8 (c.chunk.toNat + c.tag.code * 2 ^ 32 + c.sum.toNat * 2 ^ 36 + c.isVoid.toNat * 2 ^ 38 + c.bytes * 2 ^ 40) ++
  leBytes 8 (c.spkg.toNat + c.sdie.val * 2 ^ 17 + c.dpkg.toNat * 2 ^ 20 + c.ddie.val * 2 ^ 37) ++
  leBytes 8 c.fault.toNat ++ sealBytes c.sl ++ leBytes 8 0
/-- A chunk with its header check. -/
def sealedChunk (c : Chunk) : Chunk := { c with hcrc := wd (crc32c (chunkHeader c)) }

end Sys2Proof.Machine
end

