-- ==== Sys2Proof/Machine/Expert.lean ====
section
/-! DEFINITION. Experts (R354, R362 to R368, R392 to R394): descriptors, the page pool, the residency table, binding, release, the
wait yard and catch-up drains, and the fetch of weights. -/

namespace Sys2Proof.Machine

/-! ## Descriptors (R354) -/

structure ExpertDesc where
  expert : Nat
  layer : Nat
  hpkg : Nat
  hdie : Fin 8
  entry : Fin 4096
  cap : Nat
  rowBytes : Nat
  q4 : Bool
  tag : Tag
  band : Nat
  cnt : Loc
  map : Loc
  plist : Loc
  outb : Loc
  otag : Tag
  deriving DecidableEq, Repr

/-- Whether a physical address lies in the HBM of a die of a package. -/
def onDie (pkg : Nat) (die : Fin 8) (l : Loc) : Bool :=
  decide (l < cellarBase) && locPkg l == pkg && decide (locOff l < 2 ^ 40) && locOff l / 2 ^ 37 == die.val
/-- The descriptor of 64 bytes, if no field breaks its limits; the claim counter is on the home die. -/
def expertDesc (bs : List Byte) : Option ExpertDesc :=
  let w (i : Nat) : Nat := leNat ((bs.drop (8 * i)).take 8)
  let tag := Tag.ofCode (fld (w 1) 48 4)
  let q4 := flag (w 1) 47
  let cap := fld (w 1) 32 11
  let otag := Tag.ofCode (fld (w 7) 0 4)
  let okTag := if q4 then tag == .fp4b else tag == .bf16 || tag == .fp16 || tag == .fp32 || tag == .e4m3
  if fld (w 0) 0 32 = 0xFFFFFFFF ∨ fld (w 0) 48 16 ≠ 0 ∨ fld (w 2) 4 60 ≠ 0 ∨ fld (w 7) 4 60 ≠ 0 ∨ cap < 8 ∨ 1024 < cap ∨ cap % 8 ≠ 0 ∨
      9 < fld (w 1) 43 4 ∨ !okTag ∨ !onDie (fld (w 1) 0 17) (fin 8 (w 1) 17) (w 3 % 2 ^ 60) ∨ (otag ≠ .fp32 ∧ otag ≠ .bf16) then none
  else some
    { expert := fld (w 0) 0 32, layer := fld (w 0) 32 16, hpkg := fld (w 1) 0 17, hdie := fin 8 (w 1) 17, entry := fin 4096 (w 1) 20,
      cap := cap, rowBytes := 128 * 2 ^ fld (w 1) 43 4, q4 := q4, tag := tag, band := fld (w 1) 52 12 * 16 + fld (w 2) 0 4,
      cnt := w 3 % 2 ^ 60, map := w 4 % 2 ^ 60, plist := w 5 % 2 ^ 60, outb := w 6 % 2 ^ 60, otag := otag }

/-- The page of the receive buffer that holds row s, and the row's offset in it. -/
def pageOfRow (rowBytes slot : Nat) : Nat × Nat := (slot * rowBytes / 65536, slot * rowBytes % 65536)
/-- The page of a row as the page list has it; none where it is not yet taken. -/
def State.rowPage (s : State) (plist page : Nat) : Option Loc :=
  let v := s.numAt (plist + 8 * page) 8
  if v = 0 then none else some v
/-- Where row s stands. -/
def State.rowLoc (s : State) (plist rowBytes slot : Nat) : Option Loc :=
  let p := pageOfRow rowBytes slot
  (s.rowPage plist p.1).map (· + p.2)

/-! ## The page pool (R362) -/

def State.poolFree (s : State) (d : Nat) : Nat := bitsOf (s.dev (devRouting d 0x10)) 0 20
def State.poolEntry (s : State) (d i : Nat) : Loc := bitsOf (s.dev (devRouting d 0)) 0 60 + 8 * i

/-- The page of a row is there, or taken from the pool of the home die; none where the pool is empty, which is counted. -/
def State.takePage (d : Fin 8) (plist page : Nat) (s : State) : Option State :=
  match s.rowPage plist page with
  | some _ => some s
  | none =>
    let n := s.poolFree d.val
    if n = 0 then none
    else
      let v := s.numAt (s.poolEntry d.val (n - 1)) 8
      some ((((s.engCount (s.poolEntry d.val (n - 1)) 8 0).engWrite (plist + 8 * page) { bytes := leBytes 8 v, bad := [] } 0 false).setDev
        (devRouting d.val 0x10) (dw (n - 1))))

/-- A claim on an expert's counter at its home, with the page of its row (R298, R356, R362), whoever makes it: the counter's old value
with bit 32 set where the pool was empty (log 11), which is counted. -/
def State.claimAt (cap : Word) (d : Fin 8) (plist rowBytes : Nat) (cnt : Loc) (s : State) : DWord × State :=
  let a := s.homeDo none (.claim cap d plist rowBytes) cnt none
  if bitsOf a.1 0 32 = 0xFFFFFFFF then a
  else match a.2.takePage d plist (pageOfRow rowBytes (bitsOf a.1 0 32)).1 with
    | some t => (a.1, t)
    | none => (a.1 + dw (2 ^ 32), a.2.bump (devRouting d.val 0x18) 1)

/-- A page is returned to the pool. -/
def State.returnPage (d : Fin 8) (page : Loc) (s : State) : State :=
  let n := s.poolFree d.val
  (s.engWrite (s.poolEntry d.val n) { bytes := leBytes 8 page, bad := [] } 0 false).setDev (devRouting d.val 0x10) (dw (n + 1))

/-! ## The residency table (R363, R446) -/

/-- Where an entry stands; none where ERTBASE is no address in this package's HBM. -/
def State.ertAt (s : State) (e : Fin 4096) : Option Loc :=
  let b := bitsOf (s.dev 0x020) 17 43 * 2 ^ 17
  if s.isHbm b then some (b + 32 * e.val) else none

/-- An entry's words. -/
structure Entry where
  w0 : Nat
  frame : Nat
  caddr : Nat
  w3 : Nat
  deriving DecidableEq, Repr

def State.ert (s : State) (l : Loc) : Entry :=
  { w0 := s.numAt l 8, frame := fld (s.numAt (l + 8) 8) 16 44 * 2 ^ 16, caddr := s.numAt (l + 16) 8, w3 := s.numAt (l + 24) 8 }
def Entry.state (e : Entry) : Nat := fld e.w0 0 2
def Entry.pin (e : Entry) : Bool := flag e.w0 2
def Entry.fault (e : Entry) : Bool := flag e.w0 3
def Entry.flash (e : Entry) : Bool := flag e.w0 4
def Entry.binds (e : Entry) : Nat := fld e.w0 16 16
def Entry.parked (e : Entry) : Nat := fld e.w3 48 16
def Entry.size (e : Entry) : Nat := fld e.w3 0 32
/-- A field of a word replaced. -/
def putField (w lo n v : Nat) : Nat := w - fld w lo n * 2 ^ lo + v % 2 ^ n * 2 ^ lo
def Entry.setState (v : Nat) (e : Entry) : Entry := { e with w0 := putField e.w0 0 2 v }
def Entry.setFault (b : Bool) (e : Entry) : Entry := { e with w0 := putField e.w0 3 1 b.toNat }
def Entry.setPin (b : Bool) (e : Entry) : Entry := { e with w0 := putField e.w0 2 1 b.toNat }
def Entry.setBinds (v : Nat) (e : Entry) : Entry := { e with w0 := putField e.w0 16 16 v }
def Entry.setAge (v : Nat) (e : Entry) : Entry := { e with w0 := putField e.w0 32 32 v }
def Entry.setParked (v : Nat) (e : Entry) : Entry := { e with w3 := putField e.w3 48 16 v }
/-- The words that the engines write back: all but the frame and the source. -/
def State.setErt (l : Loc) (e : Entry) (s : State) : State :=
  (s.engWrite l { bytes := leBytes 8 e.w0, bad := [] } 0 false).engWrite (l + 24) { bytes := leBytes 8 e.w3, bad := [] } 0 false
def State.modErt (e : Fin 4096) (f : Entry → Entry) (s : State) : State :=
  match s.ertAt e with
  | some l => s.setErt l (f (s.ert l))
  | none => s

/-- A fetch of an entry starts, if it is ABSENT (R364). -/
def State.startFetch (e : Fin 4096) (s : State) : State :=
  match s.ertAt e with
  | none => s
  | some l =>
    if (s.ert l).state = 0 then
      (s.setErt l (((s.ert l).setState 1).setFault false)).modPkg (fun p => { p with fetches := p.fetches ++ [{ entry := e, started := false }] })
    else s

/-! ## The wait yard (R367) -/

/-- The order of the yard. -/
def YardRec.before (a b : YardRec) : Bool :=
  decide (a.layer < b.layer) || (a.layer == b.layer && (decide (a.expert < b.expert) || (a.expert == b.expert && decide (a.slot < b.slot))))
def insertYard (r : YardRec) : List YardRec → List YardRec
  | [] => [r]
  | x :: t => if r.before x then r :: x :: t else x :: insertYard r t
/-- A parked-row record as it stands in the yard or in its spill area. -/
def YardRec.parkedBytes (r : YardRec) : List Byte :=
  leBytes 8 (r.expert % 2 ^ 32 + r.layer % 2 ^ 16 * 2 ^ 32 + r.slot % 2 ^ 10 * 2 ^ 48) ++ leBytes 8 (r.token % 2 ^ 32)
/-- Records a die's yard holds, with its spill area. -/
def State.yardRoom (s : State) (d : Fin 8) : Nat :=
  1024 + bitsOf (s.dev (devRouting d.val 0x28)) 0 24 - (s.pkg.yards.get d).length
/-- A die's yard holds some records, in their order: those beyond the first 1,024 stand in the spill area's memory (log 61). -/
def State.setYard (d : Fin 8) (l : List YardRec) (s : State) : State :=
  let spill := (l.drop 1024).flatMap YardRec.parkedBytes
  let s := (s.modPkg (fun p => { p with yards := vset p.yards d l })).setDev (devRouting d.val 0x30) (dw l.length)
  s.engWrite (bitsOf (s.dev (devRouting d.val 0x20)) 0 60) { bytes := spill, bad := [] } 0 false

/-- The combine entry of a choice takes STATE 3 (R365, R367, R368, R370), where it is known. -/
def State.failCombine (l : Loc) (s : State) (sc : Scope := .package) : State :=
  if l = 0 then s
  else s.engWrite (l + 7) { bytes := [if s.away l then 0x30 else (s.byteAt (l + 7) &&& 0x0F) ||| 0x30], bad := [] } 0 false sc

/-! ## Binding (R365, R392) -/

/-- The rows of a binding with a token, by the row map. -/
def State.mapBits (s : State) (x : ExpertDesc) : List Bool :=
  (List.range x.cap).map (fun i => (s.byteAt (x.map + i / 8)).getLsbD (i % 8))

/-- Null rows are written zero. -/
def State.zeroRows (x : ExpertDesc) (s : State) : State :=
  ((s.mapBits x).zipIdx).foldl (fun t p =>
    if p.1 then t else match t.rowLoc x.plist x.rowBytes p.2 with
      | some l => t.engWrite l { bytes := List.replicate x.rowBytes 0, bad := [] } 0 false
      | none => t) s

/-- An EXBIND at its expert's home: the outcome, and the state after. A value the spec does not state is free (log 6). -/
def State.bind (d : Option ExpertDesc) (s : State) : DWord × State :=
  match d with
  | none => (dw (2 + 4 + bitsOf (Config.freeWord s.fresh) 32 11 * 2 ^ 32), s.drawn)
  | some x =>
    match s.ertAt x.entry with
    | none => (dw (2 + 4 + bitsOf (Config.freeWord s.fresh) 32 11 * 2 ^ 32), s.drawn)
    | some l =>
      let bits := s.mapBits x
      let n := (bits.filter id).length
      let e := s.ert l
      let s := (s.engCount x.map (x.cap / 8) 0).engCount l 32 0
      let bound (s : State) : State := s.modPkg (fun p => { p with bound := p.bound ++ [(BitVec.ofNat 12 x.entry.val, x.layer)] })
      if e.state = 2 then
        let s := s.zeroRows x
        (dw (n * 2 ^ 32), bound (s.setErt l (((s.ert l).setBinds (e.binds + 1)).setAge (s.timeNs / 1000))))
      else if s.yardRoom x.hdie < n then
        (dw (2 + 8 + n * 2 ^ 32),
         (s.pkg.landed.filter (fun r => r.layer == x.layer && r.expert == x.expert)).foldl (fun s r => s.failCombine r.combine) s)
      else
        let s := (s.zeroRows x).startFetch x.entry
        let recOf (slot : Nat) : YardRec :=
          match s.pkg.landed.find? (fun r => r.layer == x.layer && r.expert == x.expert && r.slot == slot) with
          | some r => r
          | none => { layer := x.layer, expert := x.expert, slot := slot, token := 0, rank := 0, entry := x.entry, combine := 0 }
        let recs := (bits.zipIdx.filter (·.1)).map (fun p => recOf p.2)
        let s := s.setYard x.hdie (recs.foldl (fun y r => insertYard r y) (s.pkg.yards.get x.hdie))
        (dw (1 + n * 2 ^ 32), bound (s.setErt l ((s.ert l).setParked (e.parked + n))))

/-! ## Release (R366, R393) -/

/-- The pages of a receive buffer. -/
def ExpertDesc.pages (x : ExpertDesc) : Nat := (x.cap * x.rowBytes + 65535) / 65536

/-- An EXREL at its expert's home: whether it was done; PARKED is 0. -/
def State.unbind (x : ExpertDesc) (l : Loc) (s : State) : Bool × State :=
  let e := s.ert l
  if e.binds = 0 then (false, s)
  else
    let s := s.setErt l (e.setBinds (e.binds - 1))
    let s := (List.range x.pages).foldl (fun s i => match s.rowPage x.plist i with
      | some p => (s.returnPage x.hdie p).engWrite (x.plist + 8 * i) { bytes := leBytes 8 0, bad := [] } 0 false
      | none => s) s
    (true, s.modPkg (fun p => { p with
      bound := p.bound.filter (fun b => !(b.1.toNat == x.entry.val && b.2 == x.layer)),
      landed := p.landed.filter (fun r => !(r.layer == x.layer && r.expert == x.expert)) }))

/-! ## Catch-up (R368, R394) -/

/-- The event of a fetch or record that failed (R425). -/
def State.entryEvent (d : Fin 8) (e : Fin 4096) (s : State) : State := s.relEvent d 0xAF (dw e.val) 0

/-- The table record of a yard record. -/
def YardRec.bytes (failed : Bool) (r : YardRec) : List Byte :=
  leBytes 8 (r.expert % 2 ^ 32 + r.layer % 2 ^ 16 * 2 ^ 32 + r.slot % 2 ^ 10 * 2 ^ 48) ++
    leBytes 8 (r.token % 2 ^ 32 + failed.toNat * 2 ^ 63)

/-- Whether a drain of the layer takes a record, and if so with which failure flag. -/
def State.drainPick (s : State) (layer : Nat) (r : YardRec) : Option Bool :=
  if r.layer ≠ layer then none
  else match s.ertAt r.entry with
    | none => none
    | some l =>
      let e := s.ert l
      if e.state = 2 then some false
      else if e.state = 0 ∧ e.fault then some true
      else none

/-- Records of a layer taken in yard order, at most `k`: those taken with their failure flags, and those left. -/
def State.drainRecs (s : State) (layer : Nat) : Nat → List YardRec → List (YardRec × Bool) × List YardRec
  | _, [] => ([], [])
  | 0, l => ([], l)
  | k + 1, r :: t =>
    match s.drainPick layer r with
    | some f => let y := s.drainRecs layer k t; ((r, f) :: y.1, y.2)
    | none => let y := s.drainRecs layer (k + 1) t; (y.1, r :: y.2)

/-- A YARDDRAIN on this die: the bytes of the table, the count, and the state after. -/
def State.drainYard (layer n : Nat) (s : State) : List Byte × Nat × State :=
  let d := s.dieFin
  let r := s.drainRecs layer n (s.pkg.yards.get d)
  let s := s.setYard d r.2
  let one (s : State) (x : YardRec × Bool) : State :=
    let s := s.modErt x.1.entry (fun e => e.setParked (e.parked - 1))
    if x.2 then (s.failCombine x.1.combine).entryEvent d x.1.entry else s
  (r.1.flatMap (fun x => x.1.bytes x.2), r.1.length, r.1.foldl one s)

/-! ## Fetches (R364) -/

/-- Whether an entry can give up its frame. -/
def Entry.evictable (e : Entry) : Bool := !e.pin && e.binds == 0 && e.parked == 0

/-- The entries of the table that are RESIDENT in a frame. -/
def State.residents (s : State) (frame : Nat) : List (Fin 4096) :=
  (List.finRange 4096).filter (fun e => match s.ertAt e with
    | some l => let x := s.ert l; x.state == 2 && x.frame == frame
    | none => false)

/-- Fetches of entries that share frames proceed in the order of their starts. -/
def State.fetchFirst (s : State) (e : Fin 4096) (frame : Nat) : Bool :=
  match s.pkg.fetches.find? (fun f => match s.ertAt f.entry with | some l => (s.ert l).frame == frame | none => false) with
  | some f => f.entry == e
  | none => false

/-- Whether the reads of a waiting fetch may begin. -/
def State.fetchReady (s : State) (e : Fin 4096) : Bool :=
  s.pkg.fetches.any (fun f => f.entry == e && !f.started) &&
  (match s.ertAt e with
   | none => false
   | some l =>
     let x := s.ert l
     s.fetchFirst e x.frame && (s.residents x.frame).all (fun o => match s.ertAt o with
       | some k => (s.ert k).evictable
       | none => true))

/-- Whether the flash that an entry names can be read (R463): its namespace is mapped, and a queue pair of its port is registered. -/
def State.flashUp (s : State) (x : Entry) : Bool :=
  let p := bitsOf (s.dev (devIo 0 + 0x800 + 8 * fld x.caddr 56 8)) 0 2
  fld x.caddr 56 8 != 0 && p != 0 && s.portUp p 2 &&
    (List.range 16).any (fun q => (s.dev (devIo 0 + 0x400 + 32 * q)).getLsbD 63 && bitsOf (s.dev (devIo 0 + 0x410 + 32 * q)) 40 2 == p)

/-- EXPERT_FETCH_START (R364): the reads of a fetch begin; the resident entry of its frame becomes ABSENT. A read from flash is
asked of the NVMe device. -/
def execExpertFetchStart (e : Fin 4096) (s : State) : Host.Outcome State Fault Refusal :=
  .next (if s.fetchReady e then
    match s.ertAt e with
    | none => s
    | some l =>
      let x := s.ert l
      let s := (s.residents x.frame).foldl (fun s o => s.modErt o (Entry.setState 0)) s
      let s := s.modPkg (fun p => { p with fetches := p.fetches.map (fun f => if f.entry = e then { f with started := true } else f) })
      if x.flash && s.flashUp x then s.emit (.nvme e) else s
  else s)

/-- EXPERT_FETCH_END (R364): every byte is written to the frame, or a read is uncorrectable or unreachable. `flash` is what the
NVMe device has read, none where it could not. -/
def execExpertFetchEnd (e : Fin 4096) (flash : Option (List Byte)) (s : State) : Host.Outcome State Fault Refusal :=
  .next (if s.pkg.fetches.any (fun f => f.entry == e && f.started) then
    match s.ertAt e with
    | none => s
    | some l =>
      let x := s.ert l
      let src := cellarBase + x.caddr % 2 ^ 45
      let cellarOk := (s.region false src == .cellar) && (s.region false (src + x.size - 1) == .cellar) && !s.badRange src x.size
      let got : Option (List Byte) := if x.flash then (if s.flashUp x then flash else none) else if cellarOk then some (s.bytesAt src x.size) else none
      let s := s.modPkg (fun p => { p with fetches := p.fetches.filter (fun f => f.entry ≠ e) })
      match got with
      | some bs => (s.engWrite x.frame { bytes := bs.take x.size, bad := [] } 0 false).modErt e (Entry.setState 2)
      | none => (s.modErt e (fun x => (x.setState 0).setFault true)).entryEvent s.dieFin e
  else s)

end Sys2Proof.Machine
end

