-- ==== Sys2Proof/Machine/Copy.lean ====
section
/-! DEFINITION. The engine instructions at issue (R371 to R395): operand checks, tickets and submission (R337, R342, R343, R373 to
R375), and the immediate commands. -/

namespace Sys2Proof.Machine

/-! ## Operands (R372, R374, R395) -/

/-- Cause 0x90 with the lowest of some details. -/
def Env.operands (e : Env) : List Nat → List Raise
  | [] => []
  | d :: r => [{ cause := 0x90, tval := e.form + dw (r.foldl min d * 2 ^ 56) }]
/-- A detail where a condition holds. -/
def detailIf (p : Bool) (d : Nat) : List Nat := if p then [d] else []

/-- What the checks of one side find: causes, details of cause 0x90, the place, and the range entry of a core SRAM side (R343). -/
structure SideCk where
  raises : List Raise
  details : List Nat
  place : Place
  span : List (Nat × Nat × Bool)

/-- A handle side over the bytes from `lo` to `hi` counted from its offset (R240, R374). -/
def handleSide (s : State) (h : HReg) (off : DWord) (lo hi : Int) (k : AccessKind) : SideCk :=
  let hr := s.ctx.h h
  let a := (off.toNat : Int) + lo
  let o := if a < 0 then 2 ^ 64 else a.toNat
  { raises := (s.handleCauses hr o (hi - lo).toNat k false true true).map (fun c => { cause := c, tval := hr.vbase + off })
    details := [], place := .page hr off.toNat, span := [] }

/-- A handle side whose bytes an index names: its state and the kinds allowed. -/
def handleAny (s : State) (h : HReg) (off : DWord) (k : AccessKind) : SideCk :=
  let hr := s.ctx.h h
  { raises := (s.handleCauses hr 0 0 k false true true).map (fun c => { cause := c, tval := hr.vbase + off })
    details := [], place := .page hr off.toNat, span := [] }

/-- The tval of causes 0x50 to 0x53 of a command (R157). -/
def sramSideTval (e : Env) (a : Nat) : DWord :=
  dw (a + e.slot.code * 2 ^ 32 + (match e.shelf with | some g => g.val * 2 ^ 29 + 2 ^ 35 | none => 0))

/-- A core SRAM side over the bytes from `lo` to `hi` counted from its address (R157, R343, R374). -/
def sramSide (e : Env) (s : State) (x : DWord) (lo hi : Int) (write : Bool) : SideCk :=
  let a := bitsOf x 0 22
  let first := (a : Int) + lo
  let last := (a : Int) + hi
  let bad : List Nat := detailIf (bitsOf x 22 42 ≠ 0) 1 ++ detailIf (decide (first < 0) || decide (last > 2 ^ 22)) 6
  -- the banks touched, at most each once, where the extent wraps too
  let n := if last ≤ first then 0 else min 64 ((last - 1) / 65536 - first / 65536 + 1).toNat
  let banks : List Int := (List.range n).map (fun (i : Nat) => first / 65536 + (i : Int))
  let at_ (b : Int) : Nat := (max first (b * 65536) % 2 ^ 22).toNat
  { raises := banks.flatMap (fun b => (s.sramCauses (at_ b)).map (fun c => { cause := c, tval := sramSideTval e (at_ b) }))
    details := bad, place := .sram a, span := [(first.toNat, last.toNat, write)] }

/-- A side of a copy with its handle, if it has one. -/
def sideOf (e : Env) (s : State) (x : Side) (off : DWord) (lo hi : Int) (write : Bool) : SideCk :=
  match x with
  | .handle h => handleSide s h off lo hi (if write then .write else .read)
  | .sram => sramSide e s off lo hi write
def sideRegs : Side → List HReg
  | .handle h => [h]
  | .sram => []

/-- Two core SRAM sides of one command that overlap (R374). -/
def overlaps : List (Nat × Nat × Bool) → Bool
  | [] => false
  | x :: r => r.any (fun y => decide (x.1 < y.2.1 ∧ y.1 < x.2.1)) || overlaps r

/-! ## The completion part (R341, R346, R374) -/

structure Completion where
  raises : List Raise
  report : Option (Loc × BitVec 10)
  gen : Option DWord
  fill : State → State

/-- What is asked of a page of which the leaf's own bits are judged apart. -/
def anyNeed : Need := { r := false, w := false, x := false }

/-- Causes of a page of which the region is judged. -/
def regionRaises (va : DWord) (rg : Region) : List Raise :=
  (if rg = .hole ∨ rg = .away ∨ rg = .device then [atVa 0x72 va] else []) ++ (if rg = .outside then [atVa 0x73 va] else [])

/-- A report area of n records: causes, and where it stands. -/
def State.reportArea (s : State) (va : DWord) (n : Nat) : List Raise × Option (Loc × BitVec 10) × (State → State) :=
  let mis := if va.toNat % 8 = 0 then [] else [atVa 0x91 va]
  match s.translate anyNeed va with
  | .error c => (mis ++ [{ cause := c, tval := va, fault := some .write }], none, id)
  | .ok t =>
    let l := t.loc s.die va
    let bad := !attrW t.attr || attrSync t.attr || decide (va.toNat % pageBytes t.size + 8 * n > pageBytes t.size)
    (mis ++ (if bad then [atVa 0x91 va] else []) ++ regionRaises va (s.region true l), some (l, t.attr), State.tlbFill va t)

/-- A barrier: causes, and the translation kept; SYNC, ATOM and EPOCH are judged at the arrival (R346). -/
def State.barrierAt (s : State) (va : DWord) : List Raise × (State → State) :=
  let mis := if va.toNat % 64 = 0 then [] else [atVa 0x71 va]
  match s.translate AccessKind.atomic.need va with
  | .error c => (mis ++ [{ cause := c, tval := va, fault := some .atomic }], id)
  | .ok t =>
    let l := t.loc s.die va
    let rg := s.region true l
    (mis ++ (if rg = .hole ∨ rg = .away then [atVa 0x72 va] else []) ++ (if rg = .outside then [atVa 0x73 va] else []),
      State.tlbFill va t)

/-- The completion part of a command with a number of items; the arrival has a record of its own. -/
def State.completion (s : State) (f : Compl) (items : Nat) : Completion :=
  let r := if f.xr = 0 then ([], none, id) else s.reportArea (s.ctx.x f.xr) (items + (if f.xb = 0 then 0 else 1))
  let b := if f.xb = 0 then ([], id) else s.barrierAt (s.ctx.x f.xb)
  { raises := r.1 ++ b.1, report := r.2.1, gen := if f.xg = 0 then none else some (s.ctx.x f.xg)
    fill := fun t => b.2 (r.2.2 t) }

/-! ## Submission (R337, R342, R343, R375) -/

/-- What a ticketed command is. -/
structure Order where
  raises : List Raise := []
  details : List Nat := []
  reads : List Reg := []
  handles : List HReg := []
  sides : List SideCk := []
  job : Job
  items : Nat
  mat : Bool := false
  /-- It writes outside the core. -/
  outside : Bool
  pre : List (Phase × (State → State)) := []

/-- A command enters its queue: the next number, its range entries, and whether the open segment holds it back. -/
def State.submit (q : Fin 2) (c : Cmd) (spans : List (Nat × Nat × Bool)) (outside : Bool) (s : State) : State :=
  let n0 := (s.core.queues.get q).count
  let n : Word := if n0 = 0xFFFFFFFF then 1 else n0 + 1
  let held := s.ctx.seg.isSome && (outside || c.report.isSome || c.bar.isSome)
  let c := { c with num := n, half := s.core.active, owner := s.ctx.ident, asid := s.ctx.csrs.asid, held := held,
                    inSeg := s.ctx.seg.isSome && !held }
  s.modCore (fun k => { k with
    queues := vmod k.queues q (fun u => { u with cmds := u.cmds ++ [c], count := n })
    ranges := k.ranges ++ spans.map (fun x => { lo := x.1, hi := x.2.1, write := x.2.2, half := k.active, q := q, num := n }) })

/-- A ticketed command at issue. -/
def orderPlan (e : Env) (s : State) (f : Compl) (o : Order) : Plan :=
  let c := s.completion f o.items
  let spans := o.sides.flatMap (·.span)
  let ds := o.details ++ o.sides.flatMap (·.details)
  let ds := ds ++ (if ds = [] then detailIf (overlaps spans) 6 else [])
  let cmd : Cmd :=
    { num := 0, active := false, job := o.job, items := o.items, next := 0, recs := [], arr := [], orig := [], scope := e.scope,
      acq := f.acq, rel := f.rel, report := c.report, bar := if f.xb = 0 then none else some (s.ctx.x f.xb), user := !s.ctx.csrs.prv,
      gen := c.gen, half := .a, owner := 0, asid := 0, held := false,
      inSeg := false, revoked := false, result := 0, fin := 0, arv := 0, moved := 0, asked := none, far := [], reply := none, lost := false, refused := false,
      forming := [] }
  { raises := o.raises ++ e.operands ds ++ o.sides.flatMap (·.raises) ++ c.raises
    reads := xs (o.reads ++ [f.xr, f.xb, f.xg]) ++ o.handles.map Res.h
    submits := some spans.length, mem := true, mat := o.mat
    effs := o.pre ++ [(.smem, c.fill), (.submit, State.submit (s.queueOf e.slot) cmd spans o.outside)] }

/-! ## Copies (R379 to R381) -/

/-- Items of 4 KiB. -/
def blocks4k (n : Nat) : Nat := (n + 4095) / 4096
def hiWord (x : DWord) : Nat := bitsOf x 32 32
def loWord (x : DWord) : Nat := bitsOf x 0 32

/-- CPY (R371, R374, R379). -/
def mCpy (x : CopyArgs) (tag : Tag) (sel : Bool) : Meaning :=
  .once fun e s =>
    let xs_ := s.ctx.x x.xs
    let xd := s.ctx.x x.xd
    let xn := s.ctx.x x.xn
    let n := loWord xn
    let ext : Int := ((n + (if sel then 16 else 0) : Nat) : Int)
    let src := sideOf e s x.src xs_ 0 ext false
    let dst := sideOf e s x.dst xd 0 ext true
    orderPlan e s x.f
      { details := detailIf (hiWord xn != 0 || n == 0 || decide (n > 2 ^ 30)) 2 ++
          detailIf (n % 4 != 0 || xs_.toNat % 4 != 0 || xd.toNat % 4 != 0 || (sel && n % 8 != 0)) 3 ++
          detailIf (if sel then decide (11 < tag.code) else tag.code != 0) 5
        reads := [x.xs, x.xd, x.xn], handles := sideRegs x.src ++ sideRegs x.dst, sides := [src, dst]
        job := .copy src.place dst.place 1 n 0 0 x.hint (if sel then some tag else none)
        items := if sel then 1 else blocks4k n, outside := x.dst != .sram }
def execCpy (x : CopyArgs) (tag : Tag) (sel : Bool) (s : State) : Host.Outcome State Fault Refusal := issueWord (mCpy x tag sel) s

/-- CPY2D (R371, R374, R380). -/
def mCpy2d (x : CopyArgs) : Meaning :=
  .once fun e s =>
    let xs_ := s.ctx.x x.xs
    let xd := s.ctx.x x.xd
    let xn := s.ctx.x x.xn
    let second : Reg := if h : x.xn.val + 1 < 32 then ⟨x.xn.val + 1, h⟩ else 0
    let st := s.ctx.x second
    let rows := hiWord xn
    let rb := loWord xn
    let ss := sext 32 (loWord st)
    let ds := sext 32 (hiWord st)
    let lo (d : Int) : Int := min 0 (((rows - 1 : Nat) : Int) * d)
    let hi (d : Int) : Int := max 0 (((rows - 1 : Nat) : Int) * d) + (rb : Int)
    let src := sideOf e s x.src xs_ (lo ss) (hi ss) false
    let dst := sideOf e s x.dst xd (lo ds) (hi ds) true
    orderPlan e s x.f
      { details := detailIf (rows == 0 || rb == 0 || decide (rows * rb > 2 ^ 30)) 2 ++
          detailIf (rb % 4 != 0 || loWord st % 4 != 0 || hiWord st % 4 != 0 || xs_.toNat % 4 != 0 || xd.toNat % 4 != 0) 3
        reads := [x.xs, x.xd, x.xn, second], handles := sideRegs x.src ++ sideRegs x.dst, sides := [src, dst]
        job := .copy src.place dst.place rows rb ss ds x.hint none, items := blocks4k (rows * rb), outside := x.dst != .sram }
def execCpy2d (x : CopyArgs) (s : State) : Host.Outcome State Fault Refusal := issueWord (mCpy2d x) s

/-- The index table of a gather or scatter: its address, count, words of a row, and details of cause 0x90. -/
def tableOf (xn : DWord) : DWord × Nat × Nat × List Nat :=
  (dw (bitsOf xn 0 22), bitsOf xn 32 16, bitsOf xn 48 14,
   detailIf (bitsOf xn 22 10 != 0 || bitsOf xn 62 2 != 0) 1 ++ detailIf (bitsOf xn 32 16 == 0 || bitsOf xn 48 14 == 0) 2)

/-- CPYG (R371, R374, R381). -/
def mCpyg (hs : HReg) (xs : Reg) (xd : Reg) (xn : Reg) (hint : Fin 4) (f : Compl) : Meaning :=
  .once fun e s =>
    let x := tableOf (s.ctx.x xn)
    let tab := sramSide e s x.1 0 (4 * x.2.1 : Nat) false
    let dst := sramSide e s (s.ctx.x xd) 0 (x.2.1 * 4 * x.2.2.1 : Nat) true
    let src := handleAny s hs (s.ctx.x xs) .read
    orderPlan e s f
      { details := x.2.2.2, reads := [xs, xd, xn], handles := [hs], sides := [src, dst, tab]
        job := .gather src.place x.1.toNat x.2.1 x.2.2.1 (bitsOf (s.ctx.x xd) 0 22) hint, items := x.2.1, outside := false }
def execCpyg (hs : HReg) (xs : Reg) (xd : Reg) (xn : Reg) (hint : Fin 4) (f : Compl) (s : State) : Host.Outcome State Fault Refusal :=
  issueWord (mCpyg hs xs xd xn hint f) s

/-- CPYS (R371, R374, R381). -/
def mCpys (hd : HReg) (xs : Reg) (xd : Reg) (xn : Reg) (hint : Fin 4) (f : Compl) : Meaning :=
  .once fun e s =>
    let x := tableOf (s.ctx.x xn)
    let tab := sramSide e s x.1 0 (4 * x.2.1 : Nat) false
    let src := sramSide e s (s.ctx.x xs) 0 (x.2.1 * 4 * x.2.2.1 : Nat) false
    let dst := handleAny s hd (s.ctx.x xd) .write
    orderPlan e s f
      { details := x.2.2.2, reads := [xs, xd, xn], handles := [hd], sides := [dst, src, tab]
        job := .scatter dst.place x.1.toNat x.2.1 x.2.2.1 (bitsOf (s.ctx.x xs) 0 22) hint, items := x.2.1, outside := true }
def execCpys (hd : HReg) (xs : Reg) (xd : Reg) (xn : Reg) (hint : Fin 4) (f : Compl) (s : State) : Host.Outcome State Fault Refusal :=
  issueWord (mCpys hd xs xd xn hint f) s

/-! ## Fills (R382 to R384) -/

/-- The groups of a mask, ascending. -/
def groupsOf (m : Byte) : List Group := (List.finRange 8).filter (fun g => m.getLsbD g.val)
/-- Causes of a group mask (R382). -/
def groupRaises (e : Env) (s : State) (m : Byte) : List Raise := if (groupsOf m).all s.ownGroup then [] else [e.bad 0x92]

/-- CPYL (R371, R374, R382). -/
def mCpyl (src : Side) (xs : Reg) (latch : Fin 4) (gmask : Byte) (tag : Tag) (f : Compl) : Meaning :=
  .once fun e s =>
    let x := s.ctx.x xs
    let n := 1024 * (groupsOf gmask).length
    let sd := sideOf e s src x 0 n false
    orderPlan e s f
      { raises := groupRaises e s gmask
        details := detailIf (gmask == 0) 2 ++ detailIf (x.toNat % 128 != 0) 3 ++ detailIf (decide (12 < tag.code)) 5
        reads := [xs], handles := sideRegs src, sides := [sd], job := .latch sd.place latch gmask tag, items := 1, mat := true
        outside := false }
def execCpyl (src : Side) (xs : Reg) (latch : Fin 4) (gmask : Byte) (tag : Tag) (f : Compl) (s : State) : Host.Outcome State Fault Refusal :=
  issueWord (mCpyl src xs latch gmask tag f) s

/-- CPYSH (R371, R374, R383). -/
def mCpysh (hs : HReg) (xs : Reg) (xd : Reg) (xn : Reg) (gmask : Byte) (f : Compl) : Meaning :=
  .once fun e s =>
    let x := s.ctx.x xs
    let r := s.ctx.x xn
    let tg := s.ctx.x xd
    let first := bitsOf r 0 9
    let count := bitsOf r 16 10
    let gs := (groupsOf gmask).map (·.val)
    let g0 := gs.headD 0
    let g1 := gs.getLastD 0
    let sd := handleSide s hs x (16384 * g0 + 32 * first : Nat) (16384 * g1 + 32 * (first + count) : Nat) .read
    orderPlan e s f
      { raises := groupRaises e s gmask
        details := detailIf (bitsOf r 9 7 != 0 || bitsOf r 26 38 != 0 || hiWord tg != 0) 1 ++
          detailIf (gmask == 0 || count == 0 || decide (512 < first + count)) 2 ++ detailIf (x.toNat % 32 != 0) 3
        reads := [xs, xd, xn], handles := [hs], sides := [sd], job := .shelf sd.place gmask first count (wd (loWord tg)), items := 1
        mat := true, outside := false }
def execCpysh (hs : HReg) (xs : Reg) (xd : Reg) (xn : Reg) (gmask : Byte) (f : Compl) (s : State) : Host.Outcome State Fault Refusal :=
  issueWord (mCpysh hs xs xd xn gmask f) s

/-- CPYBIN (R371, R374, R384). -/
def mCpybin (src : Side) (xs : Reg) (xn : Reg) (bin : MReg) (f : Compl) : Meaning :=
  .once fun e s =>
    let n := loWord (s.ctx.x xn)
    let sd := sideOf e s src (s.ctx.x xs) 0 n false
    orderPlan e s f
      { raises := if s.binUsable bin then [] else [e.detail 0x56 bin.val]
        details := detailIf (hiWord (s.ctx.x xn) != 0 || n == 0 || n % 128 != 0) 2
        reads := [xs, xn], handles := sideRegs src, sides := [sd], job := .bin sd.place bin n, items := 1, mat := true, outside := false }
def execCpybin (src : Side) (xs : Reg) (xn : Reg) (bin : MReg) (f : Compl) (s : State) : Host.Outcome State Fault Refusal :=
  issueWord (mCpybin src xs xn bin f) s

/-! ## Descriptors (R374) -/

/-- The bytes that eight scalar loads at the bundle's scope find, what they raise, or the line that they await. -/
inductive DescRead where
  | bytes (bs : List Byte) (hit : Bool)
  | bad (rs : List Raise)
  | waits (l : Loc)

def State.readDesc (s : State) (sc : Scope) (va : DWord) : DescRead × Access :=
  let x := s.access (dw (va.toNat / 8 * 8)) 8 .read false
  (if x.raises ≠ [] then .bad (x.raises.map (fun r => { r with tval := va }))
   else if x.region = .device ∧ !farRegion x.region x.loc then
     .bytes ((List.range 8).flatMap (fun i => leBytes 8 (s.devRead (locOff x.loc - 0x7F000000000 + 8 * i) 8).toNat)) true
   else match s.peek sc x.loc 64 with
     | some g => if g.bad then .bad [atVa 0xA1 va] else .bytes g.bytes (g.hit || farRegion x.region x.loc)
     | none => if (s.answerFor x.loc 64).isSome then .bad [atVa 0xA1 va] else .waits x.loc, x)

/-- The effects of the eight loads. -/
def State.descEff (sc : Scope) (va : DWord) (x : Access) (hit : Bool) (s : State) : State :=
  let s := s.tlbFill va x.trans
  if x.region = .hbm ∨ x.region = .cellar ∨ x.region = .remote then
    let s := (List.range 8).foldl (fun s i => s.readEff sc (attrHint x.trans.attr) (x.loc + 8 * i)) s
    if hit then s else s.freeFreeze
  else s

/-- A command with a descriptor at x[XN]; `known` are the sides that it has whatever the descriptor says. -/
def descPlan (e : Env) (s : State) (a : EngArgs) (known : List SideCk) (f : List Byte → Order) : Plan :=
  let va := s.ctx.x a.xn
  let mis := if va.toNat % 64 = 0 then [] else e.operands [3]
  let rd := s.readDesc e.scope va
  let base : Plan := { reads := xs [a.xs, a.xd, a.xn, a.f.xr, a.f.xb, a.f.xg] ++ [.h a.hs, .h a.hd], submits := some 0, mem := true }
  match rd.1 with
  | .bad rs => { base with raises := mis ++ rs ++ known.flatMap (·.raises) ++ (s.completion a.f 0).raises }
  | .waits l => if mis = [] then { base with holds := [.remote], ask := some (State.request l 64 (.read l 64)) }
    else { base with raises := mis ++ known.flatMap (·.raises) ++ (s.completion a.f 0).raises }
  | .bytes bs hit =>
    let o := f bs
    let p := orderPlan e s a.f { o with reads := [a.xs, a.xd, a.xn] ++ o.reads, handles := [a.hs, a.hd] ++ o.handles,
                                        pre := [(.smem, State.descEff e.scope va rd.2 hit)] }
    { p with raises := mis ++ p.raises }

/-- Word i of a descriptor. -/
def descWord (bs : List Byte) (i : Nat) : Nat := leNat ((bs.drop (8 * i)).take 8)

/-! ## Routing (R385 to R387) -/

/-- The descriptor of ROUTE. -/
structure RouteDesc where
  tok0 : Nat
  ntok : Nat
  t : Nat
  k : Nat
  layer : Nat
  srcTag : Tag
  srcBytes : Nat
  rh : HReg
  eh : HReg
  ebase : Nat
  recOff : Nat
  etOff : Nat

def routeDesc (bs : List Byte) : RouteDesc × Bool :=
  let q := descWord bs
  let tag := Tag.ofCode (fld (q 1) 16 4)
  ({ tok0 := fld (q 0) 0 32, ntok := fld (q 0) 32 16, t := fld (q 0) 48 3, k := fld (q 0) 51 4, layer := fld (q 1) 0 16, srcTag := tag
     srcBytes := 128 * 2 ^ fld (q 1) 20 4, rh := fin 16 (q 1) 24, eh := fin 16 (q 1) 28, ebase := fld (q 1) 32 32, recOff := q 2
     etOff := q 3 },
   decide (fld (q 0) 55 9 = 0) && [4, 5, 6, 7].all (fun i => q i == 0) && fld (q 0) 32 16 != 0 && decide (1 ≤ fld (q 0) 48 3) &&
   decide (fld (q 0) 48 3 ≤ 4) && decide (2 ≤ fld (q 0) 51 4) && decide (fld (q 0) 48 3 ≤ fld (q 0) 51 4) && decide (fld (q 0) 51 4 ≤ 8) &&
   (tag == .fp32 || tag == .bf16 || tag == .fp16 || tag == .e4m3) && decide (fld (q 1) 20 4 ≤ 9))

/-- ROUTE (R371, R374, R385, R386). -/
def mRoute (x : EngArgs) : Meaning :=
  .once fun e s => descPlan e s x [handleAny s x.hs (s.ctx.x x.xs) .read, handleAny s x.hd (s.ctx.x x.xd) .write] fun bs =>
    let d := routeDesc bs
    let r := d.1
    let src := handleSide s x.hs (s.ctx.x x.xs) 0 (r.ntok * r.srcBytes : Nat) .read
    let dst := handleSide s x.hd (s.ctx.x x.xd) 0 (64 * r.ntok : Nat) .write
    { details := detailIf (!d.2) 4, handles := [r.rh, r.eh]
      sides := [src, dst, handleSide s r.rh (dw r.recOff) 0 (64 * r.ntok : Nat) .read, handleAny s r.eh (dw r.etOff) .read]
      job := .route src.place dst.place bs (s.ctx.h r.rh) (s.ctx.h r.eh), items := 8 * r.ntok, outside := true }
def execRoute (x : EngArgs) (s : State) : Host.Outcome State Fault Refusal := issueWord (mRoute x) s

/-- The descriptor of ROUTEC. -/
structure CombineDesc where
  ntok : Nat
  layer : Nat
  nel : Nat
  rtag : Tag
  dtag : Tag
  rh : HReg
  eh : HReg
  ebase : Nat
  recOff : Nat
  etOff : Nat
  resOff : Nat

def combineDesc (bs : List Byte) : CombineDesc × Bool :=
  let q := descWord bs
  let fp (t : Tag) : Bool := t == .fp32 || t == .bf16 || t == .fp16
  let rt := Tag.ofCode (fld (q 1) 16 4)
  let dt := Tag.ofCode (fld (q 1) 20 4)
  ({ ntok := fld (q 0) 32 16, layer := fld (q 0) 48 16, nel := fld (q 1) 0 16, rtag := rt, dtag := dt, rh := fin 16 (q 1) 24
     eh := fin 16 (q 1) 28, ebase := fld (q 1) 32 32, recOff := q 2, etOff := q 3, resOff := q 4 },
   decide (fld (q 0) 0 32 = 0) && [5, 6, 7].all (fun i => q i == 0) && fld (q 0) 32 16 != 0 && fld (q 1) 0 16 != 0 && fp rt && fp dt)

/-- ROUTEC (R371, R374, R387). -/
def mRoutec (x : EngArgs) : Meaning :=
  .once fun e s => descPlan e s x [handleAny s x.hs (s.ctx.x x.xs) .read, handleAny s x.hd (s.ctx.x x.xd) .write] fun bs =>
    let d := combineDesc bs
    let r := d.1
    let src := handleSide s x.hs (s.ctx.x x.xs) 0 (64 * r.ntok : Nat) .read
    let dst := handleSide s x.hd (s.ctx.x x.xd) 0 (r.ntok * (r.nel * elemBytes r.dtag) : Nat) .write
    { details := detailIf (!d.2) 4, handles := [r.rh, r.eh]
      sides := [src, dst, handleSide s x.hd (dw r.resOff) 0 (r.ntok * (r.nel * elemBytes r.rtag) : Nat) .read,
        handleSide s r.rh (dw r.recOff) 0 (64 * r.ntok : Nat) .read, handleAny s r.eh (dw r.etOff) .read]
      job := .routec src.place dst.place bs (s.ctx.h r.rh) (s.ctx.h r.eh), items := r.ntok, outside := true }
def execRoutec (x : EngArgs) (s : State) : Host.Outcome State Fault Refusal := issueWord (mRoutec x) s

/-! ## Collectives (R388) -/

structure CollDesc where
  collid : Nat
  attempt : Nat
  tag : Tag
  rhops : Nat
  hops : Nat
  chunk0 : Nat
  nch : Nat
  lastb : Nat
  arr : Nat
  orig : Nat
  dpkg : Nat
  ddie : Fin 8
  sseal : Nat
  dseal : Nat

def collDesc (bs : List Byte) : CollDesc :=
  let q := descWord bs
  { collid := fld (q 0) 0 32, attempt := fld (q 0) 32 8, tag := Tag.ofCode (fld (q 0) 40 4), rhops := fld (q 0) 44 8, hops := fld (q 0) 52 8
    chunk0 := fld (q 1) 0 32, nch := fld (q 1) 32 7, lastb := fld (q 1) 40 13, arr := q 2 + q 3 * 2 ^ 64, orig := q 4
    dpkg := fld (q 5) 0 17, ddie := fin 8 (q 5) 17, sseal := q 6, dseal := q 7 }

/-- The tags that a reduction takes. -/
def redTag (t : Tag) : Bool := t == .fp64 || t == .fp32 || t == .bf16 || t == .fp16

/-- The details of a collective's descriptor: `op` 0 RED, 1 BCAST, 2 AGATH. -/
def collDetails (op : Fin 3) (bs : List Byte) : List Nat :=
  let q := descWord bs
  let d := collDesc bs
  detailIf (fld (q 0) 60 4 != 0 || fld (q 1) 39 1 != 0 || fld (q 1) 53 11 != 0 || fld (q 5) 20 44 != 0) 1 ++
  detailIf (d.hops == 0 || d.nch == 0 || decide (64 < d.nch) || d.lastb == 0 || decide (4096 < d.lastb) || d.lastb % elemBytes d.tag != 0 ||
    (if op = 0 then d.rhops == 0 || decide (d.hops < d.rhops) else d.rhops != 0) || d.arr / 2 ^ (2 * d.nch) != 0 ||
    d.orig / 2 ^ d.nch != 0) 4 ++
  detailIf (decide (11 < d.tag.code) || (op == 0 && !redTag d.tag)) 5

/-- RED, BCAST and AGATH at issue. -/
def collOrder (op : Fin 3) (seals : Bool) (s : State) (x : EngArgs) (bs : List Byte) : Order :=
  let d := collDesc bs
  let ext : Int := ((4096 * (d.nch - 1) + d.lastb : Nat) : Int)
  let src := handleSide s x.hs (s.ctx.x x.xs) 0 ext .read
  let dst := handleSide s x.hd (s.ctx.x x.xd) 0 ext .write
  let reads := decide (op = 0) || d.orig != 0
  let writes := d.arr != 0 || (op == 2 && d.orig != 0)
  { details := collDetails op bs ++ (if seals then detailIf (d.sseal % 8 != 0 || d.dseal % 8 != 0) 3 else [])
    sides := (if reads then src :: (if seals then [handleSide s x.hs (dw d.sseal) 0 (16 * d.nch : Nat) .read] else []) else []) ++
      (if writes then dst :: (if seals then [handleSide s x.hd (dw d.dseal) 0 (16 * d.nch : Nat) .write] else []) else [])
    job := .coll op src.place dst.place bs seals, items := d.nch, outside := true }

/-- RED (R371, R374, R388). -/
def mRed (x : EngArgs) (sel : Bool) : Meaning := .once fun e s => descPlan e s x [handleAny s x.hs (s.ctx.x x.xs) .read] (collOrder 0 sel s x)
def execRed (x : EngArgs) (sel : Bool) (s : State) : Host.Outcome State Fault Refusal := issueWord (mRed x sel) s

/-- BCAST (R371, R374, R388). -/
def mBcast (x : EngArgs) (sel : Bool) : Meaning := .once fun e s => descPlan e s x [] (collOrder 1 sel s x)
def execBcast (x : EngArgs) (sel : Bool) (s : State) : Host.Outcome State Fault Refusal := issueWord (mBcast x sel) s

/-- AGATH (R371, R374, R388). -/
def mAgath (x : EngArgs) (sel : Bool) : Meaning := .once fun e s => descPlan e s x [] (collOrder 2 sel s x)
def execAgath (x : EngArgs) (sel : Bool) (s : State) : Host.Outcome State Fault Refusal := issueWord (mAgath x sel) s

/-! ## Seals (R390, R391) -/

/-- SEALGEN (R371, R374, R390). -/
def mSealgen (x : EngArgs) (tag : Tag) : Meaning :=
  .once fun e s =>
    let n := loWord (s.ctx.x x.xn)
    let src := handleSide s x.hs (s.ctx.x x.xs) 0 n .read
    let dst := handleSide s x.hd (s.ctx.x x.xd) 0 16 .write
    orderPlan e s x.f
      { details := detailIf (n == 0 || n % elemBytes tag != 0) 2 ++
          detailIf ((s.ctx.x x.xd).toNat % 8 != 0) 3 ++ detailIf (decide (11 < tag.code)) 5
        reads := [x.xs, x.xd, x.xn], handles := [x.hs, x.hd], sides := [src, dst], job := .sealgen src.place dst.place n tag, items := 1
        outside := true }
def execSealgen (x : EngArgs) (tag : Tag) (s : State) : Host.Outcome State Fault Refusal := issueWord (mSealgen x tag) s

/-- Bytes that the engine reads for a waiting bundle; what another package does not deliver is uncorrectable (R456). -/
def State.engFetch (s : State) (l n : Nat) : Option Data :=
  s.engRead (s.ctx.remote.filterMap (fun r => match r.answer with
    | some (.data bs bad) => some (r.loc, bs, bad)
    | some _ => some (r.loc, List.replicate r.bytes 0, true)
    | none => if r.lost then some (r.loc, List.replicate r.bytes 0, true) else none)) l n

/-- The first bad word's cause. -/
def badWord (va : DWord) (d : Data) : List Raise :=
  match d.bad with
  | [] => []
  | i :: _ => [{ cause := 0xA1, tval := va + dw i, plain := true }]

/-- SEALCK (R371, R374, R391). -/
def mSealck (hs : HReg) (hd : HReg) (xs : Reg) (xd : Reg) (xn : Reg) (tag : Tag) (mode : Bool) : Meaning :=
  .once fun e s =>
    let a := s.ctx.x xs
    let b := s.ctx.x xd
    let n := (s.ctx.x xn).toNat
    let k := if mode then 2 else 1
    let src := handleSide s hs a 0 (n * k : Nat) .read
    let sl := handleSide s hd b 0 (16 * k : Nat) .read
    let base : Plan := { reads := Machine.xs [xs, xd, xn] ++ [.h hs, .h hd], mem := true }
    let rs := e.operands (detailIf (n == 0 || decide (65536 < n * k) || n % elemBytes tag != 0) 2 ++ detailIf (decide (11 < tag.code)) 5) ++
      src.raises ++ sl.raises
    let pl := (s.ctx.h hs).loc s.die a.toNat
    let ql := (s.ctx.h hd).loc s.die b.toNat
    let va := (s.ctx.h hd).vbase + b
    let asks (l m : Nat) : Plan := { base with holds := [.remote], ask := some (State.request l m (.read l m)) }
    if rs ≠ [] then { base with raises := rs }
    else match s.engFetch pl (n * k), s.engFetch ql (16 * k) with
    | none, _ => asks pl (n * k)
    | _, none => asks ql (16 * k)
    | some p, some q =>
      let bad := badWord ((s.ctx.h hs).vbase + a) p ++ badWord va q
      let ok := if mode then
          ((sealOf tag (p.bytes.take n)).res.toNat + (sealOf tag (p.bytes.drop n)).res.toNat) % (2 ^ 61 - 1) ==
            ((sealRead q.bytes).res.toNat + (sealRead (q.bytes.drop 16)).res.toNat) % (2 ^ 61 - 1)
        else sealOf tag p.bytes == sealRead q.bytes
      { base with
        raises := if bad ≠ [] then bad.take 1 else if ok then [] else [{ cause := if mode then 0xA5 else 0xA4, tval := va, plain := true }]
        effs := [(.imm, fun t => ((t.countPlace src.place 0 (n * k) 0).countPlace sl.place 0 (16 * k) 0).freeFreeze)] }
def execSealck (hs : HReg) (hd : HReg) (xs : Reg) (xd : Reg) (xn : Reg) (tag : Tag) (mode : Bool) (s : State) : Host.Outcome State Fault Refusal :=
  issueWord (mSealck hs hd xs xd xn tag mode) s

/-! ## Experts (R392 to R394) -/

/-- A bind of another package's expert is awaited under this size. -/
def bindKey : Nat := 65

/-- EXBIND (R365, R371, R374, R392). -/
def mExbind (hs : HReg) (xs : Reg) (xd : Reg) (acq : Bool) : Meaning :=
  .once fun e s =>
    let off := s.ctx.x xs
    let sd := handleSide s hs off 0 64 .read
    let l := (s.ctx.h hs).loc s.die off.toNat
    let base : Plan := { reads := Machine.xs [xs] ++ [.h hs], writes := xw xd 3, mem := true }
    let rs := e.operands (detailIf (off.toNat % 64 != 0) 3) ++ sd.raises
    let acquire (s : State) : State := if acq then s.acquireOrder e.scope else s
    let finish (r : DWord × State) : State := (r.2.freeFreeze).launchX 3 xd r.1
    if rs ≠ [] then { base with raises := rs }
    else match s.engFetch l 64 with
    | none => { base with holds := [.remote], ask := some (State.request l 64 (.read l 64)) }
    | some d =>
      let x := if d.bad ≠ [] then none else expertDesc d.bytes
      let here (x : Option ExpertDesc) : Plan := { base with effs := [(.imm, fun t => finish (((acquire t).engCount l 64 0).bind x))] }
      match x with
      | none => here none
      | some y =>
        if y.hpkg = s.pkgId then here x
        else match s.answerFor l bindKey with
        | none => { base with holds := [.remote], ask := some (fun t => if (t.asked l bindKey).isSome then t
            else ((acquire t).awaits l bindKey).send (some y.hpkg) (y.hpkg, l / 64) (.expert 0 d.bytes) (.context t.ctx.ident)) }
        | some (.value v, false) => { base with effs := [(.imm, fun t => finish (v, t.engCount l 64 0))] }
        | some _ => here none
def execExbind (hs : HReg) (xs : Reg) (xd : Reg) (acq : Bool) (s : State) : Host.Outcome State Fault Refusal :=
  issueWord (mExbind hs xs xd acq) s

/-- A command on one entry of this package's table. -/
def entryOrder (e : Env) (s : State) (xs_ : Reg) (f : Compl) (rs : List Raise) (job : Fin 4096 → Job) : Plan :=
  let x := s.ctx.x xs_
  orderPlan e s f
    { raises := rs, details := detailIf (bitsOf x 12 52 != 0) 1, reads := [xs_], job := job (Fin.ofNat 4096 (bitsOf x 0 12)), items := 1
      outside := true }

/-- EXFETCH (R371, R393). -/
def mExfetch (xs : Reg) (f : Compl) : Meaning := .once fun e s => entryOrder e s xs f [] .exfetch
def execExfetch (xs : Reg) (f : Compl) (s : State) : Host.Outcome State Fault Refusal := issueWord (mExfetch xs f) s

/-- EXREL (R366, R371, R374, R393). -/
def mExrel (hs : HReg) (xs : Reg) (f : Compl) : Meaning :=
  .once fun e s =>
    let off := s.ctx.x xs
    let sd := handleSide s hs off 0 64 .read
    orderPlan e s f
      { details := detailIf (off.toNat % 64 != 0) 3, reads := [xs], handles := [hs], sides := [sd], job := .exrel sd.place, items := 1
        outside := true }
def execExrel (hs : HReg) (xs : Reg) (f : Compl) (s : State) : Host.Outcome State Fault Refusal := issueWord (mExrel hs xs f) s

/-- EXPIN (R371, R393). -/
def mExpin (xs : Reg) (pin : Bool) (f : Compl) : Meaning :=
  .once fun e s => entryOrder e s xs f (if s.ctx.csrs.prv then [] else [e.bad 0x0C]) (fun n => .expin n pin)
def execExpin (xs : Reg) (pin : Bool) (f : Compl) (s : State) : Host.Outcome State Fault Refusal := issueWord (mExpin xs pin f) s

/-- YARDDRAIN (R368, R371, R374, R394). -/
def mYarddrain (xs : Reg) (xd : Reg) (xn : Reg) (acq : Bool) : Meaning :=
  .once fun e s =>
    let x := s.ctx.x xs
    let y := s.ctx.x xn
    let a := bitsOf y 0 22
    let n := bitsOf y 32 11
    let sd := sramSide e s (dw a) 0 (16 * n : Nat) true
    { raises := e.operands (detailIf (bitsOf x 16 48 != 0 || bitsOf y 22 10 != 0 || bitsOf y 43 21 != 0) 1 ++
        detailIf (n == 0 || decide (1024 < n)) 2 ++ detailIf (a % 16 != 0) 3 ++ sd.details) ++ sd.raises
      reads := Machine.xs [xs, xn], writes := xw xd 3, mem := true, touches := sd.span
      effs := [(.imm, fun t =>
        let t := if acq then t.acquireOrder e.scope else t
        let r := t.drainYard (bitsOf x 0 16) n
        ((r.2.2.sramWrite a r.1).freeFreeze).launchX 3 xd (dw r.2.1))] }
def execYarddrain (xs : Reg) (xd : Reg) (xn : Reg) (acq : Bool) (s : State) : Host.Outcome State Fault Refusal :=
  issueWord (mYarddrain xs xd xn acq) s

/-! ## Tickets (R375 to R378) -/

/-- The status word (R376). -/
def statusWord (state arv : Nat) (recs : Table DWord) : DWord :=
  dw (state * 2 ^ 60 + arv * 2 ^ 58 + min recs.length 0xFFFFFF * 2 ^ 32 + (match recs with | [] => 0xFFFFFFFF | r :: _ => r.1))
def unknownTicket : DWord := 0x30000000FFFFFFFF

def State.liveCmd (s : State) (q : Fin 2) (n : Word) : Option Cmd := (s.core.queues.get q).cmds.find? (fun c => c.num == n)
/-- What a queue keeps of a ticket (R375). -/
def State.ticketCmd (s : State) (t : DWord) : Option (Cmd ⊕ Done) :=
  let q : Fin 2 := Fin.ofNat 2 (bitsOf t 32 1)
  let n := wd (bitsOf t 0 32)
  let u := s.core.queues.get q
  if 64 ≤ u.age n then none
  else match u.cmds.find? (fun c => c.num == n) with
    | some c => some (.inl c)
    | none => (u.done.find? (fun d => d.num == n)).map .inr
def State.ticketStatus (s : State) (t : DWord) : DWord :=
  match s.ticketCmd t with
  | some (.inl c) => statusWord (if c.active then 1 else 0) 0 c.recs
  | some (.inr d) => statusWord 2 d.arv.val d.recs
  | none => unknownTicket

/-- Detail 7: a malformed ticket, or one of the other half-core's queue. -/
def State.ticketBad (s : State) (t : DWord) : List Nat :=
  detailIf (bitsOf t 33 31 != 0 || (s.core.split && Fin.ofNat 2 (bitsOf t 32 1) != halfIdx s.core.active)) 7

/-- Whether a command of a queue was submitted after another one. -/
def Cmd.after (c b : Cmd) : Bool := seqLe b.num c.num
/-- CWAIT (R371, R375, R377): a command that waits behind a held one of its queue is waited on with it. -/
def mCwait (xs : Reg) (xd : Reg) : Meaning :=
  .once fun e s =>
    let t := s.ctx.x xs
    let live := match s.ticketCmd t with | some (.inl c) => some c | _ => none
    { raises := e.operands (s.ticketBad t), reads := Machine.xs [xs], writes := xw xd 1
      holds := if live.isSome then [.ticket] else []
      closes := live.any (fun c => (s.core.queues.get (Fin.ofNat 2 (bitsOf t 32 1))).cmds.any (fun b =>
        b.held && b.owner == s.ctx.ident && (b.num == c.num || c.after b)))
      effs := [(.smem, State.refreshCache), (.main, State.launchX 1 xd (s.ticketStatus t))] }
def execCwait (xs : Reg) (xd : Reg) (s : State) : Host.Outcome State Fault Refusal := issueWord (mCwait xs xd) s

/-- CFENCE (R371, R377). -/
def mCfence (q : Fin 4) : Meaning :=
  .once fun _ s =>
    let on (k : Nat) : Bool := q.val == 0 || q.val.testBit k
    let mine (k : Fin 2) : List Cmd := if on k.val then (s.core.queues.get k).cmds.filter (fun c => c.owner == s.ctx.ident) else []
    let l := mine 0 ++ mine 1
    { holds := if l = [] then [] else [.cfence], closes := l.any (·.held), effs := [(.smem, State.refreshCache)] }
def execCfence (q : Fin 4) (s : State) : Host.Outcome State Fault Refusal := issueWord (mCfence q) s

/-- CSTAT (R371, R375, R378). -/
def mCstat (xs : Reg) (xd : Reg) (sel : Fin 4) : Meaning :=
  .once fun e s =>
    let t := s.ctx.x xs
    let value (s : State) : DWord :=
      match sel.val with
      | 0 => s.ticketStatus t
      | 1 => match s.ticketCmd t with
        | some (.inl c) => (c.recs.head?.map (·.2)).getD 0
        | some (.inr d) => (d.recs.head?.map (·.2)).getD 0
        | none => 0
      | 2 => match s.ticketCmd t with
        | some (.inr d) => d.result
        | _ => 0
      | _ =>
        let q : Fin 2 := Fin.ofNat 2 (bitsOf t 32 1)
        let n := (s.core.queues.get q).count
        if n = 0 then 0 else ticketOf q n
    { raises := if sel.val = 3 then [] else e.operands (s.ticketBad t), reads := Machine.xs [xs], writes := xw xd 1
      effs := [(.imm, fun u => u.launchX 1 xd (value u))] }
def execCstat (xs : Reg) (xd : Reg) (sel : Fin 4) (s : State) : Host.Outcome State Fault Refusal := issueWord (mCstat xs xd sel) s

end Sys2Proof.Machine
end

