-- ==== Sys2Proof/Machine/EntryMeaning.lean ====
section
/-! DEFINITION. The meaning of each word that may stand in a shelf entry (R81), for the checks of an entry that is written
(R177). -/

namespace Sys2Proof.Machine

/-- The plan-maker of a V, M or C word. -/
def entryMeaning : Instr → Meaning
  | .bundleIssue .. => .once fun _ _ => {}
  | .indexedBundleIssue .. => .once fun _ _ => {}
  | .resultLanding .. => .once fun _ _ => {}
  | .promotionServiceEnd => .once fun _ _ => {}
  | .scalarAlu .. => .once fun _ _ => {}
  | .scalarMul .. => .once fun _ _ => {}
  | .scalarDiv .. => .once fun _ _ => {}
  | .scalarFp .. => .once fun _ _ => {}
  | .scalarLoad .. => .once fun _ _ => {}
  | .scalarStore .. => .once fun _ _ => {}
  | .branch .. => .once fun _ _ => {}
  | .jal .. => .once fun _ _ => {}
  | .jalr .. => .once fun _ _ => {}
  | .lr .. => .once fun _ _ => {}
  | .sc .. => .once fun _ _ => {}
  | .amo .. => .once fun _ _ => {}
  | .amocasW .. => .once fun _ _ => {}
  | .amocasD .. => .once fun _ _ => {}
  | .fence .. => .once fun _ _ => {}
  | .fenceI => .once fun _ _ => {}
  | .ecall => .once fun _ _ => {}
  | .ebreak => .once fun _ _ => {}
  | .csrrw .. => .once fun _ _ => {}
  | .csrrs .. => .once fun _ _ => {}
  | .csrrc .. => .once fun _ _ => {}
  | .csrrwi .. => .once fun _ _ => {}
  | .csrrsi .. => .once fun _ _ => {}
  | .csrrci .. => .once fun _ _ => {}
  | .wait .. => .once fun _ _ => {}
  | .loop .. => .once fun _ _ => {}
  | .jtab .. => .once fun _ _ => {}
  | .yield .. => .once fun _ _ => {}
  | .taskend => .once fun _ _ => {}
  | .shwr .. => .once fun _ _ => {}
  | .shrd .. => .once fun _ _ => {}
  | .shclr .. => .once fun _ _ => {}
  | .shsw .. => .once fun _ _ => {}
  | .shtag .. => .once fun _ _ => {}
  | .shelfSwap => .once fun _ _ => {}
  | .spawn .. => .once fun _ _ => {}
  | .spawng .. => .once fun _ _ => {}
  | .xlate .. => .once fun _ _ => {}
  | .xprobe .. => .once fun _ _ => {}
  | .hrel .. => .once fun _ _ => {}
  | .hinv .. => .once fun _ _ => {}
  | .splnt .. => .once fun _ _ => {}
  | .amoBadd .. => .once fun _ _ => {}
  | .amoTopk .. => .once fun _ _ => {}
  | .fenceS .. => .once fun _ _ => {}
  | .acqp .. => .once fun _ _ => {}
  | .binit .. => .once fun _ _ => {}
  | .barr .. => .once fun _ _ => {}
  | .bwait .. => .once fun _ _ => {}
  | .barw .. => .once fun _ _ => {}
  | .pin .. => .once fun _ _ => {}
  | .unpin .. => .once fun _ _ => {}
  | .prefl2 .. => .once fun _ _ => {}
  | .bmode .. => .once fun _ _ => {}
  | .binset .. => .once fun _ _ => {}
  | .binq .. => .once fun _ _ => {}
  | .strmAdd .. => .once fun _ _ => {}
  | .strmDel .. => .once fun _ _ => {}
  | .trap .. => .once fun _ _ => {}
  | .tret => .once fun _ _ => {}
  | .halt => .once fun _ _ => {}
  | .banksw .. => .once fun _ _ => {}
  | .ctxsave .. => .once fun _ _ => {}
  | .ctxload .. => .once fun _ _ => {}
  | .ctxEngineDone => .once fun _ _ => {}
  | .evpost .. => .once fun _ _ => {}
  | .rdtime .. => .once fun _ _ => {}
  | .vadd d a b m => mVadd d a b m
  | .vaddLit d a b m => mVaddLit d a b m
  | .vsub d a b m => mVsub d a b m
  | .vsubLit d a b m => mVsubLit d a b m
  | .vmul d a b m => mVmul d a b m
  | .vmulLit d a b m => mVmulLit d a b m
  | .vmulh d a b m => mVmulh d a b m
  | .vmulhu d a b m => mVmulhu d a b m
  | .vmadd d a b c m => mVmadd d a b c m
  | .vmaddLit d a b c m => mVmaddLit d a b c m
  | .vaddsat d a b m => mVaddsat d a b m
  | .vsubsat d a b m => mVsubsat d a b m
  | .vaddsatu d a b m => mVaddsatu d a b m
  | .vsubsatu d a b m => mVsubsatu d a b m
  | .vabs d a m => mVabs d a m
  | .vneg d a m => mVneg d a m
  | .vmin d a b m => mVmin d a b m
  | .vminLit d a b m => mVminLit d a b m
  | .vmax d a b m => mVmax d a b m
  | .vmaxLit d a b m => mVmaxLit d a b m
  | .vminu d a b m => mVminu d a b m
  | .vmaxu d a b m => mVmaxu d a b m
  | .vand d a b m => mVand d a b m
  | .vandLit d a b m => mVandLit d a b m
  | .vor d a b m => mVor d a b m
  | .vorLit d a b m => mVorLit d a b m
  | .vxor d a b m => mVxor d a b m
  | .vxorLit d a b m => mVxorLit d a b m
  | .vandn d a b m => mVandn d a b m
  | .vnot d a m => mVnot d a m
  | .vshl d a b m => mVshl d a b m
  | .vshlLit d a b m => mVshlLit d a b m
  | .vshr d a b m => mVshr d a b m
  | .vshrLit d a b m => mVshrLit d a b m
  | .vsra d a b m => mVsra d a b m
  | .vsraLit d a b m => mVsraLit d a b m
  | .vrol d a b m => mVrol d a b m
  | .vror d a b m => mVror d a b m
  | .vclz d a m => mVclz d a m
  | .vpopc d a m => mVpopc d a m
  | .vcmp d a b c m => mVcmp d a b c m
  | .vcmpLit d a b c m => mVcmpLit d a b c m
  | .vcmpu d a b c m => mVcmpu d a b c m
  | .vsel d a b m => mVsel d a b m
  | .vmov d a m => mVmov d a m
  | .vbcast d b t m => mVbcast d b t m
  | .vlaneid d m v => mVlaneid d m v
  | .vfadd d a b m r => mVfadd d a b m r
  | .vfaddLit d a b m r => mVfaddLit d a b m r
  | .vfsub d a b m r => mVfsub d a b m r
  | .vfsubLit d a b m r => mVfsubLit d a b m r
  | .vfmul d a b m r => mVfmul d a b m r
  | .vfmulLit d a b m r => mVfmulLit d a b m r
  | .vfma d a b c m r => mVfma d a b c m r
  | .vfmaLit d a b c m r => mVfmaLit d a b c m r
  | .vfms d a b c m r => mVfms d a b c m r
  | .vfnma d a b c m r => mVfnma d a b c m r
  | .vfnms d a b c m r => mVfnms d a b c m r
  | .vfmin d a b m => mVfmin d a b m
  | .vfmax d a b m => mVfmax d a b m
  | .vfabs d a m => mVfabs d a m
  | .vfneg d a m => mVfneg d a m
  | .vfcmp d a b c m => mVfcmp d a b c m
  | .vfcmpLit d a b c m => mVfcmpLit d a b c m
  | .vfclass d a m => mVfclass d a m
  | .vrcp d a m r => mVrcp d a m r
  | .vrsq d a m r => mVrsq d a m r
  | .vsqrt d a m r => mVsqrt d a m r
  | .vdiv d a b m r => mVdiv d a b m r
  | .vexp2 d a m r => mVexp2 d a m r
  | .vlog2 d a m r => mVlog2 d a m r
  | .vredadd d a m => mVredadd d a m
  | .vredmax d a m => mVredmax d a m
  | .vredmin d a m => mVredmin d a m
  | .vrediadd d a m => mVrediadd d a m
  | .vredimax d a m => mVredimax d a m
  | .vredimin d a m => mVredimin d a m
  | .vcvt d a p t m r => mVcvt d a p t m r
  | .vcvtsat d a p t m r => mVcvtsat d a p t m r
  | .vqnt4 d a b m => mVqnt4 d a b m
  | .vdqnt4 d a p t m => mVdqnt4 d a p t m
  | .vpack d a b m => mVpack d a b m
  | .vunpacklo d a m => mVunpacklo d a m
  | .vunpackhi d a m => mVunpackhi d a m
  | .vperm d a b m => mVperm d a b m
  | .vslide d a b s m => mVslide d a b s m
  | .vslideLit d a b c m => mVslideLit d a b c m
  | .vzip d a b m h => mVzip d a b m h
  | .vunzip d a b m h => mVunzip d a b m h
  | .vld d a k t m => mVld d a k t m
  | .vst s a k m => mVst s a k m
  | .vlds d a k t m => mVlds d a k t m
  | .vsts s a k m => mVsts s a k m
  | .vldg d a k t m => mVldg d a k t m
  | .vstsc s a k m => mVstsc s a k m
  | .nsh d a m v => mNsh d a m v
  | .nshr d a m v => mNshr d a m v
  | .vldx d a b k m h => mVldx d a b k m h
  | .vstx s a b k m h => mVstx s a b k m h
  | .vldxg d a b k m h => mVldxg d a b k m h
  | .vstxs s a b k m h => mVstxs s a b k m h
  | .vamoadd d a b c m => mVamoadd d a b c m
  | .vpush d b => mVpush d b
  | .vpop d b => mVpop d b
  | .vacr d a c m => mVacr d a c m
  | .vacrD d a h c m => mVacrD d a h c m
  | .vacrSt d c m => mVacrSt d c m
  | .vacw d a c m => mVacw d a c m
  | .vacwD d a h c m => mVacwD d a h c m
  | .vtagset d a t m => mVtagset d a t m
  | .vtagrd d a m => mVtagrd d a m
  | .vres d a m => mVres d a m
  | .vresAcc d a c m => mVresAcc d a c m
  | .vmsk d a b f => mVmsk d a b f
  | .vmpopc d a m => mVmpopc d a m
  | .vmfirst d a m => mVmfirst d a m
  | .vmset d b => mVmset d b
  | .vmsetNz d a => mVmsetNz d a
  | .mnop => mMnop
  | .mac l b a r w z => mMac l b a r w z
  | .macz l b a r w z => mMacz l b a r w z
  | .mwin l b a r w z => mMwin l b a r w z
  | .mdrain q p a r v c z => mMdrain q p a r v c z
  | .mdrainz q p a r v c z => mMdrainz q p a r v c z
  | .mlatch l w v => mMlatch l w v
  | .mzero a c => mMzero a c
  | .binWatchdogExpiry => .once fun _ _ => {}
  | .cpy x tag sel => mCpy x tag sel
  | .cpy2d x => mCpy2d x
  | .cpyg hs xs xd xn hint f => mCpyg hs xs xd xn hint f
  | .cpys hd xs xd xn hint f => mCpys hd xs xd xn hint f
  | .cpyl src xs latch gmask tag f => mCpyl src xs latch gmask tag f
  | .cpysh hs xs xd xn gmask f => mCpysh hs xs xd xn gmask f
  | .cpybin src xs xn bin f => mCpybin src xs xn bin f
  | .route x => mRoute x
  | .routec x => mRoutec x
  | .red x sel => mRed x sel
  | .bcast x sel => mBcast x sel
  | .agath x sel => mAgath x sel
  | .sealck hs hd xs xd xn tag mode => mSealck hs hd xs xd xn tag mode
  | .sealgen x tag => mSealgen x tag
  | .exbind hs xs xd acq => mExbind hs xs xd acq
  | .exfetch xs f => mExfetch xs f
  | .exrel hs xs f => mExrel hs xs f
  | .expin xs pin f => mExpin xs pin f
  | .yarddrain xs xd xn acq => mYarddrain xs xd xn acq
  | .cwait xs xd => mCwait xs xd
  | .cfence q => mCfence q
  | .cstat xs xd sel => mCstat xs xd sel
  | .commandStart .. => .once fun _ _ => {}
  | .commandItem .. => .once fun _ _ => {}
  | .commandFinish .. => .once fun _ _ => {}
  | .expertFetchStart .. => .once fun _ _ => {}
  | .expertFetchEnd .. => .once fun _ _ => {}
  | .modeChangeInForce => .once fun _ _ => {}
  | .rendezvous => .once fun _ _ => {}
  | .rdvWatchdogExpiry => .once fun _ _ => {}
  | .asyncCauseTaken => .once fun _ _ => {}
  | .rewind .. => .once fun _ _ => {}
  | .hostQueueConsume => .once fun _ _ => {}
  | .spawnReady .. => .once fun _ _ => {}
  | .schedulerChoice .. => .once fun _ _ => {}
  | .taskStart .. => .once fun _ _ => {}
  | .quantumExpiry .. => .once fun _ _ => {}
  | .contextResume .. => .once fun _ _ => {}
  | .matrixStateSwitch => .once fun _ _ => {}
  | .streamPeriodStart .. => .once fun _ _ => {}
  | .streamBudgetExhausted .. => .once fun _ _ => {}
  | .deviceRegisterWrite .. => .once fun _ _ => {}
  | .stopOfIssue .. => .once fun _ _ => {}
  | .remoteTimeout .. => .once fun _ _ => {}
  | .landingDataArrival .. => .once fun _ _ => {}
  | .scalarMissFill .. => .once fun _ _ => {}
  | .fetchLineArrival .. => .once fun _ _ => {}
  | .pageTableWalk .. => .once fun _ _ => {}
  | .asyncSet .. => .once fun _ _ => {}
  | .asyncPendClear .. => .once fun _ _ => {}
  | .pfackRetry .. => .once fun _ _ => {}
  | .pfackDeliver .. => .once fun _ _ => {}
  | .cmodeWrite .. => .once fun _ _ => {}
  | .atticcfgWrite .. => .once fun _ _ => {}
  | .migrationRequest .. => .once fun _ _ => {}
  | .migrationComplete .. => .once fun _ _ => {}
  | .migrationHoldoffExpiry .. => .once fun _ _ => {}
  | .errorThreshold .. => .once fun _ _ => {}
  | .patrolScrubRead .. => .once fun _ _ => {}
  | .hqtailWrite .. => .once fun _ _ => {}
  | .waylineFlit .. => .once fun _ _ => {}
  | .portDown .. => .once fun _ _ => {}
  | .portUp .. => .once fun _ _ => {}
  | .hostWrite .. => .once fun _ _ => {}
  | .hostRead .. => .once fun _ _ => {}
  | .portRetrain .. => .once fun _ _ => {}
  | .poollimWrite .. => .once fun _ _ => {}
  | .powerGrant .. => .once fun _ _ => {}
  | .wake .. => .once fun _ _ => {}
  | .wakeb .. => .once fun _ _ => {}
  | .captureClear .. => .once fun _ _ => {}
  | .eventDelivery .. => .once fun _ _ => {}
  | .svraise .. => .once fun _ _ => {}
  | .attestationRequest .. => .once fun _ _ => {}
  | .attestationReportDone => .once fun _ _ => {}
  | .reset .. => .once fun _ _ => {}
  | .homeResponseArrival .. => .once fun _ _ => {}
  | .incomingWriteOrInvalidation .. => .once fun _ _ => {}
  | .rootPortLinkTrained .. => .once fun _ _ => {}
  | .rootPortLinkDown .. => .once fun _ _ => {}
  | .homeRequest .. => .once fun _ _ => {}
  | .homeAtomic .. => .once fun _ _ => {}
  | .acqpHomeResolve .. => .once fun _ _ => {}
  | .promotionRequest .. => .once fun _ _ => {}
  | .promotionAnswer .. => .once fun _ _ => {}
  | .routedRowArrival .. => .once fun _ _ => {}
  | .chunkArrival .. => .once fun _ _ => {}

end Sys2Proof.Machine
end

