-- ==== Sys2Proof/Machine/Shelf.lean ====
section
/-! DEFINITION. Shelves (R172 to R186): the checks of an entry, the shelf instructions, and swaps. -/

namespace Sys2Proof.Machine

/-! ## Entries (R81, R172, R177) -/

/-- The latency of a class (R172). -/
def classLat (c : Nat) : Nat := [1, 2, 3, 4, 6, 8, 12, 16].getD c 16

/-- The immediate commands that may not stand in an entry (R373). -/
def notInEntry : Instr → Bool
  | .cwait .. | .cstat .. | .exbind .. | .yarddrain .. => true
  | _ => false
/-- Loads whose landing is not held against the class (R177, R296). -/
def isLandingWord : Instr → Bool
  | .vldx .. | .vldxg .. | .vamoadd .. => true
  | _ => false

/-- A word of an entry under check: the entry word, what decoding it raises, and its plan with the instruction. -/
structure EntryWord where
  at_ : Nat
  cause : Option Nat
  part : Option (Instr × Part)

/-- A word decoded and planned with no state of its own, with a pool that holds every literal it can name (R177: a literal reference is
checked at issue). -/
def checkWord (x : Slot × Nat) : EntryWord :=
  match decodeSlot (slotKind x.1) x.2 with
  | .error c => { at_ := entryWordOf x.1, cause := some c, part := none }
  | .ok i =>
    if notInEntry i then { at_ := entryWordOf x.1, cause := some 0x08, part := none }
    else
      let e : Env := { slot := x.1, word := x.2, shelf := some 1, lb := 0, args := some (0, 0), cls := none, pc := 0,
                       hdr := { Header.reset with lit := 16, grp := 2 }, pool := List.replicate 16 0 }
      let p : Plan := match entryMeaning i with
        | .once f => f e State.reset
        | .lanes f => f e 1 State.reset
      { at_ := entryWordOf x.1, cause := if p.raises.any (fun r => r.cause == 9) then some 0x09 else none
        part := some (i, { env := e, group := some 1, plan := p }) }

/-- The pair with the least cause, the first among equals. -/
def leastCause : List (Nat × Nat) → Option (Nat × Nat)
  | [] => none
  | x :: r => match leastCause r with
    | some y => some (if x.1 ≤ y.1 then x else y)
    | none => some x

/-- For each pair of words, the later one where a test of their plans holds. -/
def laterWords (p : Plan → Plan → Bool) : List (Nat × Plan) → List Nat
  | [] => []
  | x :: r => (r.filterMap (fun y => if p x.2 y.2 then some y.1 else none)) ++ laterWords p r
def sameDest (a b : Plan) : Bool := b.dests.any (fun w => a.dests.contains w)
def sameBank (a b : Plan) : Bool := b.banks.any (fun k => a.banks.contains k)

/-- The least entry word of some. -/
def leastWord : List Nat → Option Nat
  | [] => none
  | x :: r => some (r.foldl min x)

/-- The latency that a word's results ask of its class. -/
def wordLat (i : Instr) (p : Plan) : Nat :=
  match i with
  | .mlatch .. => 4
  | _ => if isLandingWord i then 0 else maxOf (p.writes.map (·.2))

/-- The status word of an entry that is written, 0 where it is accepted, against what the class record holds (R177, R181). -/
def entryStatus (rec_ : Option (Fin 8)) (ws : List Nat) : Nat :=
  let h := ws.headD 0
  if !entryValid h then 0
  else if entryMalformed ws then 5
  else
    let cs := (entrySlots ws).map checkWord
    let parts := cs.filterMap (fun c => c.part.map (fun p => (c.at_, p)))
    let plans := parts.map (fun p => (p.1, p.2.2.plan))
    let causes := cs.filterMap (fun c => c.cause.map (fun k => (k, c.at_))) ++ (laterWords sameDest plans).map (fun w => (5, w))
    match leastCause causes with
    | some c => c.1 * 2 ^ 8 + c.2 * 2 ^ 4 + 3
    | none =>
      match leastWord (laterWords sameBank plans) with
      | some w => w * 2 ^ 4 + 4
      | none =>
        match leastWord (parts.filterMap (fun p => if classLat (entryClass h) < wordLat p.2.1 p.2.2.plan then some p.1 else none)) with
        | some w => w * 2 ^ 4 + 2
        | none => match rec_ with
          | some c => if c.val = entryClass h then 0 else 1
          | none => 0

/-! ## Reading and writing (R176, R181) -/

/-- What a class record holds at an index. -/
def recordAt (t : Table (Fin 8)) (i : Nat) : Option (Fin 8) := (t.find? (fun p => p.1 == i)).map (·.2)
def State.records (s : State) : Records := s.core.mat.records.get s.recIdx
def Matrix.modStandby (g : Group) (f : Shelf → Shelf) (m : Matrix) : Matrix := { m with standby := vmod m.standby g f }
def State.modRecords (f : Records → Records) (s : State) : State :=
  s.modMat (fun m => { m with records := vmod m.records s.recIdx f })
def State.modStandby (g : Group) (f : Shelf → Shelf) (s : State) : State := s.modMat (Matrix.modStandby g f)

/-- An accepted entry written to the standby shelf of a group; a write with VALID sets an empty record (R177). `i` names the records. -/
def Matrix.putEntry (i : Fin 2) (g : Group) (idx : Nat) (ws : List Nat) (m : Matrix) : Matrix :=
  let m := m.modStandby g (Shelf.setEntry idx (ws.map wd))
  if entryValid (ws.headD 0) then
    { m with records := vmod m.records i (fun r => match recordAt r.standby idx with
      | some _ => r
      | none => { r with standby := tinsert idx (Fin.ofNat 8 (entryClass (ws.headD 0))) r.standby }) }
  else m
def State.putEntry (g : Group) (idx : Nat) (ws : List Nat) (s : State) : State := s.modMat (Matrix.putEntry s.recIdx g idx ws)

/-- A pending swap of the issuing core or half-core (R179). -/
def State.swapPending (s : State) : Option SwapWait := s.core.mat.swap.get s.recIdx

/-- CPYSHs of a context in flight. -/
def State.shelfFills (s : State) (owner : Nat) : List (Fin 2 × Cmd) :=
  (([0, 1] : List (Fin 2)).flatMap (fun q => (s.core.queues.get q).cmds.map (fun c => (q, c)))).filter (fun p =>
    (match p.2.job with | .shelf .. => true | _ => false) && p.2.owner == owner)

/-- SHWR (R177, R180, R181, R186). With GMASK 0 rd is 0, also where a swap is pending: R181 gives both that and status 6 first, and the
model tests GMASK first (DESIGN CHOICE, log 94). -/
def mShwr (b : Reg) (a : Reg) (d : Reg) : Meaning :=
  .once fun _ s =>
    let k := s.ctx.x b
    let x (i : Nat) : DWord := if h : a.val + i < 32 then s.ctx.x ⟨a.val + i, h⟩ else 0
    let gm : Byte := BitVec.ofNat 8 (bitsOf k 16 8)
    let idx := bitsOf k 0 9
    let ws := [bitsOf k 32 32] ++ (List.range 3).flatMap (fun i => [loWord (x i), hiWord (x i)]) ++ [loWord (x 3)]
    let bad := bitsOf k 24 8 != 0 || bitsOf k 9 7 != 0 || decide (28 < a.val) || !(groupsOf gm).all s.ownGroup
    let st := if gm = 0 then 0 else if s.swapPending.isSome then 6 else entryStatus (recordAt s.records.standby idx) ws
    let reads := ((List.range 4).filterMap (fun i => if h : a.val + i < 32 then some (⟨a.val + i, h⟩ : Reg) else none))
    let put (s : State) (g : Group) : State :=
      (s.logUndo [.shelf g idx ((s.core.mat.standby.get g).entry idx)]).putEntry g idx ws
    { abPlan (b :: reads) d (dw st) (if st = 0 then [(.main, fun s => (groupsOf gm).foldl put s)] else []) with
      raises := if bad then [atOperand 0x31 k] else [], mat := true }
def execShwr (b : Reg) (a : Reg) (d : Reg) (s : State) : Host.Outcome State Fault Refusal := issueWord (mShwr b a d) s

/-- SHRD (R180, R182, R186). -/
def mShrd (a : Reg) (d : Reg) : Meaning :=
  .once fun _ s =>
    let x := s.ctx.x a
    let g : Group := Fin.ofNat 8 (bitsOf x 12 3)
    let standby := x.getLsbD 15
    let sh := if standby then s.core.mat.standby.get g else s.core.mat.active.get g
    let filling := (s.shelfFills s.ctx.ident).any (fun p => match p.2.job with | .shelf _ gm _ _ _ => gm.getLsbD g.val | _ => false)
    let v := ((sh.entry (bitsOf x 0 9)).getD (bitsOf x 9 3) 0).zeroExtend 64
    { raises := if bitsOf x 16 48 ≠ 0 ∨ !s.ownGroup g then [atOperand 0x31 x] else []
      reads := xs [a], writes := xw d 2, mat := true, holds := if standby && filling then [.shelfFill] else []
      effs := [(.main, State.launchX 2 d v)] }
def execShrd (a : Reg) (d : Reg) (s : State) : Host.Outcome State Fault Refusal := issueWord (mShrd a d) s

/-- SHCLR (R180, R183). -/
def mShclr (d : Reg) : Meaning :=
  .once fun _ s =>
    let pend := s.swapPending.isSome
    { abPlan [] d (if pend then 6 else 0) (if pend then [] else [(.main, fun s =>
        (s.myGroups.foldl (fun s g => s.modStandby g (fun _ => Shelf.reset)) s).modRecords (fun r => { r with standby := [] }))]) with
      closes := true, mat := true, holds := if !pend && s.shelfFills s.ctx.ident != [] then [.shelfFill] else [] }
def execShclr (d : Reg) (s : State) : Host.Outcome State Fault Refusal := issueWord (mShclr d) s

/-! ## Swaps (R178, R179, R184) -/

/-- The shelves of every group of a core or half-core are exchanged, with their tags and class records. -/
def State.swapShelves (i : Fin 2) (s : State) : State :=
  let mine (g : Group) : Bool := !s.core.split || decide (g.val / 4 = i.val)
  s.modMat (fun m => { m with
    active := Vector.ofFn (fun g => if mine g then m.standby.get g else m.active.get g)
    standby := Vector.ofFn (fun g => if mine g then m.active.get g else m.standby.get g)
    records := vmod m.records i (fun r => { active := r.standby, standby := r.active })
    swap := vset m.swap i none })

/-- The context whose matrix-side state the core holds. -/
def State.matOwner (s : State) : Ctx :=
  match s.core.matHolder.get (halfIdx s.core.active) with
  | some b => s.sq.banks.get b
  | none => s.ctx
/-- CPYSHs of the shelves' context submitted before a swap (R178). -/
def State.fillsBefore (s : State) (w : SwapWait) : List (Fin 2 × Cmd) :=
  (s.shelfFills s.matOwner.ident).filter (fun p => seqLe p.2.num (if p.1 = 0 then w.c0 else w.c1))

/-- A swap asked for (R178, R184): of a generation, or due at once; CPYSHs of its own bundle are before it. -/
def State.armSwap (l : Loc) (g : Option DWord) (s : State) : State :=
  s.modMat (fun m => { m with swap := vset m.swap s.recIdx (some
    { loc := l, gen := g, c0 := (s.core.queues.get 0).count, c1 := (s.core.queues.get 1).count, seen := none, asked := false }) })
/-- A swap due at once takes place between this bundle and the next, or waits there for CPYSHs (R178). -/
def State.swapSoon (s : State) : State := if s.shelfFills s.ctx.ident = [] then s.swapShelves s.recIdx else s.armSwap 0 none

/-- SHSW (R178, R179, R180, R184). -/
def mShsw (b : Reg) (a : Reg) (d : Reg) : Meaning :=
  .once fun _ s =>
    let va := s.ctx.x a
    let gen := s.ctx.x b
    let base : Plan := { reads := xs [a, b], writes := xw d 1, closes := true, mat := true }
    let now : Plan := { base with effs := [(.main, State.launchX 1 d 0), (.control, State.swapSoon)] }
    if s.swapPending.isSome then { base with effs := [(.main, State.launchX 1 d 1)] }
    else if a = 0 then now
    else
      let x := s.access va 8 .read false
      let fill : Phase × (State → State) := (.smem, State.tlbFill va x.trans)
      let go (v : DWord) : Plan :=
        if genComplete v gen then { now with mem := true, effs := fill :: now.effs }
        else { base with mem := true, effs := [fill, (.main, State.launchX 1 d 0), (.control, State.armSwap x.loc (some gen))] }
      if x.raises ≠ [] then { base with raises := x.raises, mem := true }
      else if farRegion x.region x.loc then
        match s.answerFor x.loc 8 with
        | some (.value v, false) => go v
        | some (.data bs false, false) => go (dw (leNat bs))
        | some _ => { base with raises := [atVa 0xA1 va], mem := true }
        | none => { base with mem := true, holds := [.remote], ask := some (State.request x.loc 8 (.read x.loc 8)) }
      else if x.region = .device then go (s.devRead (locOff x.loc - 0x7F000000000) 8)
      else go (dw (s.numAt x.loc 8))
def execShsw (b : Reg) (a : Reg) (d : Reg) (s : State) : Host.Outcome State Fault Refusal := issueWord (mShsw b a d) s

/-- Whether a swap is due: its generation has completed (R184). -/
def State.swapReady (s : State) (w : SwapWait) : Bool :=
  match w.gen with
  | none => true
  | some g => w.seen.any (fun v => genComplete v g) || (!(s.away w.loc) && genComplete (dw (s.numAt w.loc 8)) g)
/-- Whether the core must ask another package for the generation. -/
def State.swapAsks (s : State) (w : SwapWait) : Bool := !s.swapReady w && s.away w.loc && !w.asked
/-- Whether the pending swap of the active core or half-core has something to do at a boundary. -/
def State.swapDue (s : State) : Bool := s.swapPending.any (fun w => s.swapReady w || s.swapAsks w)

/-- SHELF_SWAP (R178, R179, R184): the swap takes place; or the core freezes for the CPYSHs before it, whose segment closes; or it asks
for the generation. -/
def execShelfSwap (s : State) : Host.Outcome State Fault Refusal :=
  .next (match s.swapPending with
    | none => s
    | some w =>
      if s.swapReady w then
        let l := s.fillsBefore w
        if l = [] then (if s.sq.hold = some .shelfFill then s.endWait else s).swapShelves s.recIdx
        else (if l.any (fun p => p.2.held && p.2.owner == s.ctx.ident) then s.closeSegment else s).waitCycle .shelfFill
      else if s.swapAsks w then
        (s.modMat (fun m => { m with swap := vset m.swap s.recIdx (some { w with asked := true }) })).sendTo w.loc (.read w.loc 8)
          (.swap s.core.active)
      else s)

/-- SHTAG (R180, R185, R186). -/
def mShtag (b : Reg) (a : Reg) (d : Reg) : Meaning :=
  .once fun _ s =>
    let x := s.ctx.x b
    let gm : Byte := BitVec.ofNat 8 (bitsOf x 0 8)
    let v : DWord := match groupsOf gm with
      | [] => 0
      | g :: _ => ((if x.getLsbD 8 then s.core.mat.standby.get g else s.core.mat.active.get g).tag).zeroExtend 64
    let new := wd (loWord (s.ctx.x a))
    { abPlan [a, b] d v (if a = 0 then [] else [(.main, fun s =>
        (groupsOf gm).foldl (fun s g => s.modStandby g (fun sh => { sh with tag := new })) s)]) with
      raises := if bitsOf x 9 55 ≠ 0 ∨ !(groupsOf gm).all s.ownGroup then [atOperand 0x31 x] else [], mat := true }
def execShtag (b : Reg) (a : Reg) (d : Reg) (s : State) : Host.Outcome State Fault Refusal := issueWord (mShtag b a d) s

end Sys2Proof.Machine
end

