-- ==== Sys2Proof/Machine/EngineItem.lean ====
section
/-! DEFINITION. What the engines do with one item of a command (R339 to R342, R379 to R394): copies, fills, seals, routing and
combining, collectives, and the expert commands. -/

namespace Sys2Proof.Machine

/-! ## Commands -/

/-- What handling an item comes to: nothing yet; a request to another package, for a location or of a package's home; or a step
done. -/
inductive ItemStep where
  | waits
  | asks (l : Loc) (n : Nat) (o : Out) (pkg : Option Nat := none)
  | did (c : Cmd) (s : State)

/-- An item is done, or has failed with a record. -/
def Cmd.closeItem (r : DWord) (c : Cmd) : Cmd :=
  { c with recs := tset 0 c.recs c.next r, next := c.next + 1, far := [], lost := false, refused := false, reply := none }

/-- A read by the engine: what follows from the data, or what follows where the path is unreachable. -/
def Cmd.readAt (c : Cmd) (s : State) (l n : Nat) (f : Data → ItemStep) (lost : ItemStep) : ItemStep :=
  match s.engRead c.far l n with
  | some d => f d
  | none => if c.lost then lost else .asks l n (.read l n)
def Cmd.read (c : Cmd) (s : State) (p : Place) (off : Int) (n : Nat) (f : Data → ItemStep) (lost : ItemStep) : ItemStep :=
  match s.readPlace c.far p off n with
  | some d => f d
  | none => if c.lost then lost else .asks (placeLoc s.die p off) n (.read (placeLoc s.die p off) n)
def Cmd.readAll (c : Cmd) (s : State) (p : Place) : List (Int × Nat) → (List Data → ItemStep) → ItemStep → ItemStep
  | [], f, _ => f []
  | (o, n) :: r, f, lost => c.read s p o n (fun d => c.readAll s p r (fun ds => f (d :: ds)) lost) lost

/-- The item fails with a reason and writes nothing. -/
def Cmd.failItem (reason : Nat) (s : State) (c : Cmd) : ItemStep := .did (c.closeItem (s.failure reason)) s
/-- Reason 0x03 where a word was uncorrectable. -/
def readReason (s : State) (bad : Bool) : DWord := if bad then s.failure 3 else 0

/-! ## Copies (R379 to R381) -/

/-- The pieces of item i of a copy: source offset, destination offset, bytes. -/
def copyPieces (rows rb : Nat) (ss ds : Int) (i : Nat) : List (Int × Int × Nat) :=
  let total := rows * rb
  let a := 4096 * i
  let b := min (a + 4096) total
  if rb = 0 ∨ b ≤ a then []
  else (List.range ((b - 1) / rb - a / rb + 1)).map (fun j =>
    let r := a / rb + j
    let lo := max a (r * rb)
    let hi := min b ((r + 1) * rb)
    ((r : Int) * ss + (lo - r * rb : Nat), (r : Int) * ds + (lo - r * rb : Nat), hi - lo))

def Cmd.stepCopy (c : Cmd) (s : State) (src dst : Place) (rows rb : Nat) (ss ds : Int) (hint : Fin 4) : ItemStep :=
  let ps := copyPieces rows rb ss ds c.next
  c.readAll s src (ps.map (fun p => (p.1, p.2.2))) (fun datas =>
    let t := ps.foldl (fun t p => t.countPlace src p.1 p.2.2 hint) s
    let t := (ps.zip datas).foldl (fun t x => t.writePlace dst x.1.2.1 x.2 hint c.scope) t
    .did (c.closeItem (readReason s (datas.any (·.bad ≠ [])))) t) (c.failItem 4 s)

/-- A sealed CPY (R379). -/
def Cmd.stepSealed (c : Cmd) (s : State) (src dst : Place) (n : Nat) (hint : Fin 4) (tag : Tag) : ItemStep :=
  c.readAll s src [(0, n), ((n : Int), 16)] (fun datas =>
    let pay := datas.headD { bytes := [], bad := [] }
    let sl := datas.getLastD { bytes := [], bad := [] }
    let t := (s.countPlace src 0 n hint).countPlace src n 16 hint
    if pay.bad ≠ [] ∨ sl.bad ≠ [] then .did (c.closeItem (s.failure 3)) t
    else if sealOf tag pay.bytes = sealRead sl.bytes then
      .did (c.closeItem 0) ((t.writePlace dst 0 pay hint c.scope).writePlace dst n sl hint c.scope)
    else
      let r := record 0xA4 s.pkgId s.die s.pkgId s.die 0
      .did (c.closeItem r) (t.engineEvent s.dieFin 0xA4 r 0 0 0)) (c.failItem 4 s)

/-- Whether n bytes at an offset of a handle's page leave it. -/
def leavesPage (p : Place) (off n : Nat) : Bool :=
  match p with
  | .page h o => decide (o + off + n > pageBytes h.size)
  | .sram _ => false

/-- A row of a gather; `arr` holds the indices plus one. -/
def Cmd.stepGather (c : Cmd) (s : State) (src : Place) (rw dst : Nat) (hint : Fin 4) : ItemStep :=
  let ix := tget 0 c.arr c.next
  let row := 4 * rw
  let put (d : Data) (t : State) : State := t.writePlace (.sram dst) (c.next * row : Nat) d hint
  if ix = 0 then c.failItem 3 s
  else if ix = 2 ^ 32 then .did (c.closeItem 0) (put { bytes := List.replicate row 0, bad := [] } s)
  else
    let off := (ix - 1) * row
    if leavesPage src off row then c.failItem 4 s
    else c.read s src off row (fun d => .did (c.closeItem (readReason s (d.bad ≠ []))) (put d (s.countPlace src off row hint))) (c.failItem 4 s)

def Cmd.stepScatter (c : Cmd) (s : State) (dst : Place) (rw src : Nat) (hint : Fin 4) : ItemStep :=
  let ix := tget 0 c.arr c.next
  let row := 4 * rw
  if ix = 0 then c.failItem 3 s
  else if ix = 2 ^ 32 then .did (c.closeItem 0) s
  else
    let off := (ix - 1) * row
    if leavesPage dst off row then c.failItem 4 s
    else c.read s (.sram src) (c.next * row : Nat) row (fun d =>
      .did (c.closeItem (readReason s (d.bad ≠ []))) (s.writePlace dst off d hint c.scope)) (c.failItem 4 s)

/-! ## Fills (R342, R382 to R384, R411) -/

/-- The bank of a context, by its number. -/
def State.bankOf (s : State) (owner : Nat) : Option (Half × Fin 2) :=
  (s.allBanks.find? (fun p => p.2.2.ident == owner)).map (fun p => (p.1, p.2.1))
/-- Whether the core holds the matrix-side state of a bank's context. -/
def State.bankHolds (s : State) (x : Half × Fin 2) : Bool :=
  match s.core.matHolder.get (halfIdx x.1) with
  | some b => b == x.2
  | none => true
/-- A change of a saved matrix-side state; one that is not there starts from R194. -/
def modSaved (h : Half) (b : Fin 2) (f : SavedMatrix → SavedMatrix) (l : List (Half × Fin 2 × SavedMatrix)) : List (Half × Fin 2 × SavedMatrix) :=
  if l.any (fun x => x.1 == h && x.2.1 == b) then l.map (fun x => if x.1 == h && x.2.1 == b then (h, b, f x.2.2) else x)
  else l ++ [(h, b, f SavedMatrix.reset)]
/-- A change of the matrix-side state of a context, in the core, as the engine has saved it, or parked with it: what its commands fill
is its own wherever it is held (R342, R411). -/
def State.modMatOf (owner : Nat) (held : Matrix → Matrix) (saved : SavedMatrix → SavedMatrix) (s : State) : State :=
  match s.bankOf owner with
  | some x =>
    if s.bankHolds x then s.modMat held
    else s.modCore (fun k => { k with matSaved := modSaved x.1 x.2 saved k.matSaved })
  | none => s.modPkg (fun p => { p with parkedCtx := p.parkedCtx.map (fun y =>
      if y.ctx.ident = owner then { y with mat := some (saved (y.mat.getD SavedMatrix.reset)) } else y) })
/-- That state. -/
def State.matOf (s : State) (owner : Nat) : Matrix :=
  match s.bankOf owner with
  | some x =>
    if s.bankHolds x then s.core.mat
    else match s.core.matSaved.find? (fun y => y.1 == x.1 && y.2.1 == x.2) with
      | some y => y.2.2.mat
      | none => Matrix.reset
  | none => match s.pkg.parkedCtx.find? (fun y => y.ctx.ident == owner) with
    | some y => (y.mat.getD SavedMatrix.reset).mat
    | none => Matrix.reset
/-- A change of the matrix alone. -/
def State.fillMat (owner : Nat) (f : Matrix → Matrix) (s : State) : State :=
  s.modMatOf owner f (fun x => { x with mat := f x.mat })

/-- The eight rows of a latch as they stand, for the log of an open segment (R436). -/
def State.latchUndo (s : State) (g : Group) (l : Fin 4) : List Undo :=
  let k := s.core.mat.latch g l
  (List.finRange 8).map (fun r => .latchRow g l r (k.rows.get r) k.tag k.wb)

def Cmd.stepLatch (c : Cmd) (s : State) (src : Place) (l : Fin 4) (gmask : Byte) (tag : Tag) : ItemStep :=
  let gs := groupsOf gmask
  c.readAll s src ((List.range gs.length).map (fun i => (((1024 * i : Nat) : Int), 1024))) (fun datas =>
    let t := s.countPlace src 0 (1024 * gs.length) 0
    let fill (t : State) (x : Group × Data) : State :=
      let t := if c.owner = t.ctx.ident then t.logUndo (t.latchUndo x.1 l) else t
      t.fillMat c.owner (fun m => m.modLatch x.1 l (fun _ =>
        { rows := Vector.ofFn (fun r => dataOf (x.2.bytes.drop (128 * r.val))), tag := if x.2.bad ≠ [] then .poison else tag, wb := 0 }))
    .did (c.closeItem (readReason s (datas.any (·.bad ≠ [])))) (t.asHalf c.half (fun t => (gs.zip datas).foldl fill t)))
    (c.failItem 4 s)

/-- What an entry of a shelf fill comes to: its group, index, status (0 accepted) and whether a word of it was uncorrectable. -/
def shelfPut (i : Fin 2) (m : Matrix) (x : (Group × Nat) × Data) : Matrix × (Nat × Bool) :=
  let ws := (pieces 4 8 x.2.bytes).map leNat
  let none_ := m.modStandby x.1.1 (Shelf.setEntry x.1.2 (List.replicate 8 0))
  if x.2.bad ≠ [] then (none_, (0, true))
  else
    let st := entryStatus (recordAt (m.records.get i).standby x.1.2) ws
    if st = 0 then (m.putEntry i x.1.1 x.1.2 ws, (0, false)) else (none_, (st, false))

/-- The result word of a shelf fill; a count of 1,024 and more does not fit its field, which takes a free value (log 6). -/
def shelfResult (draw : Nat) (refused : List ((Group × Nat) × Nat)) : DWord :=
  let n := refused.length
  dw ((if n < 1024 then n else bitsOf (Config.freeWord draw) 0 10) + (match refused with
    | [] => 0
    | ((g, i), st) :: _ => i * 2 ^ 16 + g.val * 2 ^ 25 + st % 16 * 2 ^ 28))

def Cmd.stepShelf (c : Cmd) (s : State) (src : Place) (gmask : Byte) (first count : Nat) (tag : Word) : ItemStep :=
  let keys : List (Group × Nat) := (groupsOf gmask).flatMap (fun g => (List.range count).map (fun i => (g, first + i)))
  c.readAll s src (keys.map (fun k => (((16384 * k.1.val + 32 * k.2 : Nat) : Int), 32))) (fun datas =>
    let i : Fin 2 := if s.core.split then halfIdx c.half else 0
    let step (acc : Matrix × List ((Group × Nat) × Nat) × Bool) (x : (Group × Nat) × Data) : Matrix × List ((Group × Nat) × Nat) × Bool :=
      let r := shelfPut i acc.1 x
      (r.1, if r.2.1 = 0 then acc.2.1 else acc.2.1 ++ [(x.1, r.2.1)], acc.2.2 || r.2.2)
    let all (m : Matrix) : Matrix × List ((Group × Nat) × Nat) × Bool :=
      let r := (keys.zip datas).foldl step (m, [], false)
      ((groupsOf gmask).foldl (fun m g => m.modStandby g (fun sh => { sh with tag := tag })) r.1, r.2)
    let t := keys.foldl (fun t k => t.countPlace src (16384 * k.1.val + 32 * k.2 : Nat) 32 0) s
    let r := (all (s.matOf c.owner)).2
    .did { (c.closeItem (readReason s r.2)) with result := shelfResult s.fresh r.1 } (t.fillMat c.owner (fun m => (all m).1)).drawn)
    (c.failItem 4 s)

/-- Bytes of a bin that pops of its owner's open segment have freed (R434). -/
def State.freedBin (s : State) (owner : Nat) (b : MReg) : Nat :=
  (s.allBanks.map (fun p => match p.2.2.seg with | some g => if p.2.2.ident = owner then g.freed.get b else 0 | none => 0)).sum
/-- A push into a bin that the engine has saved: its bytes are kept with it. -/
def SavedMatrix.binPush (b : MReg) (bs : List Byte) (x : SavedMatrix) : SavedMatrix :=
  let k := x.mat.bins.get b
  let at_ := bs.zipIdx.map (fun p => (k.tailAddr p.2, p.1))
  { x with mat := { x.mat with bins := vmod x.mat.bins b (fun k => ({ k with tail := (k.tail + bs.length) % k.cap } : Bin).fill bs.length) }
           bytes := x.bytes.filter (fun p => !at_.any (fun y => y.1 == p.1)) ++ at_
           bad := x.bad.filter (fun w => !at_.any (fun y => y.1 / 4 * 4 == w)) }
/-- A push by an engine into a bin of a context, with the words among the bytes that are uncorrectable. -/
def State.fillBin (owner : Nat) (b : MReg) (d : Data) (s : State) : State :=
  let bad := d.bad.map (fun i => ((s.matOf owner).bins.get b).tailAddr i / 4 * 4)
  match s.bankOf owner with
  | some x =>
    if s.bankHolds x then
      (s.binPush b d.bytes).modCore (fun k => { k with sramBad := distinct (k.sramBad ++ bad) })
    else s.modMatOf owner id (fun y => let y := y.binPush b d.bytes; { y with bad := distinct (y.bad ++ bad) })
  | none => s.modMatOf owner id (fun y => let y := y.binPush b d.bytes; { y with bad := distinct (y.bad ++ bad) })

/-- One 128 B unit of a bin fill. -/
def Cmd.stepBin (c : Cmd) (s : State) (src : Place) (b : MReg) (bytes : Nat) : ItemStep :=
  let k := (s.matOf c.owner).bins.get b
  if k.cap < k.occ + s.freedBin c.owner b + 128 then .waits
  else c.read s src c.moved 128 (fun d =>
    let t := (s.countPlace src c.moved 128 0).fillBin c.owner b d
    let c := { c with moved := c.moved + 128, far := [], recs := if d.bad = [] then c.recs else tset 0 c.recs 0 (s.failure 3) }
    .did (if c.moved < bytes then c else { c with next := 1 }) t) (c.failItem 4 s)

/-! ## SEALGEN and the expert commands (R390, R393) -/

def Cmd.stepSealgen (c : Cmd) (s : State) (src dst : Place) (n : Nat) (tag : Tag) : ItemStep :=
  c.read s src 0 n (fun d =>
    let t := s.countPlace src 0 n 0
    if d.bad ≠ [] then .did (c.closeItem (s.failure 3)) t
    else .did (c.closeItem 0) (t.writePlace dst 0 { bytes := sealBytes (sealOf tag d.bytes), bad := [] } 0 c.scope)) (c.failItem 4 s)

/-- Why a fetch of an entry failed. -/
def State.fetchReason (s : State) (x : Entry) : Nat :=
  let src := cellarBase + x.caddr % 2 ^ 45
  if !x.flash && s.region false src == .cellar && s.cellarUp (x.caddr % 2 ^ 45) && s.badRange src x.size then 3 else 4

def Cmd.stepExfetch (c : Cmd) (s : State) (e : Fin 4096) : ItemStep :=
  match s.ertAt e with
  | none => c.failItem 4 s
  | some l =>
    let x := s.ert l
    let begun := { c with arr := tset 0 c.arr 0 1 }
    if x.state = 2 then .did (c.closeItem 0) s
    else if tget 0 c.arr 0 = 0 then .did begun (s.startFetch e)
    else if x.state = 0 ∧ x.fault then c.failItem (s.fetchReason x) s
    else if x.state = 0 then .did begun (s.startFetch e)
    else .waits

/-- EXREL: at this package's table, or at the expert's home, whose answer 2 tells that rows are parked (R366). -/
def Cmd.stepExrel (c : Cmd) (s : State) (tab : Place) : ItemStep :=
  c.read s tab 0 64 (fun d =>
    if d.bad ≠ [] then c.failItem 3 s
    else match expertDesc d.bytes with
    | none => c.failItem 4 s
    | some x =>
      if x.hpkg ≠ s.pkgId then
        match c.reply with
        | some (some v) =>
          if v = 0 then .did (c.closeItem 0) s
          else if v = 2 then .did { c with reply := none } s
          else c.failItem 4 s
        | some none => c.failItem 3 s
        | none =>
          if c.refused then c.failItem 5 s
          else if c.lost then c.failItem 4 s
          else .asks (placeLoc s.die tab 0) bindKey (.expert 1 d.bytes) (some x.hpkg)
      else match s.ertAt x.entry with
        | none => c.failItem 4 s
        | some l =>
          if (s.ert l).parked ≠ 0 then .waits
          else
            let r := (s.countPlace tab 0 64 0).unbind x l
            .did (c.closeItem (if r.1 then 0 else s.failure 4)) r.2) (c.failItem 4 s)

def Cmd.stepExpin (c : Cmd) (s : State) (e : Fin 4096) (pin : Bool) : ItemStep :=
  match s.ertAt e with
  | none => c.failItem 4 s
  | some _ => .did (c.closeItem 0) (s.modErt e (Entry.setPin pin))

end Sys2Proof.Machine
end

