-- ==== Sys2Proof/Machine/EngineRoute.lean ====
section
/-! DEFINITION. Routing and combining (R354 to R361, R369, R370, R385 to R387): choices and claims, waybills and caravans, the arrival
of routed rows, and the combination of a token. -/

namespace Sys2Proof.Machine

/-! ## Rows as sent (R354, R360) -/

/-- The elements of an FP4B row: element words first, then the scale word of each block. -/
def rowFp4 (bs : List Byte) : List Num :=
  let n := bs.length
  let word (o : Nat) : Nat := leNat ((bs.drop o).take 4)
  (List.range (n / 8)).flatMap (fun b => (List.range 8).map (fun k => (blockElem (word (4 * b)) (word (n / 2 + 4 * b)) k).1))
/-- The values of a row under its tag. -/
def rowElems (t : Tag) (bs : List Byte) : List Num := if t = .fp4b then rowFp4 bs else payloadElems t bs

/-- Quantise on send: the row, and whether a block met a non-finite input or saturated its scale. -/
def quantRow (t : Tag) (band : Nat) (bs : List Byte) : List Byte × Bool × Bool :=
  let k := t.width / 8
  let es := (pieces k (bs.length / k) bs).map (fun x => (Fmt.ofTag t).decode (leNat x))
  let blocks := (List.range (es.length / 8)).map (fun b => quantBlock ((es.drop (8 * b)).take 8) (Fmt.bf16.decode band))
  (blocks.flatMap (fun q => leBytes 4 q.1) ++ blocks.flatMap (fun q => leBytes 4 (q.2.1 + band * 2 ^ 16)),
   blocks.any (fun q => q.2.2 &&& fQNF != 0), blocks.any (fun q => q.2.2 &&& fQSAT != 0))

/-- Whether a source row fits an expert (R356, R360, R386). -/
def rowFits (x : ExpertDesc) (t : Tag) (bytes : Nat) : Bool :=
  if x.q4 then (t == .fp32 || t == .bf16 || t == .fp16) && bytes / (t.width / 8) % 8 == 0 && bytes / (t.width / 8) == x.rowBytes
  else t == x.tag && bytes == x.rowBytes

/-! ## Arrival of a row (R361, R365) -/

/-- A row is checked against its waybill and written; the record of its item. A row that lands in a slot stands for what the slot held
before. -/
def State.rowArrives (d : Fin 8) (w : RoutedRow) (s : State) : DWord × State :=
  let sdie := if w.spkg.toNat = s.pkgId then s.die else 0
  if s.pkg.bound.contains (BitVec.ofNat 12 w.entry.val, w.layer.toNat) then (record 4 0 0 s.pkgId d.val 0, s)
  else match s.rowLoc w.plist w.rowBytes w.slot.val with
  | none => (record 4 0 0 s.pkgId d.val 0, s)
  | some l =>
    let r := residues (rowElems w.tag w.row)
    if w.row.length = w.rowBytes ∧ r.1 = w.res.toNat ∧ r.2.2 = w.nnf.toNat then
      let at_ := w.map + w.slot.val / 8
      let s := s.engWrite l { bytes := w.row, bad := [] } 0 false
      let s := s.engWrite at_ { bytes := [s.byteAt at_ ||| BitVec.ofNat 8 (2 ^ (w.slot.val % 8))], bad := [] } 0 false
      let same (x : YardRec) : Bool := x.layer == w.layer.toNat && x.expert == w.expert.toNat && x.slot == w.slot.val
      (0, s.modPkg (fun p => { p with landed := p.landed.filter (fun x => !same x) ++
        [{ layer := w.layer.toNat, expert := w.expert.toNat, slot := w.slot.val, token := w.token.toNat, rank := w.rank.val,
           entry := w.entry, combine := w.combine }] }))
    else
      let rec_ := record 0xA4 w.spkg.toNat sdie s.pkgId d.val 0
      (rec_, (s.engWrite l { bytes := List.replicate w.rowBytes 0, bad := [] } 0 false).engineEvent d 0xA4 rec_ 0 0 0)

/-- The key of `arr` that counts rows whose record is still to come; those of the result's counts are the four before it. -/
def rowsOut : Nat := 20

/-- The record of a row reaches its command: a failed one takes its combine entry to STATE 3. -/
def Cmd.rowDone (item : Nat) (r : DWord) (c : Cmd) : Cmd :=
  { c with arr := tset 0 c.arr rowsOut (tget 0 c.arr rowsOut - 1), recs := if r = 0 then c.recs else tset 0 c.recs item r }
def State.rowAnswered (q : Fin 2) (n : Word) (item : Nat) (r : DWord) (combine : Loc) (s : State) : State :=
  (if r = 0 then s else s.failCombine combine).modCmd q n (Cmd.rowDone item r)

/-! ## Choices (R356, R386) -/

/-- Entry r of a top-k record: expert id and score. -/
def choice (rc : List Byte) (r : Nat) : Nat × Nat :=
  let v := leNat ((rc.drop (8 * r)).take 8)
  (fld v 32 32, fld v 0 16)

/-- What came of a choice: STATE and SLOT of its combine entry, held in `arr` under its rank. -/
def outcome (st slot : Nat) : Nat := st + 16 * slot
def successes (arr : Table Nat) : Nat := ((List.range 8).filter (fun r => tget 0 arr r % 16 == 1)).length
/-- The next rank to try, if any. -/
def nextRank (d : RouteDesc) (rc : List Byte) (arr : Table Nat) : Option Nat :=
  if d.t ≤ successes arr then none
  else (List.range d.k).find? (fun r => (choice rc r).1 != 0xFFFFFFFF && tget 0 arr r == 0)

/-- The combine slot of a token, and how it counts. -/
def combineSlot (d : RouteDesc) (rc : List Byte) (arr : Table Nat) : List Byte :=
  let word (r : Nat) : Nat :=
    let v := tget 0 arr r
    if v = 0 then 0 else v % 16 * 2 ^ 60 + v / 16 % 4096 * 2 ^ 32 + (choice rc r).1
  let drop := successes arr = 0
  (List.range 8).flatMap (fun r => leBytes 8 (if r = 0 ∧ drop then 6 * 2 ^ 60 else if d.k ≤ r then 0 else word r))
/-- The slot of a token whose source row is uncorrectable. -/
def badSlot (d : RouteDesc) (rc : List Byte) : Option Nat × List Byte :=
  let first := (List.range d.k).find? (fun r => (choice rc r).1 != 0xFFFFFFFF)
  (first, (List.range 8).flatMap (fun r => leBytes 8 (match first with
    | some f => if r = f then 3 * 2 ^ 60 + (choice rc r).1 else 0
    | none => if r = 0 then 6 * 2 ^ 60 else 0)))

def countUp (k : Nat) (t : Table Nat) : Table Nat := tset 0 t k (tget 0 t k + 1)
/-- The result word of a ROUTE. -/
def routeResult (arr : Table Nat) : DWord :=
  dw (((List.range 4).map (fun i => min (tget 0 arr (16 + i)) 0xFFFF * 2 ^ (16 * i))).sum)

/-! ### Caravans (R359) -/

/-- Rows that leave for one destination, and those that stay. -/
def caravan (last : Bool) (dest : Nat × Fin 8) (l : List (Nat × Fin 8 × RoutedRow)) :
    List (Nat × Fin 8 × RoutedRow) × List (Nat × Fin 8 × RoutedRow) :=
  let mine := l.filter (fun x => (x.1, x.2.1) == dest)
  let n := if last then mine.length else mine.length / 64 * 64
  (mine.take n, mine.drop n)
/-- A waybill as it travels (R358). -/
def waybillBytes (w : RoutedRow) : List Byte :=
  leBytes 8 (w.token.toNat + w.srow.toNat * 2 ^ 32) ++
  leBytes 8 (w.expert.toNat + w.layer.toNat * 2 ^ 32 + w.gate.toNat * 2 ^ 48) ++
  leBytes 8 (w.spkg.toNat + w.rank.val * 2 ^ 17 + w.qsat.toNat * 2 ^ 20 + w.qnf.toNat * 2 ^ 21 + w.slot.val * 2 ^ 22 + w.nnf.toNat * 2 ^ 48) ++
  leBytes 8 w.res.toNat
/-- Caravans that are full leave; all of them once the last waybill is formed. -/
def depart (last : Bool) (c : Cmd) (s : State) : Cmd × State :=
  let dests := distinct (c.forming.map (fun x => (x.1, x.2.1)))
  let parts := dests.map (fun d => caravan last d c.forming)
  let send (s : State) (x : Nat × Fin 8 × RoutedRow) : State :=
    let w := x.2.2
    if x.1 = s.pkgId then s.modPkg (fun p => { p with rows := p.rows ++ [(x.2.1, w)] })
    else s.send (some x.1) (x.1, w.plist / 64) (.waybill x.1 x.2.1 (waybillBytes w) w.row w.tag w.rowBytes w.plist w.map w.entry)
      (.command w.q w.num (some w.item))
  ({ c with forming := parts.flatMap (·.2) }, (parts.flatMap (·.1)).foldl send s)

/-! ### A choice is tried -/

/-- A choice with its outcome and, where its item failed, the reason. -/
def Cmd.tried (i r st slot reason : Nat) (s : State) (c : Cmd) : Cmd :=
  let arr := tset 0 c.arr r (outcome st slot)
  { c with arr := if st = 2 then countUp 19 arr else arr, reply := none, lost := false, refused := false,
           recs := if reason = 0 then c.recs else tset 0 c.recs (8 * i + r) (s.failure reason) }

/-- A claimed row's waybill and row (R358). -/
def Cmd.waybill (q : Fin 2) (c : Cmd) (s : State) (d : RouteDesc) (dst : Place) (x : ExpertDesc) (i r slot gate : Nat) (row : List Byte) : RoutedRow :=
  let sent := if x.q4 then quantRow d.srcTag x.band row else (row, false, false)
  let v := residues (rowElems x.tag sent.1)
  { token := wd (d.tok0 + i), srow := wd i, expert := wd x.expert, layer := BitVec.ofNat 16 d.layer, gate := BitVec.ofNat 16 gate,
    spkg := BitVec.ofNat 17 s.pkgId, rank := Fin.ofNat 8 r, qnf := sent.2.1, qsat := sent.2.2, slot := Fin.ofNat 1024 slot,
    nnf := BitVec.ofNat 16 v.2.2, res := BitVec.ofNat 61 v.1, row := sent.1, tag := x.tag, rowBytes := x.rowBytes, plist := x.plist,
    map := x.map, entry := x.entry, combine := placeLoc s.die dst (64 * i + 8 * r : Nat), q := q, num := c.num, item := 8 * i + r }

/-- A claim has been answered: bit 32 of the answer tells that the pool of the row's home is empty (R356, log 11). -/
def Cmd.claimed (q : Fin 2) (c : Cmd) (s : State) (d : RouteDesc) (dst : Place) (x : ExpertDesc) (i r gate : Nat) (row : List Byte)
    (v : DWord) : ItemStep :=
  let slot := bitsOf v 0 32
  if slot = 0xFFFFFFFF then .did (c.tried i r 2 0 0 s) s
  else if v.getLsbD 32 then .did (c.tried i r 2 slot 0 s) s
  else
    let c := c.tried i r 1 slot 0 s
    .did { c with forming := c.forming ++ [(x.hpkg, x.hdie, c.waybill q s d dst x i r slot gate row)], arr := countUp rowsOut c.arr } s

/-- The claim on an expert's counter (R298, R356, R362): at its home, here or in another package. -/
def Cmd.claim (q : Fin 2) (c : Cmd) (s : State) (d : RouteDesc) (dst : Place) (x : ExpertDesc) (i r gate : Nat) (row : List Byte) : ItemStep :=
  match s.region true x.cnt with
  | .hbm =>
    if s.badLine x.cnt then .did (c.tried i r 3 0 3 s) s
    else
      let a := (s.engCount x.cnt 4 0).claimAt (wd x.cap) x.hdie x.plist x.rowBytes x.cnt
      c.claimed q a.2 d dst x i r gate row a.1
  | .remote =>
    match c.reply with
    | some (some v) => c.claimed q s d dst x i r gate row v
    | some none => .did (c.tried i r 3 0 3 s) s
    | none =>
      if c.refused then .did (c.tried i r 3 0 5 s) s
      else if c.lost then .did (c.tried i r 3 0 4 s) s
      else .asks x.cnt 4 (.atomic (.claim (wd x.cap) x.hdie x.plist x.rowBytes) x.cnt c.scope)
  | _ => .did (c.tried i r 3 0 4 s) s

/-- Where the descriptor of an expert stands in the page of its handle, if it lies in it. -/
def descOff (tab : HandleReg) (ebase etOff e : Nat) : Option Nat :=
  let o := etOff + 64 * (e - ebase)
  if e < ebase ∨ o + 64 > pageBytes tab.size then none else some o

def Cmd.tryRank (q : Fin 2) (c : Cmd) (s : State) (d : RouteDesc) (dst : Place) (tab : HandleReg) (i r : Nat) (rc row : List Byte) : ItemStep :=
  let e := choice rc r
  match descOff tab d.ebase d.etOff e.1 with
  | none => .did (c.tried i r 3 0 4 s) s
  | some o =>
    c.read s (.page tab 0) o 64 (fun x =>
      let t := s.countPlace (.page tab 0) o 64 0
      if x.bad ≠ [] then .did (c.tried i r 3 0 3 s) t
      else match expertDesc x.bytes with
        | none => .did (c.tried i r 3 0 4 s) t
        | some y => if rowFits y d.srcTag d.srcBytes then c.claim q t d dst y i r e.2 row else .did (c.tried i r 3 0 4 s) t)
      (.did (c.tried i r 3 0 4 s) s)

/-- A token ends: its combine slot is written, it is counted, and full caravans leave. -/
def Cmd.endToken (c : Cmd) (s : State) (d : RouteDesc) (dst : Place) (slot : List Byte) (count : Nat) : ItemStep :=
  let i := c.next
  let t := s.writePlace dst (64 * i : Nat) { bytes := slot, bad := [] } 0 c.scope
  let arr := countUp count (c.arr.filter (fun p => decide (8 ≤ p.1)))
  let c := { c with next := i + 1, arr := arr, far := [], reply := none, lost := false, refused := false, result := routeResult arr }
  let r := depart (i + 1 == d.ntok) c t
  .did r.1 r.2

/-- A step of a ROUTE: a row that has travelled arrives; or the current token goes on. -/
def Cmd.stepRoute (q : Fin 2) (c : Cmd) (s : State) (src dst : Place) (desc : List Byte) (rec_ tab : HandleReg) : ItemStep :=
  let d := (routeDesc desc).1
  let i := c.next
  match s.pkg.rows.find? (fun p => p.2.q == q && p.2.num == c.num) with
  | some (die, w) =>
    let t := s.modPkg (fun p => { p with rows := p.rows.erase (die, w) })
    let r := t.rowArrives die w
    .did (c.rowDone w.item r.1) (if r.1 = 0 then r.2 else r.2.failCombine w.combine c.scope)
  | none =>
    if d.ntok ≤ i then .waits
    else if c.revoked ∧ c.arr.all (fun p => decide (8 ≤ p.1)) ∧ c.far = [] ∧ !c.lost then
      let c' := { c with recs := (List.range 8).foldl (fun t r => tset 0 t (8 * i + r) (s.failure 2)) c.recs, next := i + 1 }
      let r := depart (i + 1 == d.ntok) c' s
      .did r.1 r.2
    else
      let dropped : List Byte := leBytes 8 (6 * 2 ^ 60) ++ List.replicate 56 0
      let lost : ItemStep :=
        ({ c with recs := (List.range 8).foldl (fun t r => tset 0 t (8 * i + r) (s.failure 4)) c.recs } : Cmd).endToken s d dst dropped 18
      c.read s src (i * d.srcBytes : Nat) d.srcBytes (fun row => c.read s (.page rec_ 0) (d.recOff + 64 * i : Nat) 64 (fun rc =>
        let fresh := c.arr.all (fun p => decide (8 ≤ p.1))
        let t := if fresh then (s.countPlace src (i * d.srcBytes : Nat) d.srcBytes 0).countPlace (.page rec_ 0) (d.recOff + 64 * i : Nat) 64 0 else s
        if row.bad ≠ [] then
          let b := badSlot d rc.bytes
          let c := match b.1 with | some r => { c with recs := tset 0 c.recs (8 * i + r) (s.failure 3) } | none => c
          c.endToken t d dst b.2 17
        else if rc.bad ≠ [] then
          { c with recs := tset 0 c.recs (8 * i) (s.failure 3) }.endToken t d dst dropped 17
        else match nextRank d rc.bytes c.arr with
          | some r => c.tryRank q t d dst tab i r rc.bytes row.bytes
          | none =>
            let n := successes c.arr
            c.endToken t d dst (combineSlot d rc.bytes c.arr) (if d.t ≤ n then 16 else if n = 0 then 18 else 17)) lost) lost

/-! ## Combining (R370, R387) -/

/-- Whether a token of ROUTEC has failed so far, and its accumulated elements in FP32. -/
structure Combining where
  acc : List Nat
  bad : Bool
  invalid : Bool

/-- The choices of a token at STATE 1, in rising rank. -/
def Cmd.combineRanks (c : Cmd) (s : State) (d : CombineDesc) (tab : HandleReg) (slot rc : List Byte) (lost : ItemStep) :
    List Nat → State → Combining → (State → Combining → ItemStep) → ItemStep
  | [], t, k, f => f t k
  | r :: rs, t, k, f =>
    let en := leNat ((slot.drop (8 * r)).take 8)
    let on := fun t k => c.combineRanks s d tab slot rc lost rs t k f
    if fld en 60 4 ≠ 1 then on t k
    else match descOff tab d.ebase d.etOff (fld en 0 32) with
      | none => on t { k with invalid := true }
      | some o =>
        c.read s (.page tab 0) o 64 (fun x =>
          let t := t.countPlace (.page tab 0) o 64 0
          if x.bad ≠ [] then on t { k with bad := true }
          else match expertDesc x.bytes with
            | none => on t { k with invalid := true }
            | some y =>
              let eb := y.otag.width / 8
              let l := y.outb + fld en 32 12 * d.nel * eb
              c.readAt s l (d.nel * eb) (fun ys =>
                let g := Fmt.bf16.decode (choice rc r).2
                let es := (pieces eb d.nel ys.bytes).map (fun b => (Fmt.ofTag y.otag).decode (leNat b))
                on (t.engCount l (d.nel * eb) 0)
                  { k with acc := (k.acc.zip es).map (fun p => (fmaN .fp32 .rne g p.2 (Fmt.fp32.decode p.1)).1), bad := k.bad || ys.bad != [] })
                lost) lost

def Cmd.stepRoutec (c : Cmd) (s : State) (src dst : Place) (desc : List Byte) (rec_ tab : HandleReg) : ItemStep :=
  let d := (combineDesc desc).1
  let i := c.next
  let rb := d.rtag.width / 8
  let ob := d.dtag.width / 8
  let hd : Place := match dst with | .page h _ => .page h 0 | p => p
  let resAt := d.resOff + i * (d.nel * rb)
  let lost := c.failItem 4 s
  c.read s src (64 * i : Nat) 64 (fun slot => c.read s (.page rec_ 0) (d.recOff + 64 * i : Nat) 64 (fun rc =>
    c.read s hd resAt (d.nel * rb) (fun rs =>
      let t := ((s.countPlace src (64 * i : Nat) 64 0).countPlace (.page rec_ 0) (d.recOff + 64 * i : Nat) 64 0).countPlace hd resAt (d.nel * rb) 0
      let acc := (pieces rb d.nel rs.bytes).map (fun b => (convert d.rtag .fp32 .rne false (leNat b)).1)
      let none_ := (List.range 8).all (fun r => fld (leNat ((slot.bytes.drop (8 * r)).take 8)) 60 4 != 1)
      let bad := slot.bad != [] || rc.bad != [] || rs.bad != []
      c.combineRanks s d tab slot.bytes rc.bytes lost (List.range 8) t { acc := acc, bad := bad, invalid := false } (fun t k =>
        let out := if none_ ∧ d.rtag = d.dtag then rs.bytes else k.acc.flatMap (fun a => leBytes ob (convert .fp32 d.dtag .rne false a).1)
        let marks := if k.bad then (List.range ((d.nel * ob + 3) / 4)).map (4 * ·) else []
        .did (c.closeItem (if k.bad then s.failure 3 else if k.invalid then s.failure 4 else 0))
          (t.writePlace dst (i * (d.nel * ob) : Nat) { bytes := out, bad := marks } 0 c.scope))) lost) lost) lost

/-- Whether the package's yards hold a record of a layer (R369). -/
def State.yardHolds (s : State) (layer : Nat) : Bool := s.pkg.yards.toList.any (fun y => y.any (fun r => r.layer == layer))

/-- ROUTED_ROW_ARRIVAL (R361): a row of this package's own caravans, or one that another package has sent, whose record goes back to it as
the answer to its tag (R451). -/
def execRoutedRowArrival (die : Fin 8) (w : Tagged RoutedRow) (s : State) : Host.Outcome State Fault Refusal :=
  let tag := w.tag
  let w := w.val
  let who : Agent := { pkg := w.spkg, core := 0, half := .a }
  .next (if s.pkg.rows.contains (die, w) then
      let r := (s.modPkg (fun p => { p with rows := p.rows.erase (die, w) })).rowArrives die w
      r.2.rowAnswered w.q w.num w.item r.1 w.combine
    else match s.answeredBefore who tag with
      | some a => s.emit (.respond who tag a)
      | none => let r := s.rowArrives die w; r.2.respond who tag (.row r.1))

end Sys2Proof.Machine
end

