-- ==== Sys2Proof/Machine/EngineColl.lean ====
section
/-! DEFINITION. Collectives (R348 to R353, R388, R389): chunks that arrive, their checks, the reduction, and what is sent on. -/

namespace Sys2Proof.Machine

/-! ## Chunks and their commands (R349) -/

/-- The descriptor of a collective command. -/
def Cmd.coll (c : Cmd) : Option (Fin 3 × Place × Place × CollDesc × Bool) :=
  match c.job with
  | .coll op src dst bs seals => some (op, src, dst, collDesc bs, seals)
  | _ => none

/-- Collectives of the modelled core that are ACTIVE. -/
def State.liveColls (s : State) : List (Fin 2 × Cmd) :=
  (([0, 1] : List (Fin 2)).flatMap (fun q => (s.core.queues.get q).cmds.map (fun c => (q, c)))).filter (fun p =>
    p.2.active && p.2.coll.isSome && decide (p.2.next < p.2.items))

def CollDesc.size (d : CollDesc) (i : Nat) : Nat := if i + 1 = d.nch then d.lastb else 4096
def CollDesc.arrivals (d : CollDesc) (i : Nat) : Nat := fld d.arr (2 * i) 2
def CollDesc.starts (d : CollDesc) (i : Nat) : Bool := flag d.orig i
/-- The place of a chunk in its command. -/
def CollDesc.index (d : CollDesc) (ch : Chunk) : Nat := (ch.chunk - wd d.chunk0).toNat
def CollDesc.key (d : CollDesc) (ch : Chunk) : Bool := d.collid == ch.collid.toNat && d.attempt == ch.attempt.toNat

/-- A chunk that no command will take: of a lower attempt than a live command, outside it, or beyond its arrivals. -/
def staleFor (p : Fin 2 × Cmd) (ch : Chunk) : Bool :=
  match p.2.coll with
  | some (_, _, _, d, _) =>
    (d.collid == ch.collid.toNat && decide (ch.attempt.toNat < d.attempt)) ||
    (d.key ch && (decide (d.nch ≤ d.index ch) || decide (d.arrivals (d.index ch) ≤ tget 0 p.2.arr (d.index ch))))
  | none => false
def State.staleChunk (s : State) (ch : Chunk) : Bool := s.liveColls.any (fun p => staleFor p ch)

/-- A chunk in the receive store of a die, which holds 256; the others wait on the link. -/
def State.storeChunk (d : Fin 8) (ch : Chunk) (s : State) : State :=
  if (s.pkg.store.get d).length < 256 then s.modPkg (fun p => { p with store := vmod p.store d (· ++ [ch]) })
  else s.modPkg (fun p => { p with wire := p.wire ++ [(d, ch)] })
/-- A chunk leaves the store, and the first that waits for room comes in. -/
def State.unstore (d : Fin 8) (ch : Chunk) (s : State) : State :=
  let s := s.modPkg (fun p => { p with store := vmod p.store d (fun l => l.erase ch) })
  match s.pkg.wire.find? (fun x => x.1 == d) with
  | some x => (s.modPkg (fun p => { p with wire := p.wire.erase x })).storeChunk d x.2
  | none => s
/-- Stale chunks of the store are discarded and counted. -/
def State.purgeStore (s : State) : State :=
  ((s.pkg.store.get s.dieFin).filter s.staleChunk).foldl (fun t ch => (t.unstore s.dieFin ch).bump (devColl s.die) 1) s

/-! ## A stage (R350, R351, R389) -/

/-- A failure recorded for a chunk: the first one stays. -/
def Cmd.failChunk (i : Nat) (r : DWord) (c : Cmd) : Cmd := if tget 0 c.recs i = 0 then { c with recs := tset 0 c.recs i r } else c

/-- The event of the die that detects a failure. -/
def State.chunkEvent (d : CollDesc) (i : Nat) (r : DWord) (s : State) : State :=
  match bitsOf r 0 8 with
  | 0xA4 => s.engineEvent s.dieFin 0xA4 r d.collid d.attempt ((d.chunk0 + i) % 2 ^ 32)
  | 0xA5 => s.engineEvent s.dieFin 0xA5 r d.collid d.attempt ((d.chunk0 + i) % 2 ^ 32)
  | 0x03 => s.engineEvent s.dieFin 0xA1 r d.collid d.attempt ((d.chunk0 + i) % 2 ^ 32)
  | _ => s

/-- A chunk is sent to the next stage; where the message domain does not hold it, its item fails with reason 0x04 (R455). `f` is
the record of a void chunk. -/
def Cmd.sendChunk (c : Cmd) (d : CollDesc) (i k : Nat) (f : Option DWord) (bs : List Byte) (s : State) : Cmd × State :=
  if d.dpkg ≠ s.pkgId ∧ !s.inDomain true d.dpkg then (c.failChunk i (record 4 0 0 s.pkgId s.die k), s)
  else
    let ch := sealedChunk
      { collid := wd d.collid, attempt := BitVec.ofNat 8 d.attempt, stage := BitVec.ofNat 16 k, bytes := d.size i, isVoid := f.isSome,
        sum := decide (k < d.rhops), tag := d.tag, chunk := wd (d.chunk0 + i), dpkg := BitVec.ofNat 17 d.dpkg, ddie := d.ddie,
        spkg := BitVec.ofNat 17 s.pkgId, sdie := s.dieFin, fault := f.getD 0,
        sl := if f.isSome then { res := 0, nfin := 0, nnf := 0 } else sealOf d.tag bs, hcrc := 0, payload := if f.isSome then [] else bs }
    (c, if d.dpkg ≠ s.pkgId then s.send (some d.dpkg) (d.dpkg, d.collid + i) (.chunk ch) (.store s.core.active)
      else if d.ddie = s.dieFin then s.storeChunk s.dieFin ch else s.emit (.chunk ch))

/-- A handle's page from its start. -/
def Place.page0 : Place → Place
  | .page h _ => .page h 0
  | p => p

/-- A chunk's result is written, with its seal. -/
def State.writeChunk (sc : Scope) (dst : Place) (d : CollDesc) (seals : Bool) (i : Nat) (bs : List Byte) (s : State) : State :=
  let s := s.writePlace dst (4096 * i : Nat) { bytes := bs, bad := [] } 0 sc
  if seals then s.writePlace dst.page0 (d.dseal + 16 * i : Nat) { bytes := sealBytes (sealOf d.tag bs), bad := [] } 0 sc else s

/-- The local chunk as stage k reads it: its bytes, or the record of a failure. -/
def Cmd.localChunk (c : Cmd) (s : State) (src : Place) (d : CollDesc) (seals : Bool) (i k : Nat) (f : Except DWord (List Byte) → State → ItemStep) : ItemStep :=
  let lost := f (.error (record 4 0 0 s.pkgId s.die k)) s
  let badRec := record 3 0 0 s.pkgId s.die k
  c.read s src (4096 * i : Nat) (d.size i) (fun x =>
    let t := s.countPlace src (4096 * i : Nat) (d.size i) 0
    if x.bad ≠ [] then f (.error badRec) t
    else if !seals then f (.ok x.bytes) t
    else c.read s src.page0 (d.sseal + 16 * i : Nat) 16 (fun y =>
      let t := t.countPlace src.page0 (d.sseal + 16 * i : Nat) 16 0
      if y.bad ≠ [] then f (.error badRec) t
      else if sealOf d.tag x.bytes = sealRead y.bytes then f (.ok x.bytes) t
      else f (.error (record 0xA4 s.pkgId s.die s.pkgId s.die k)) t) lost) lost

/-- The class of a number: 0 finite, 1 NaN, 2 and 3 the infinities. -/
def Num.cls : Num → Nat
  | .fin .. => 0
  | .nan _ => 1
  | .inf n => if n then 3 else 2
/-- The class that the checker predicts of a rounded sum (R57, R350), without the adder: of a finite exact sum by its distance from the
largest finite value, half a unit beyond which a value overflows. -/
def sumClass (f : Fmt) (a b : Num) : Nat :=
  match a, b with
  | .nan _, _ | _, .nan _ => 1
  | .inf n, .inf m => if n == m then (if n then 3 else 2) else 1
  | .inf n, .fin .. | .fin .., .inf n => if n then 3 else 2
  | .fin .., .fin .. =>
    let v := dyAdd a.dy b.dy
    match f.decode f.maxFinite with
    | .fin _ m e =>
      let past := dyAdd { v with m := v.m.natAbs } { m := -((2 * m + 1 : Nat) : Int), e := e - 1 }
      if past.m < 0 then 0 else if v.m < 0 then 3 else 2
    | _ => 0
/-- One position of a reduction (R72, R350): the sum rounded to nearest even; whether a position beside the finite ones has the class
predicted; and the residues of the sum with its error term, and of the two operands. -/
def sumElem (f : Fmt) (x y : Nat) : Nat × Bool × Nat × Nat :=
  let a := f.decode x
  let b := f.decode y
  let r := (addN f .rne a b).1
  let c := f.decode r
  if a.isFinite && b.isFinite && c.isFinite then
    let err := dyAdd (dyAdd a.dy b.dy) (dyNeg c.dy)
    (r, true, residue c.dy + residue err, residue a.dy + residue b.dy)
  else (r, c.cls == sumClass f a b, 0, 0)
/-- The sum of two payloads, element by element (R56, R57), and whether its checks hold (R72, R350). -/
def sumChunk (t : Tag) (a b : List Byte) : List Byte × Bool :=
  let k := t.width / 8
  let es := ((pieces k (a.length / k) a).zip (pieces k (b.length / k) b)).map (fun p => sumElem (Fmt.ofTag t) (leNat p.1) (leNat p.2))
  (es.flatMap (fun e => leBytes k e.1),
   es.all (·.2.1) && (es.map (·.2.2.1)).sum % resP == (es.map (·.2.2.2)).sum % resP)

/-- Whether an item of a revoked command has started. -/
def Cmd.chunkStarted (c : Cmd) (i : Nat) : Bool := c.orig.contains i || tget 0 c.arr i != 0

/-- The origin step of chunk i (R389). -/
def Cmd.originStep (c : Cmd) (s : State) (op : Fin 3) (src dst : Place) (d : CollDesc) (seals : Bool) (i : Nat) : ItemStep :=
  let go (x : Except DWord (List Byte)) (t : State) : ItemStep :=
    let c := { c with orig := c.orig ++ [i], far := [], lost := false }
    match x with
    | .error r => let y := (c.failChunk i r).sendChunk d i 0 (some r) [] (t.chunkEvent d i r); .did y.1 y.2
    | .ok bs =>
      let y := c.sendChunk d i 0 none bs t
      .did y.1 (if op = 2 then y.2.writeChunk c.scope dst d seals i bs else y.2)
  if c.revoked ∧ !c.chunkStarted i then go (.error (record 2 0 0 s.pkgId s.die 0)) s else c.localChunk s src d seals i 0 go

/-- An arrival for chunk i at stage k (R350): the checks are those of the header's CRC and of the payload's seal, and whether it is summed
is the header's OP (log 37). -/
def Cmd.arrivalStep (c : Cmd) (s : State) (src dst : Place) (d : CollDesc) (seals : Bool) (i : Nat) (ch : Chunk) : ItemStep :=
  let k := ch.stage.toNat
  let finish (f : Option (DWord × Bool)) (bs : List Byte) (t : State) : ItemStep :=
    let c := { c with arr := tset 0 c.arr i (tget 0 c.arr i + 1), far := [], lost := false }
    let t := t.unstore t.dieFin ch
    let c := match f with | some (r, _) => c.failChunk i r | none => c
    let t := match f with | some (r, true) => t.chunkEvent d i r | _ => t
    let t := if f.isNone ∧ (d.rhops = 0 ∨ d.rhops ≤ k + 1) then t.writeChunk c.scope dst d seals i bs else t
    let y := if k + 1 < d.hops then c.sendChunk d i (k + 1) (f.map (·.1)) bs t else (c, t)
    .did y.1 y.2
  let mismatch := (sealedChunk ch).hcrc != ch.hcrc || sealOf ch.tag ch.payload != ch.sl
  if ch.isVoid then finish (some (ch.fault, false)) [] s
  else if mismatch then finish (some (record 0xA4 ch.spkg.toNat ch.sdie.val s.pkgId s.die k, true)) [] s
  else if c.revoked ∧ !c.chunkStarted i then finish (some (record 2 0 0 s.pkgId s.die k, false)) [] s
  else if !ch.sum then finish none ch.payload s
  else c.localChunk s src d seals i k (fun x t => match x with
    | .error r => finish (some (r, true)) [] t
    | .ok a =>
      let r := sumChunk ch.tag a ch.payload
      if r.2 then finish none r.1 t else finish (some (record 0xA5 s.pkgId s.die s.pkgId s.die k, true)) [] t)

/-- The lowest chunk of a command that is ready: its origin step, or an arrival (R349). -/
def State.readyChunk (s : State) (c : Cmd) (d : CollDesc) : Option (Nat × Option Chunk) :=
  (List.range d.nch).findSome? (fun i =>
    if d.starts i ∧ !c.orig.contains i then some (i, none)
    else ((s.pkg.store.get s.dieFin).find? (fun ch => d.key ch && d.index ch == i)).map (fun ch => (i, some ch)))

def CollDesc.allDone (d : CollDesc) (c : Cmd) : Bool :=
  (List.range d.nch).all (fun i => (!d.starts i || c.orig.contains i) && decide (d.arrivals i ≤ tget 0 c.arr i))

/-- A step of a collective. -/
def Cmd.stepColl (c : Cmd) (s : State) (op : Fin 3) (src dst : Place) (d : CollDesc) (seals : Bool) : ItemStep :=
  let s := s.purgeStore
  match s.readyChunk c d with
  | some (i, none) => c.originStep s op src dst d seals i
  | some (i, some ch) => c.arrivalStep s src dst d seals i ch
  | none => .waits

end Sys2Proof.Machine
end

