-- ==== Sys2Proof/Machine/Engine.lean ====
section
/-! DEFINITION. The copy queues at work (R337 to R346, R349, R366, R369): a command starts, its items are handled, it finishes with
its report, its release and its arrival; and the arrival of a chunk. -/

namespace Sys2Proof.Machine

/-! ## Items -/

/-- Whether every item is done or failed. -/
def Cmd.complete (c : Cmd) : Bool :=
  match c.job with
  | .coll _ _ _ bs _ => decide (c.items ≤ c.next) || (collDesc bs).allDone c
  | .route _ _ bs _ _ => decide ((routeDesc bs).1.ntok ≤ c.next) && tget 0 c.arr rowsOut == 0
  | _ => decide (c.items ≤ c.next)

/-- A command whose next item stands or falls on a handle revoked before it starts (R241, R340); one for which something has been read
or asked has started. -/
def Cmd.revokedNow (c : Cmd) : Bool :=
  c.revoked && c.far.isEmpty && c.reply.isNone && !c.lost && !c.refused && (match c.job with
    | .coll .. | .route .. => false
    | .bin .. => c.moved == 0
    | _ => true)

/-- A command with a side in the cellar that no link reaches (R340). -/
def State.cutOff (s : State) (c : Cmd) : Bool :=
  (match c.job with | .coll .. | .route .. | .exrel _ => false | _ => true) &&
    c.job.handles.any (fun h => decide (h.loc 0 0 ≥ cellarBase) && !s.cellarUp (h.loc 0 0 - cellarBase))

/-- What the next item of a command comes to. -/
def State.itemStep (s : State) (q : Fin 2) (c : Cmd) : ItemStep :=
  if !c.active ∨ c.complete ∨ c.asked.isSome then .waits
  else if c.revokedNow then c.failItem 2 s
  else if s.cutOff c then c.failItem 4 s
  else match c.job with
    | .copy a b rows rb ss ds h none => c.stepCopy s a b rows rb ss ds h
    | .copy a b _ rb _ _ h (some t) => c.stepSealed s a b rb h t
    | .gather a _ _ rw d h => c.stepGather s a rw d h
    | .scatter b _ _ rw a h => c.stepScatter s b rw a h
    | .latch a l gm t => c.stepLatch s a l gm t
    | .shelf a gm first n t => c.stepShelf s a gm first n t
    | .bin a b n => c.stepBin s a b n
    | .route a b bs r t => c.stepRoute q s a b bs r t
    | .routec a b bs r t => c.stepRoutec s a b bs r t
    | .coll op a b bs seals => c.stepColl s op a b (collDesc bs) seals
    | .sealgen a b n t => c.stepSealgen s a b n t
    | .exfetch e => c.stepExfetch s e
    | .exrel t => c.stepExrel s t
    | .expin e pin => c.stepExpin s e pin

/-- Whether a command can go on with an item. -/
def State.canItem (s : State) (q : Fin 2) (c : Cmd) : Bool := match s.itemStep q c with | .waits => false | _ => true

/-- The item that a step of a command works at: its writes are this item's (R340, R377). -/
def State.itemAt (s : State) (c : Cmd) : Nat :=
  match c.job with
  | .route .. => 8 * c.next
  | .coll _ _ _ bs _ => match s.readyChunk c (collDesc bs) with | some (i, _) => i | none => 0
  | _ => c.next
/-- A command asks another package for something. -/
def State.cmdAsks (q : Fin 2) (n : Word) (l : Loc) (k : Nat) (o : Out) (pkg : Option Nat) (s : State) : State :=
  let s := s.modCmd q n (fun c => { c with asked := some (l, k), reply := none })
  match pkg with
  | some p => s.send (some p) (p, l / 64) o (.command q n none)
  | none => s.sendTo l o (.command q n none)
/-- A step of a command is made. -/
def State.cmdDoes (q : Fin 2) (c : Cmd) (s : State) : State :=
  match s.itemStep q c with
  | .waits => s
  | .asks l k o p => s.cmdAsks q c.num l k o p
  | .did c' t => (t.modCmd q c.num (fun _ => c')).claimReqs q c.num (s.itemAt c) s.pkg.tags

/-- COMMAND_ITEM (R339, R340). -/
def execCommandItem (q : Fin 2) (n : Word) (s : State) : Host.Outcome State Fault Refusal :=
  .next (match s.liveCmd q n with
    | none => s
    | some c => s.cmdDoes q c)

/-! ## Starting (R338, R342, R345) -/

/-- A range entry of the command overlaps one of an earlier command, and one of the two is write-marked. -/
def State.rangeConflict (s : State) (q : Fin 2) (n : Word) : Bool :=
  let own (r : Range) : Bool := r.q == q && r.num == n
  let before := s.core.ranges.takeWhile (fun r => !own r)
  (s.core.ranges.filter own).any (fun r => before.any (fun e => decide (r.lo < e.hi ∧ e.lo < r.hi) && (r.write || e.write)))

/-- What a kind of command waits for before it starts: a pending swap (R179), the yards (R369), the parked records (R366). -/
def State.jobReady (s : State) (q : Fin 2) (c : Cmd) : Bool :=
  match c.job with
  | .shelf .. =>
    match (s.matOf c.owner).swap.get (if s.core.split then halfIdx c.half else 0) with
    | some w => seqLe c.num (if q = 0 then w.c0 else w.c1)
    | none => true
  | .routec _ _ bs _ _ => !s.yardHolds (combineDesc bs).1.layer
  | .exrel tab =>
    match s.readPlace c.far tab 0 64 with
    | some d => match expertDesc d.bytes with
      | some x =>
        if x.hpkg ≠ s.pkgId then (match c.reply with | some v => v != some 2 | none => c.lost || c.refused)
        else (match s.ertAt x.entry with | some l => (s.ert l).parked == 0 | none => true)
      | none => true
    | none => c.lost
  | _ => true
/-- What a queued EXREL of another package's expert asks for (R366): its descriptor, and whether PARKED is 0 there. -/
def State.exrelAsk (s : State) (c : Cmd) : ItemStep :=
  match c.job with
  | .exrel tab =>
    let l := placeLoc s.die tab 0
    if c.asked.isSome ∨ c.lost ∨ c.refused then .waits
    else match s.readPlace c.far tab 0 64 with
      | none => .asks l 64 (.read l 64)
      | some d => match expertDesc d.bytes with
        | some x => if x.hpkg = s.pkgId then .waits else .asks l bindKey (.expert 2 d.bytes) (some x.hpkg)
        | none => .waits
  | _ => .waits

/-- The command of a queue that is next to start, where nothing but its own kind holds it back. -/
def State.nextStart (s : State) (q : Fin 2) : Option Cmd :=
  let u := (s.core.queues.get q).cmds
  match u.find? (fun c => !c.active) with
  | none => none
  | some c => if !c.held && decide ((u.filter (·.active)).length < 8) && !s.rangeConflict q c.num then some c else none
/-- The command of a queue that would start next. -/
def State.startable (s : State) (q : Fin 2) : Option Cmd := (s.nextStart q).filter (s.jobReady q)
/-- Whether a queue's next command has something to ask before it starts. -/
def State.startAsks (s : State) (q : Fin 2) : Bool :=
  (s.nextStart q).any (fun c => !s.jobReady q c && (match s.exrelAsk c with | .asks .. => true | _ => false))

/-- The acquire of a command (R272): the core's dirty bytes are at their homes, at scope core too, and lines are invalid at the
wider ones. -/
def State.cmdAcquire (c : Cmd) (s : State) : State :=
  if c.acq then s.asHalf c.half (fun t => (t.cleanCache t.cacheHalf).acquireOrder c.scope) else s

/-- The indices of a gather or scatter as the command finds them at its start, plus one; 0 for an uncorrectable one. -/
def State.indexTable (s : State) (table count : Nat) : Table Nat :=
  (List.range count).filterMap (fun i =>
    let a := table + 4 * i
    if s.sramBadWord a then none else some (i, leNat (s.core.sram.read a 4) + 1))

/-- What a command does as it becomes ACTIVE. -/
def State.begin_ (q : Fin 2) (c : Cmd) (s : State) : State :=
  let s := s.cmdAcquire c
  let s := s.modCmd q c.num (fun c => { c with active := true })
  match c.job with
  | .gather _ t n _ _ _ | .scatter _ t n _ _ _ => let ix := s.indexTable t n; s.modCmd q c.num (fun c => { c with arr := ix })
  | .coll _ _ _ bs _ =>
    let d := collDesc bs
    let clash := s.liveColls.any (fun p => !(p.1 == q && p.2.num == c.num) && (match p.2.coll with
      | some (_, _, _, e, _) => e.collid == d.collid && e.attempt == d.attempt
      | none => false))
    if clash then
      s.modCmd q c.num (fun c => { c with next := c.items, recs := (List.range c.items).map (fun i => (i, s.failure 6)) })
    else s.purgeStore
  | .exrel _ => s.modCmd q c.num (fun c => { c with reply := none })
  | _ => s

/-- COMMAND_START (R338). -/
def execCommandStart (q : Fin 2) (s : State) : Host.Outcome State Fault Refusal :=
  .next (match s.startable q with
    | some c => s.begin_ q c
    | none => match s.nextStart q with
      | some c => match s.exrelAsk c with
        | .asks l k o p => s.cmdAsks q c.num l k o p
        | _ => s
      | none => s)

/-! ## Finishing (R338, R341, R346, R377) -/

/-- The bank of the context that submitted a command, for the manifest (R274); the running one's where that context has departed. -/
def State.ownerBank (s : State) (c : Cmd) : Fin 2 := match s.bankOf c.owner with | some x => x.2 | none => (s.seqOf c.half).running
/-- The release of a command (R272, R274). -/
def State.cmdRelease (c : Cmd) (s : State) : State :=
  s.asHalf c.half (fun t => ((t.cleanCache t.cacheHalf).releaseOrder c.scope).appendRelease (s.ownerBank c) c.scope none)

/-- An arrival's outcome: ARV. -/
def arvOf (v : DWord) : Fin 4 := if v = notInit then 3 else if v = 0 then 2 else 1

/-- Where the barrier of a command stands at the arrival, with its leaf's bits (R346): none where its page is unmapped, lacks SYNC, or
cannot carry atomics. -/
def State.arrivalAt (s : State) (c : Cmd) (va : DWord) : Option (Loc × BitVec 10) :=
  match s.walkAny c.asid va AccessKind.atomic.need c.user with
  | .error _ => none
  | .ok t =>
    let l := t.loc s.die va
    let rg := s.region true l
    if attrSync t.attr && attrAtom t.attr && !attrRepl t.attr && (rg == .hbm || rg == .cellar || rg == .remote) && !(rg != .remote && s.badLine l)
    then some (l, t.attr) else none

/-- The arrival at a barrier of this package: a release at the command's scope. -/
def State.arriveHere (c : Cmd) (l : Loc) (attr : BitVec 10) (s : State) : Fin 4 × State :=
  let b := s.ownerBank c
  let at_ := s.core.active
  let s := s.modCore (fun k => { k with active := c.half })
  let s := ((s.releaseOrder c.scope).appendRelease b c.scope (some (lineOf l))).yieldLine (lineOf l)
  let r := (s.l2Req (lineOf l) (attrHint attr)).homeDo none (.barr c.gen) l
    (some { who := s.self, q := s.sq.man.count, scope := c.scope })
  (arvOf r.1, r.2.modCore (fun k => { k with active := at_ }))

/-- The outcome of an arrival: the command enters FINISHED, after a failed one's record is rewritten (R341). -/
def State.arrivalDone (q : Fin 2) (c : Cmd) (arv : Fin 4) (s : State) : State :=
  if arv = 3 then
    let recs := tset 0 c.recs c.items (s.failure 8)
    (s.writeRecords q c recs c.items 1).modCmd q c.num (fun c => { c with recs := recs, fin := 3, arv := 3 })
  else s.retire q c arv c.recs

/-- Whether a command's release or arrival orders writes that other packages must acknowledge (R268, R272). -/
def Cmd.ordersFar (c : Cmd) : Bool := (c.rel || c.bar.isSome) && c.scope == .fabric

/-- The next step of a command that finishes (R338): the report; then the release and the arrival; then, with the arrival's outcome, the
status. -/
def State.finishStep (q : Fin 2) (c : Cmd) (s : State) : State :=
  match c.fin.val with
  | 0 =>
    let s := s.writeReport q c c.recs
    (if c.ordersFar then s.asHalf c.half (fun t => t.cleanCache t.cacheHalf) else s).modCmd q c.num (fun c => { c with fin := 1 })
  | 1 =>
    let s := if c.rel then s.cmdRelease c else s
    match c.bar with
    | none => s.retire q c 0 c.recs
    | some va => match s.arrivalAt c va with
      | none => s.arrivalDone q c 3
      | some (l, attr) =>
        if s.region true l = .remote then
          let s := s.asHalf c.half (fun t => (t.releaseOrder c.scope).appendRelease (s.ownerBank c) c.scope (some (lineOf l)))
          (s.modCmd q c.num (fun c => { c with fin := 2 })).cmdAsks q c.num l 64 (.atomic (.barr c.gen) l c.scope) none
        else let r := s.arriveHere c l attr; r.2.arrivalDone q c r.1
  | 2 => s.arrivalDone q c (match c.reply with | some (some v) => arvOf v | _ => 3)
  | _ => s.retire q c c.arv c.recs

/-- Whether a command can finish, or can go on finishing: its writes are acknowledged (R377), and so are those of the core that its
release or arrival orders (R272, R459). -/
def State.canFinish (s : State) (q : Fin 2) (c : Cmd) : Bool :=
  c.active && c.complete && c.asked.isNone && !s.cmdOpen q c.num && !(c.fin == 1 && (c.rel || c.bar.isSome) && s.unackedAt c.scope c.half)

/-- The steps of finishing that nothing holds up, at most `k`. -/
def State.finishRun (q : Fin 2) (n : Word) : Nat → State → State
  | 0, s => s
  | k + 1, s => match s.liveCmd q n with
    | none => s
    | some c => if s.canFinish q c then State.finishRun q n k (s.finishStep q c) else s

/-- COMMAND_FINISH (R338): the report, the release, the arrival, the status, as far as no other package is waited for. -/
def execCommandFinish (q : Fin 2) (n : Word) (s : State) : Host.Outcome State Fault Refusal := .next (s.finishRun q n 4)

/-! ## Chunks from other dies and packages -/

/-- A chunk reaches its stage (R349, R350): a stale one is discarded and counted; another one is stored, and handled at once where it is
the lowest ready chunk of a live command. -/
def State.chunkComes (die : Fin 8) (ch : Chunk) (s : State) : State :=
  if die ≠ s.dieFin then s.storeChunk die ch
  else if s.staleChunk ch then s.bump (devColl s.die) 1
  else
    let s := s.storeChunk die ch
    match s.liveColls.find? (fun p => match p.2.coll with | some (_, _, _, d, _) => d.key ch | none => false) with
    | none => s
    | some (q, c) =>
      match c.coll with
      | some (_, _, _, d, _) =>
        if s.readyChunk c d = some (d.index ch, some ch) then
          match s.itemStep q c with
          | .did .. => s.cmdDoes q c
          | _ => s
        else s
      | none => s

/-- CHUNK_ARRIVAL (R349, R350): another package's chunk is acknowledged, and one that comes again with its tag is not taken again
(R451). -/
def execChunkArrival (die : Fin 8) (ch : Tagged Chunk) (s : State) : Host.Outcome State Fault Refusal :=
  let tag := ch.tag
  let ch := ch.val
  let who : Agent := { pkg := ch.spkg, core := 0, half := .a }
  .next (if ch.spkg.toNat = s.pkgId then s.chunkComes die ch
    else match s.answeredBefore who tag with
      | some a => s.emit (.respond who tag a)
      | none => (s.chunkComes die ch).respond who tag .ack)

/-! ## Which step an engine takes next (log 2) -/

/-- A step that a command of the queues can take: finishing before items, items before starts. -/
def State.engineNext (s : State) : Option Instr :=
  let all : List (Fin 2 × Cmd) := ([0, 1] : List (Fin 2)).flatMap (fun q => (s.core.queues.get q).cmds.map (fun c => (q, c)))
  match all.find? (fun p => s.canFinish p.1 p.2) with
  | some p => some (.commandFinish p.1 p.2.num)
  | none => match all.find? (fun p => s.canItem p.1 p.2) with
    | some p => some (.commandItem p.1 p.2.num)
    | none => (([0, 1] : List (Fin 2)).find? (fun q => (s.startable q).isSome || s.startAsks q)).map .commandStart

end Sys2Proof.Machine
end

