-- ==== Sys2Proof/Machine/Sched.lean ====
section
/-! DEFINITION. Tasks, gangs, streams and the scheduler (R117, R191 to R196, R312, R313, R402 to R421): spawns and the host queue, the
choice of what a bank takes, the end of a task, and what stops and resumes. -/

namespace Sys2Proof.Machine

/-! ## Leaving a bank (R196, R265, R280, R336, R410, R416) -/

/-- What a context that has left leaves in its bank: registers, and no context. -/
def Ctx.freed (n : Nat) (c : Ctx) : Ctx :=
  { c with flights := [], parked := [], resv := none, pend := 0, pfValid := false, status := .free, matrixSide := false, task := none,
           seg := none, rewound := none, arrived := none, ident := n, remote := [] }
/-- A bank is free (R196); the next context number goes with it. -/
def State.emptyBank (h : Half) (b : Fin 2) (s : State) : State :=
  (s.modSeq h (fun q => q.modBank b (Ctx.freed s.core.idents))).modCore (fun k => { k with idents := k.idents + 1 })

/-- The matrix-side state of a bank's context, and the core that holds it for no context. -/
def State.takeMatrix (h : Half) (b : Fin 2) (s : State) : Option SavedMatrix × State :=
  let i := halfIdx h
  if s.core.matHolder.get i = some b then
    (some (s.packMatrix h), s.modCore (fun k => { k with matHolder := vset k.matHolder i none }))
  else
    ((s.core.matSaved.find? (fun x => x.1 == h && x.2.1 == b)).map (·.2.2),
     s.modCore (fun k => { k with matSaved := otherSaved h b k.matSaved }))

/-- A departure (R265, R280): the core's dirty bytes go home, and the manifest's entries of the bank retire. -/
def State.depart_ (h : Half) (b : Fin 2) (s : State) : State :=
  s.asHalf h (fun t => (t.cleanCache t.cacheHalf).drainManifest b)

/-! ## Parking (R119, R410) -/

/-- Banks of core SRAM that a context's image takes: parts 0, 1, 2 and 7, and the matrix-side parts where it has them. -/
def imageBanks (m : Option SavedMatrix) : Nat :=
  match m with
  | none => 4
  | some x => (0xC0400 + (x.mat.bins.toList.map (fun b => up128 b.occ)).sum + 65535) / 65536
/-- Whether a bank of the attic holds part of a parked context, or undo bytes of a segment (R247). -/
def State.atticTaken (s : State) (bank : Nat) : Bool :=
  s.pkg.parkedCtx.any (fun p => p.place.attic && decide (p.place.at_ ≤ bank * 65536 ∧ bank * 65536 < p.place.at_ + p.place.banks * 65536)) ||
    s.allBanks.any (fun p => p.2.2.status != .free && decide (p.2.2.csrs.uoff.toNat < (bank + 1) * 65536 ∧
      bank * 65536 < p.2.2.csrs.uoff.toNat + p.2.2.csrs.ulen.toNat * 1024))
/-- Where an image of some banks goes: the lowest run of attic banks that has room, else the lowest free slot of PARKBASE (log 99). -/
def State.parkPlace (s : State) (h : Half) (n : Nat) : ParkPlace :=
  let attic := s.modCore (fun k => { k with active := h }) |>.atticBanks
  match attic.find? (fun b => (List.range n).all (fun i => attic.contains (b + i) && !s.atticTaken (b + i))) with
  | some b => { attic := true, at_ := b * 65536, banks := n }
  | none =>
    let used := s.pkg.parkedCtx.filterMap (fun p => if p.place.attic then none else some p.place.at_)
    { attic := false, at_ := ((List.range (used.length + 1)).find? (fun i => !used.contains i)).getD 0, banks := n }
/-- The location of a slot of PARKBASE. -/
def State.parkSlot (s : State) (i : Nat) : Loc := bitsOf (s.dev (devSched s.die 0x80)) 23 37 * 2 ^ 23 + i * 2 ^ 23
/-- Bytes of an image written at their place. -/
def State.imageWrite (p : ParkPlace) (x : Nat × List Byte) (s : State) : State :=
  if p.attic then s.sramWrite (p.at_ + x.1) x.2
  else if s.isHbm (s.parkSlot p.at_ + x.1) then s.writeHome none (placed (s.parkSlot p.at_ + x.1) x.2) else s
/-- The image of a context in the layout of R119, written by the context-save engine; its part 7 is opaque (log 17). -/
def State.writeImage (p : ParkPlace) (h : Half) (b : Fin 2) (c : Ctx) (m : Option SavedMatrix) (s : State) : State :=
  let v := (s.modSeq h (fun q => q.modBank b (fun _ => c))).modCore (fun k => { k with
    active := h, mat := (match m with | some x => x.mat | none => k.mat), sram := k.sram.writeAll (match m with | some x => x.bytes | none => []) })
  let im := imageBytes s.fresh
  let s := (v.saved (if m.isSome then 0x7F else 0x07) b ++ [(0x20000, im)]).foldl (fun (t : State) x => t.imageWrite p x) s
  s.drawn.modCore (fun k => { k with images := (im, { rc := c.rc, nextIssue := c.nextIssue, seqNo := c.seqNo, flights := c.flights,
                                                      parked := c.parked, ident := c.ident }) :: k.images })
/-- A context is parked: its image is saved, and it comes back as it was parked (log 99), a halted one halted. -/
def State.parkAs (h : Half) (b : Fin 2) (c : Ctx) (m : Option SavedMatrix) (s : State) : State :=
  let p := s.parkPlace h (imageBanks m)
  let c := { c with status := if c.status = .halted then .halted else .standby, resv := none }
  (s.writeImage p h b c m).modPkg (fun k => { k with order := k.order + 1, parkedCtx := k.parkedCtx ++
    [{ half := h, bank := b, ctx := c, mat := m, place := p, order := k.order }] })
/-- The context of a bank is parked (R410): with its results in flight, its pending fault and its matrix-side state. A gang's other task
on the core does not run on without it (R419). -/
def State.parkBank (h : Half) (b : Fin 2) (s : State) : State :=
  let c := (s.seqOf h).banks.get b
  let s := (s.asHalf h (State.stopMate c)).depart_ h b
  let m := s.takeMatrix h b
  (m.2.parkAs h b ((m.2.seqOf h).banks.get b) m.1).emptyBank h b

/-! ## Taking a bank (R410, R412, R417, R420) -/

/-- A bank that holds no context. -/
def Ctx.isFree (c : Ctx) : Bool := c.status == .free
def State.freeBank (s : State) (h : Half) : Option (Fin 2) :=
  let q := s.seqOf h
  if (q.banks.get q.running).isFree then some q.running
  else if (q.banks.get (otherBank q.running)).isFree then some (otherBank q.running) else none

/-- A context enters a free bank. -/
def State.enterBank (h : Half) (c : Ctx) (mat : Option SavedMatrix) (s : State) : State :=
  match s.freeBank h with
  | none => s
  | some b =>
    let s := s.modSeq h (fun q => q.modBank b (fun _ => c))
    match mat with
    | some m => s.modCore (fun k => { k with matSaved := k.matSaved ++ [(h, b, m)] })
    | none => s

/-- Whether no partner in its gang keeps a context from going on (R419): one that is parked, or that stands by behind another context that
runs. A partner that a page fault has stopped does not (R419). -/
def State.gangCan (s : State) (c : Ctx) : Bool :=
  !s.pkg.parkedCtx.any (fun p => c.gangWith p.ctx) && (match s.mateBank c with
    | some b =>
      let d := s.otherSeq.banks.get b
      d.status != .standby || d.pfValid || s.otherSeq.ctx.status != .running
    | none => true)
/-- Whether the context of a bank of the active half-core stands by and can run. -/
def State.canRun (s : State) (b : Fin 2) : Bool :=
  let c := s.sq.banks.get b
  c.status == .standby && !c.pfValid && s.gangCan c
/-- The context of a bank begins to run; the other bank takes the switch (R420). -/
def State.startRunning (b : Fin 2) (s : State) : State :=
  let s := if s.sq.running = b then s else s.tick bankSwitch
  (s.modSq (fun q => { q with running := b, hold := none, waited := 0 })).resumeCtx
/-- The other bank runs instead of the running one. -/
def State.switchBanks (s : State) : State := ((s.stopRunning).stopMate s.ctx).startRunning (otherBank s.sq.running)
/-- Where the half-core runs nothing, a context that stands by does. -/
def State.startIdle (s : State) : State :=
  if s.ctx.status = .running then s
  else if s.canRun s.sq.running then s.startRunning s.sq.running
  else if s.canRun (otherBank s.sq.running) then s.startRunning (otherBank s.sq.running)
  else s

/-- Cycles of unparking scalar, vector, mask and handle state from the attic; those from PARKBASE are not fixed (R420, log 6). A context
parked with a page fault issues its faulting bundle again (R429). -/
def unparkCycles : Nat := 18
def State.unpark (p : ParkedCtx) (s : State) : State :=
  let s := s.modPkg (fun k => { k with parkedCtx := k.parkedCtx.filter (fun x => x.order ≠ p.order) })
  let s := s.asHalf p.half (fun t =>
    let t := t.tick unparkCycles
    if p.place.attic then t else (t.tick (Config.frozen t.fresh)).drawn)
  s.enterBank p.half { p.ctx with pfValid := false } p.mat
/-- The parked contexts of a gang, which come back together (R419). -/
def State.unparkGang (p : ParkedCtx) (s : State) : State :=
  let s := (s.pkg.parkedCtx.filter (fun x => x.order != p.order && p.ctx.gangWith x.ctx)).foldl (fun s x => s.unpark x) (s.unpark p)
  (s.asHalf .a State.startIdle).asHalf .b State.startIdle

/-! ## What runs (R410, R414) -/

def State.ownCore (s : State) (h : Half) : Nat × Half := (s.coreId.toNat, h)
/-- The READY streams of a half-core, the one whose period ends first in front; the lower slot wins a tie. -/
def insertStream (x : Stream) : List Stream → List Stream
  | [] => [x]
  | y :: r => if x.next < y.next ∨ (x.next = y.next ∧ x.id.toNat < y.id.toNat) then x :: y :: r else y :: insertStream x r
def State.readyStreams (s : State) (h : Half) : List Stream :=
  (s.pkg.streams.filter (fun x => x.ready && x.core == s.coreId && x.half == h)).foldl (fun l x => insertStream x l) []

def Ctx.streamId (c : Ctx) : Option (BitVec 14) := c.task.bind (·.stream)
/-- The first READY stream of the active half-core that can run. -/
def State.nextStream (s : State) : Option Stream :=
  (s.readyStreams s.core.active).find? (fun x =>
    ([0, 1] : List (Fin 2)).any (fun b => (s.sq.banks.get b).streamId == some x.id &&
      ((s.sq.banks.get b).status == .running || s.canRun b)) ||
    s.pkg.parkedCtx.any (fun p => p.half == s.core.active && p.ctx.streamId == some x.id && p.ctx.status == .standby))
/-- Whether a READY stream pre-empts what runs (R414). -/
def State.preemptDue (s : State) : Bool :=
  match s.nextStream with
  | some x => !(s.ctx.streamId == some x.id && s.ctx.status == .running)
  | none => false

/-- What the active half-core runs next: the first READY stream that can, else the running context, else one that stands by. The
pre-empted context stays in its bank; one that stands by in the other bank is parked where the stream needs it (R414). -/
def State.dispatch (s : State) : State :=
  let h := s.core.active
  let t0 := s.sq.now
  let done (s : State) : State := s.sample s.die 2 s.srcId ((s.sq.now - t0) / unitNs) (s.sq.now != t0)
  match s.nextStream with
  | some x =>
    if s.ctx.streamId = some x.id ∧ s.ctx.status = .running then s
    else
      let s := if s.ctx.status = .running then (s.stopRunning).stopMate s.ctx else s
      if s.ctx.streamId = some x.id then s.startRunning s.sq.running
      else if (s.sq.banks.get (otherBank s.sq.running)).streamId = some x.id then done (s.startRunning (otherBank s.sq.running))
      else match s.pkg.parkedCtx.find? (fun p => p.half == h && p.ctx.streamId == some x.id) with
        | none => s
        | some p =>
          let s := if (s.freeBank h).isSome then s else s.parkBank h (otherBank s.sq.running)
          match s.freeBank h with
          | some b => done ((s.unpark p).startRunning b)
          | none => s
  | none =>
    let t := s.startIdle
    if t.sq.running = s.sq.running then t else done t

/-- CONTEXT_RESUME (R410, R417). -/
def execContextResume (hb : Half) (s : State) : Host.Outcome State Fault Refusal := .next (s.asHalf hb State.dispatch)

/-- Whether the active half-core has something else to run. -/
def State.resumable (s : State) : Bool :=
  s.preemptDue || (s.ctx.status != .running && s.ctx.status != .ended && (s.canRun s.sq.running || s.canRun (otherBank s.sq.running)))

/-- The running context is parked, with every task of its gang on the core (R419); something else runs. -/
def State.parkRunning (s : State) : State :=
  let h := s.core.active
  let m := s.mateBank s.ctx
  let s := ((s.stopRunning).stopMate s.ctx).parkBank h s.sq.running
  let s := match m with
    | some b => (s.parkBank (otherHalf h) b).asHalf (otherHalf h) State.dispatch
    | none => s
  s.dispatch

/-- STOP_OF_ISSUE (R416, R419): the running context is parked, or stays STANDBY while the other bank runs. -/
def execStopOfIssue (hb : Half) (why : StopWhy) (s : State) : Host.Outcome State Fault Refusal :=
  .next (s.asHalf hb (fun s =>
    if s.ctx.status ≠ .running then s
    else match why with
      | .park => s.parkRunning
      | .preempt => if s.canRun (otherBank s.sq.running) then s.switchBanks else (s.stopRunning).stopMate s.ctx))

/-! ## The end of a task (R196, R313) -/

/-- The identity that a task's events name. -/
def Task.name (t : Task) : DWord := match t.stream with | some n => n.zeroExtend 64 | none => t.spawn

/-- The arrival at DONE by a context of a bank: a release at package scope. -/
def State.doneArrival (t : Task) (asid : BitVec 12) (b : Fin 2) (s : State) : State :=
  let bound := match s.pkg.spawns.find? (fun x => dw x.id == t.spawn) with | some x => x.bound | none => t.size
  let failed (s : State) : State := s.spawnEvent s.dieFin t.name 4 bound
  if t.done = 0 then s
  else match s.walk asid t.done AccessKind.atomic.need true with
    | .error _ => failed s
    | .ok tr =>
      let l := tr.loc s.die t.done
      let rg := s.region true l
      if t.done.toNat % 64 ≠ 0 ∨ !attrSync tr.attr ∨ !attrAtom tr.attr ∨ attrRepl tr.attr then failed s
      else
        let ready (s : State) : State := (s.releaseOrder .package).appendRelease b .package (some (lineOf l))
        if rg = .remote then (ready s).sendTo l (.atomic (.barr none) l .package) (.done t.name bound)
        else if (rg = .hbm ∨ rg = .cellar) ∧ !s.badLine l then
          let s := (ready s).yieldLine (lineOf l)
          let r := (s.l2Req (lineOf l) (attrHint tr.attr)).homeDo none (.barr none) l
            (some { who := s.self, q := s.sq.man.count, scope := .package })
          if r.1 = notInit then failed r.2 else r.2
        else failed s

/-- Every result in flight of the running context lands. -/
def landAll : List Flight → State → State
  | [], s => s
  | f :: r, s => landAll r (match firstFlight s.ctx.flights with
    | some g => (s.runTo g.land).land g
    | none => let _ := f; s)

/-- Whether a context's commands have all finished. -/
def State.cmdsDone (s : State) (id : Nat) : Bool := s.core.queues.toList.all (fun q => q.cmds.all (fun c => c.owner != id))
/-- Whether the ended context's commands have. -/
def State.canEnd (s : State) : Bool := s.cmdsDone s.ctx.ident

/-- A context of a bank of the active half-core ends: it departs, arrives on DONE, and its bank is free. -/
def State.endBank (b : Fin 2) (s : State) : State :=
  let h := s.core.active
  let c := s.sq.banks.get b
  let s := s.depart_ h b
  let s := match c.task with | some t => (s.doneArrival t c.csrs.asid b).depart_ h b | none => s
  (s.takeMatrix h b).2.emptyBank h b
/-- The task of the running bank ends, its results landed. -/
def State.endTask (s : State) : State :=
  let s := landAll s.ctx.flights s
  (s.endBank s.sq.running).dispatch

/-- A bundle with TASKEND commits and no later one issues; the segment closes and none opens (R433). -/
def State.endIssue (s : State) : State := s.closeSegment.modCtx (fun c => { c with status := .ended, nextIssue := c.rc + 1 })

/-- TASKEND (R196). -/
def mTaskend : Meaning := .once fun _ _ => { ctl := .own, effs := [(.control, State.endIssue)] }
/-- What follows the bundle of a TASKEND: the end of the task, once its commands have finished. -/
def State.afterTaskend (s : State) : State := if s.ctx.status = .ended ∧ s.canEnd then s.endTask else s
def execTaskend (s : State) : Host.Outcome State Fault Refusal :=
  if s.ctx.status = .ended then .next (if s.canEnd then s.endTask else s.tick 1)
  else match issueWord mTaskend s with
    | .next t => .next t.afterTaskend
    | o => o

/-! ## Spawn descriptors (R191 to R193, R402) -/

/-- What scalar loads of consecutive 8-byte words find, or the request for a word that they await. -/
inductive Words where
  | got (ws : List Nat)
  | bad (rs : List Raise)
  | waits (l : Loc) (n : Nat)

/-- Words read as scalar loads at a scope (R192), and what the reads do. -/
def State.readWords (s : State) (sc : Scope) (va : DWord) : Nat → Words × (State → State)
  | 0 => (.got [], id)
  | n + 1 =>
    let x := s.access va 8 .read false
    if x.raises ≠ [] then (.bad x.raises, id)
    else match s.readScalar sc x 8 with
      | .bad => (.bad [atVa 0xA1 va], id)
      | .waits => let a := s.asksFor sc x.loc 8; (.waits a.1 a.2, id)
      | .value v hit =>
        let r := s.readWords sc (va + 8) n
        match r.1 with
        | .got ws => (.got (v :: ws), fun t => r.2 (t.readScalarEff sc va x hit))
        | w => (w, id)

/-- The fields of a descriptor of eight words; `launch` tells a launch record (R402). -/
structure SpawnDesc where
  entry : DWord
  args : DWord
  level : Nat
  extent : Nat
  first : Nat
  cls : Nat
  ndep : Nat
  nstage : Nat
  sbm : Nat
  deps : DWord
  stage : DWord
  done : DWord
  mask : DWord
  asid : BitVec 12
  gang : Bool
  reserved : Bool

def spawnDesc (launch : Bool) (ws : List Nat) : SpawnDesc :=
  let w (i : Nat) : Nat := ws.getD i 0
  { entry := dw (w 0), args := dw (w 1), level := fld (w 2) 0 3, extent := fld (w 2) 8 9, first := fld (w 2) 17 9, cls := fld (w 3) 0 3
    ndep := fld (w 3) 4 3, nstage := fld (w 3) 8 4, sbm := fld (w 3) 12 2, deps := dw (w 4), stage := dw (w 5), done := dw (w 6), mask := dw (w 7)
    asid := BitVec.ofNat 12 (fld (w 2) 26 12), gang := flag (w 2) 38
    reserved := fld (w 2) 3 5 != 0 || (if launch then fld (w 2) 39 25 != 0 else fld (w 2) 26 38 != 0) || fld (w 3) 14 50 != 0 || flag (w 3) 3 ||
      flag (w 3) 7 }

/-- Whether a core of the package is in split mode. -/
def State.coreSplit (s : State) (c : Nat) : Bool :=
  if c = s.coreId.toNat then s.core.split
  else
    let v := s.dev (devSched (c / 16) (0x100 + 8 * (c % 16)))
    v.getLsbD 0 != v.getLsbD 1
/-- The cores, or half-cores, of some cores. -/
def State.units (s : State) (cs : List Nat) : List (Nat × Half) :=
  cs.flatMap (fun c => if s.coreSplit c then [(c, .a), (c, .b)] else [(c, .a)])
def coresFrom (a n : Nat) : List Nat := (List.range n).map (· + a)

/-- The unit at core level that FIRST names (log 18). -/
def State.coreUnit (s : State) (f : Nat) : Option (List (Nat × Half)) :=
  if f < 128 ∧ !s.coreSplit f then some [(f, .a)]
  else if f / 2 < 128 ∧ s.coreSplit (f / 2) then some [(f / 2, if f % 2 = 0 then .a else .b)]
  else none

/-- The cores of the unit that LEVEL and FIRST name; where the scheduler chooses, the modelled core's unit on its own die and the
first one of another die (log 18). -/
def State.spawnUnit (s : State) (level first die : Nat) : Option (List (Nat × Half)) :=
  let own := decide (die = s.die)
  match level, decide (first = 0x1FF) with
  | 0, false => s.coreUnit first
  | 0, true => if own then some [(s.coreId.toNat, s.core.active)] else some ((s.units [16 * die]).take 1)
  | 1, false => if first < 32 then some (s.units (coresFrom (4 * first) 4)) else none
  | 1, true => some (s.units (coresFrom (4 * (if own then s.slice else 4 * die)) 4))
  | 2, false => if first < 8 then some (s.units (coresFrom (16 * first) 16)) else none
  | 2, true => some (s.units (coresFrom (16 * die) 16))
  | 3, choose => if first = 0 ∨ choose then some (s.units (coresFrom 0 128)) else none
  | _, _ => none

/-- The cores that a mask of four words names, and whether it names the other half of a core in protected mode. -/
def State.maskCores (s : State) (m : List Nat) : List (Nat × Half) × Bool :=
  let bit (w i : Nat) : Bool := flag (m.getD (w + i / 64) 0) (i % 64)
  ((List.range 128).flatMap (fun c => (if bit 0 c then [(c, Half.a)] else []) ++ (if bit 2 c then [(c, Half.b)] else [])),
   (List.range 128).any (fun c => bit 2 c && !s.coreSplit c))

/-- The die with the fewest pending spawns of a class, the lowest on a tie (R405). -/
def State.leastDie (s : State) (cls : Nat) : Nat :=
  let n (d : Nat) : Nat := (s.pkg.spawns.filter (fun x => x.die.val == d && x.cls.val == cls)).length
  (List.range 8).foldl (fun b d => if n d < n b then d else b) 0
/-- The die that holds a spawn (R405). -/
def State.holdingDie (s : State) (d : SpawnDesc) (mask : List (Nat × Half)) : Nat :=
  if d.level = 7 then (match mask with | x :: _ => x.1 / 16 | [] => 0)
  else if d.level = 3 ∨ d.first = 0x1FF then s.leastDie d.cls
  else match s.spawnUnit d.level d.first 0 with
    | some (x :: _) => x.1 / 16
    | _ => 0

/-- The cores of a spawn's tasks, in rank order. -/
def State.spawnCores (s : State) (d : SpawnDesc) (mask : List (Nat × Half)) : List (Nat × Half) :=
  if d.level = 7 then mask
  else ((s.spawnUnit d.level d.first (s.holdingDie d mask)).getD []).take d.extent

/-- Reasons that the eight words give (R193). -/
def State.descReasons (s : State) (d : SpawnDesc) : List Nat :=
  let unit := if d.level = 7 then some 256 else (s.spawnUnit d.level d.first (s.holdingDie d [])).map List.length
  (if d.entry.toNat % 16 ≠ 0 then [1] else []) ++
  (if (4 ≤ d.level ∧ d.level ≤ 6) ∨ d.extent = 0 ∨ 256 < d.extent ∨ (d.level = 7 ∧ d.mask.toNat % 16 ≠ 0) ∨ unit.getD 0 < d.extent then [2] else []) ++
  (if d.cls = 7 then [3] else []) ++ (if 4 < d.ndep ∨ 8 < d.nstage then [4] else []) ++ (if d.reserved ∨ d.sbm = 3 then [5] else [])

/-- A staging record: source, bytes, bank. -/
def stageRec (a b : Nat) : DWord × Nat × Nat := (dw a, fld b 0 23, fld b 32 6)
/-- Reasons that the lists give. -/
def State.listReasons (s : State) (d : SpawnDesc) (mask stage : List Nat) : List Nat :=
  let m := s.maskCores mask
  let cores := s.spawnCores d m.1
  let recs := (List.range d.nstage).map (fun i => (stage.getD (2 * i) 0, stage.getD (2 * i + 1) 0))
  let past (p : Nat × Nat) : Bool :=
    let r := stageRec p.1 p.2
    let hi := r.2.2 * 65536 + r.2.1
    r.2.1 == 0 || decide (2 ^ 22 < r.2.1) || decide (2 ^ 22 < hi) ||
      cores.any (fun c => s.coreSplit c.1 && (if c.2 = .a then decide (2 ^ 21 < hi) else decide (r.2.2 < 32)))
  (if d.level = 7 ∧ (m.1.length ≠ d.extent ∨ m.2) then [2] else []) ++
  (if recs.any (fun p => fld p.2 23 9 != 0 || fld p.2 38 26 != 0) then [5] else []) ++ (if recs.any past then [6] else [])

/-- The lowest of some reasons. -/
def leastReason : List Nat → Option Nat
  | [] => none
  | r :: rs => some (rs.foldl min r)

/-! ## Posting (R192, R405, R406) -/

/-- The spawn that a descriptor and its lists give. -/
def State.makeSpawn (s : State) (d : SpawnDesc) (gang : Bool) (asid : BitVec 12) (id : Nat) (deps stage mask : List Nat) : Spawn :=
  let m := (s.maskCores mask).1
  let pair (l : List Nat) (i : Nat) : Nat × Nat := (l.getD (2 * i) 0, l.getD (2 * i + 1) 0)
  { id := id, die := Fin.ofNat 8 (s.holdingDie d m), order := s.pkg.order, state := .posted, gang := gang, asid := asid, entry := d.entry
    args := d.args, cores := s.spawnCores d m, cls := Fin.ofNat 8 d.cls, sbm := BitVec.ofNat 2 d.sbm
    deps := (List.range d.ndep).map (fun i => (dw (pair deps i).1, dw (pair deps i).2))
    stage := (List.range d.nstage).map (fun i => stageRec (pair stage i).1 (pair stage i).2), done := d.done, bound := 0, readyAt := 0 }

/-- Room for a spawn on a die (R406). -/
def State.spawnRoom (s : State) (d : Nat) : Bool :=
  decide ((s.pkg.spawns.filter (fun x => x.die.val == d)).length < 1024 + bitsOf (s.dev (devSched d 0x30)) 0 24)
/-- The record of a spawn in a spill area (log 61). -/
def Spawn.bytes (x : Spawn) : List Byte :=
  [x.entry.toNat, x.args.toNat, x.id + x.cores.length * 2 ^ 40 + x.gang.toNat * 2 ^ 63,
   x.cls.val + x.sbm.toNat * 2 ^ 12 + x.asid.toNat * 2 ^ 16 + x.deps.length * 2 ^ 32 + x.stage.length * 2 ^ 40,
   x.order, x.bound, x.done.toNat, 0].flatMap (leBytes 8)
/-- The spawns that a die holds beyond 1,024 stand in its spill area, in their order (R406). -/
def State.spillSpawns (d : Fin 8) (s : State) : State :=
  let l := (s.pkg.spawns.filter (fun x => x.die == d)).drop 1024
  if l = [] then s
  else s.sendWrite none .package (placed (bitsOf (s.dev (devSched d.val 0x28)) 6 54 * 64) (l.flatMap Spawn.bytes))
def State.postSpawn (x : Spawn) (s : State) : State :=
  (s.modPkg (fun p => { p with spawns := p.spawns ++ [{ x with order := p.order }], order := p.order + 1 })).spillSpawns x.die
/-- The next spawn id of a die (R192). -/
def State.nextSpawnId (s : State) (d : Fin 8) : Nat :=
  let n := (s.pkg.spawnCount.get d).toNat
  d.val * 2 ^ 32 + (if n = 2 ^ 32 - 1 then 1 else n + 1)
def State.countSpawn (d : Fin 8) (s : State) : State :=
  let n := s.nextSpawnId d
  s.modPkg (fun p => { p with spawnCount := vset p.spawnCount d (wd n) })

/-- SPAWN and SPAWNG. -/
def spawnPlan (gang : Bool) (e : Env) (s : State) (a d : Reg) : Plan :=
  let va := s.ctx.x a
  let base : Plan := { reads := xs [a], writes := xw d 1, mem := true }
  let refuse (r : Nat) : Plan := { base with raises := [{ cause := 0x34, tval := dw (r * 2 ^ 56 + va.toNat % 2 ^ 56) }] }
  let waits (l : Loc) (n : Nat) : Plan := { base with holds := [.remote], ask := some (State.request l n (.read l n)) }
  if va.toNat % 64 ≠ 0 then refuse 1
  else match s.readWords e.scope va 8 with
  | (.bad rs, _) => { base with raises := rs }
  | (.waits l n, _) => waits l n
  | (.got ws, eff) =>
    let k := spawnDesc false ws
    match leastReason (s.descReasons k) with
    | some r => refuse r
    | none =>
      let mask := if k.level = 7 then s.readWords e.scope k.mask 4 else (.got [], id)
      let deps := s.readWords e.scope k.deps (2 * k.ndep)
      let stage := s.readWords e.scope k.stage (2 * k.nstage)
      match deps.1, stage.1, mask.1 with
      | .got dl, .got sl, .got ml =>
        match leastReason (s.listReasons k ml sl) with
        | some r => refuse r
        | none =>
          let id := s.nextSpawnId s.dieFin
          let x := s.makeSpawn k gang s.ctx.csrs.asid id dl sl ml
          { base with
            holds := if s.spawnRoom x.die.val then [] else [.spawnRoom]
            effs := [(.smem, fun t => mask.2 (stage.2 (deps.2 (eff t)))), (.main, State.launchX 1 d (dw id)),
              (.control, fun t => (t.countSpawn t.dieFin).postSpawn x)] }
      | .bad rs, _, _ | _, .bad rs, _ | _, _, .bad rs => { base with raises := rs }
      | .waits l n, _, _ | _, .waits l n, _ | _, _, .waits l n => waits l n

/-- SPAWN (R191, R192, R193, R405, R406). -/
def mSpawn (a : Reg) (d : Reg) : Meaning := .once fun e s => spawnPlan false e s a d
def execSpawn (a : Reg) (d : Reg) (s : State) : Host.Outcome State Fault Refusal := issueWord (mSpawn a d) s

/-- SPAWNG (R191, R192, R193, R405, R406). -/
def mSpawng (a : Reg) (d : Reg) : Meaning := .once fun e s => spawnPlan true e s a d
def execSpawng (a : Reg) (d : Reg) (s : State) : Host.Outcome State Fault Refusal := issueWord (mSpawng a d) s

/-! ## The host queue (R402 to R404) -/

/-- What a unit of the package finds as it reads: bytes, an uncorrectable word, a fault, or a line that is still to come from another
package or from the host. -/
inductive UnitRead where
  | got (bs : List Byte)
  | bad
  | fault
  | waits (line : Loc)

/-- Bytes of one line at a location (R403: a line of the host window is kept no longer than its use, R248). -/
def State.deviceRead (s : State) (l n : Nat) : UnitRead :=
  match s.region true l with
  | .hbm | .cellar => if s.badLine l then .bad else .got (s.bytesAt l n)
  | .remote | .host =>
    match s.pkg.unitData.find? (fun p => p.1 == lineOf l) with
    | some p => if p.2.2 then .bad else .got ((p.2.1.drop (l - lineOf l)).take n)
    | none => .waits (lineOf l)
  | _ => .fault
/-- A line asked for, once. -/
def State.unitAsk (l : Loc) (s : State) : State :=
  if s.pkg.requests.any (fun r => r.who == .unit && r.what.readLoc == l) then s else s.sendTo l (.read l 64) .unit
/-- Lines that have been used. -/
def State.dropData (ls : List Loc) (s : State) : State :=
  if ls = [] then s else s.modPkg (fun p => { p with unitData := p.unitData.filter (fun x => !ls.contains x.1) })

/-- Aligned words of 8 bytes at a virtual address of an address space, as a unit reads them. -/
def State.walkRead (s : State) (asid : BitVec 12) (va : DWord) : Nat → UnitRead
  | 0 => .got []
  | n + 1 =>
    match s.walk asid va AccessKind.read.need true with
    | .error _ => .fault
    | .ok t => match s.deviceRead (t.loc s.die va) 8 with
      | .got bs => match s.walkRead asid (va + 8) n with
        | .got r => .got (bs ++ r)
        | e => e
      | e => e
/-- The lines beyond the package that such a read uses. -/
def State.walkLines (s : State) (asid : BitVec 12) (va : DWord) (n : Nat) : List Loc :=
  distinct ((List.range n).filterMap (fun i =>
    let a := va + dw (8 * i)
    match s.walk asid a AccessKind.read.need true with
    | .ok t => if s.away (t.loc s.die a) then some (lineOf (t.loc s.die a)) else none
    | .error _ => none))

/-- A launch record is refused (R404). -/
def State.refuseLaunch (index reason : Nat) (s : State) : State :=
  let r := devSched 0 0x20
  (s.setDev r (dw (reason * 2 ^ 56 + (bitsOf (s.dev r) 0 32 + 1) % 2 ^ 32))).relEvent s.dieFin 0xB4 (dw index) (dw reason)

/-- Whether an address space has a valid table entry (R404). -/
def State.asidValid (s : State) (asid : BitVec 12) : Bool :=
  let tbl := bitsOf (s.dev 0x018) 16 44 * 2 ^ 16
  s.isHbm tbl && !s.badLine (tbl + 16 * asid.toNat) && flag (s.numAt (tbl + 16 * asid.toNat) 8) 0

/-- The lists of a launch record, with how many words each has: dependences, staging and mask. -/
def SpawnDesc.lists (d : SpawnDesc) : List (DWord × Nat) :=
  [(d.deps, 2 * d.ndep), (d.stage, 2 * d.nstage), (d.mask, if d.level = 7 then 4 else 0)]
/-- The words of the lists, one after another. -/
def State.launchLists (s : State) (asid : BitVec 12) : List (DWord × Nat) → UnitRead
  | [] => .got []
  | (va, n) :: r =>
    if n ≠ 0 ∧ va.toNat % 8 ≠ 0 then .fault
    else match s.walkRead asid va n with
      | .got bs => match s.launchLists asid r with
        | .got b => .got (bs ++ b)
        | e => e
      | e => e

/-- HOST_QUEUE_CONSUME (R403, R404). -/
def execHostQueueConsume (s : State) : Host.Outcome State Fault Refusal :=
  let head := bitsOf (s.dev (devSched 0 0x10)) 0 32
  let tail := bitsOf (s.dev (devSched 0 0x18)) 0 32
  let base := s.dev (devSched 0 0)
  let at_ := bitsOf base 12 48 * 2 ^ 12 + 64 * (head % 2 ^ bitsOf (s.dev (devSched 0 8)) 0 5)
  let next (s : State) : State := (s.setDev (devSched 0 0x10) (dw ((head + 1) % 2 ^ 32))).dropData [at_]
  let refuse (r : Nat) : State := next (s.refuseLaunch head r)
  .next (if !base.getLsbD 0 ∨ head = tail then s
  else if s.region true at_ ≠ .hbm ∧ s.region true at_ ≠ .host then refuse 8
  else match s.deviceRead at_ 64 with
    | .waits l => s.unitAsk l
    | .bad | .fault => refuse 8
    | .got bs =>
      let d := spawnDesc true ((pieces 8 8 bs).map leNat)
      match leastReason (s.descReasons d) with
      | some r => refuse r
      | none =>
        let drop (s : State) : State := s.dropData (d.lists.flatMap (fun p => s.walkLines d.asid p.1 p.2))
        if !s.asidValid d.asid then refuse 7
        else match s.launchLists d.asid d.lists with
          | .waits l => s.unitAsk l
          | .bad | .fault => drop (refuse 8)
          | .got bs =>
            let ws := (pieces 8 (bs.length / 8) bs).map leNat
            let deps := ws.take (2 * d.ndep)
            let stage := (ws.drop (2 * d.ndep)).take (2 * d.nstage)
            let mask := ws.drop (2 * d.ndep + 2 * d.nstage)
            match leastReason (s.listReasons d mask stage) with
            | some r => drop (refuse r)
            | none =>
              let die := s.holdingDie d (s.maskCores mask).1
              if !s.spawnRoom die then s
              else
                let f : Fin 8 := Fin.ofNat 8 die
                let x := s.makeSpawn d d.gang d.asid (s.nextSpawnId f) deps stage mask
                drop (next ((s.countSpawn f).postSpawn x)))

/-- HQTAIL_WRITE (R403). -/
def execHqtailWrite (v : Word) (s : State) : Host.Outcome State Fault Refusal := .next (s.setDev (devSched 0 0x18) (v.zeroExtend 64))

/-! ## Pending spawns (R407) -/

def State.modSpawn (die : Fin 8) (id : Nat) (f : Spawn → Spawn) (s : State) : State :=
  s.modPkg (fun p => { p with spawns := p.spawns.map (fun x => if x.die = die ∧ x.id = id then f x else x) })
def State.dropSpawn (die : Fin 8) (id : Nat) (s : State) : State :=
  (s.modPkg (fun p => { p with spawns := p.spawns.filter (fun x => !(x.die == die && x.id == id)) })).spillSpawns die
def State.findSpawn (s : State) (die : Fin 8) (id : Nat) : Option Spawn := s.pkg.spawns.find? (fun x => x.die == die && x.id == id)
/-- A spawn fails: no further task starts, and one event says why. -/
def State.failSpawn (x : Spawn) (reason : Nat) (s : State) : State := (s.dropSpawn x.die x.id).spawnEvent x.die (dw x.id) reason x.bound

/-- A dependence as the scheduler judges it: it cannot be read, it is complete or not, or its line is still to come. -/
inductive DepState where
  | unreadable | complete | open_
  | waits (line : Loc)
  deriving DecidableEq, Repr
def State.depState (s : State) (asid : BitVec 12) (d : DWord × DWord) : DepState :=
  match s.walk asid d.1 AccessKind.read.need true with
  | .error _ => .unreadable
  | .ok t =>
    let l := t.loc s.die d.1
    let rg := s.region true l
    if !attrSync t.attr ∨ d.1.toNat % 64 ≠ 0 ∨ (rg ≠ .hbm ∧ rg ≠ .cellar ∧ rg ≠ .remote) then .unreadable
    else match s.deviceRead l 64 with
      | .got bs =>
        let b := barrierOf (fun o n => leNat ((bs.drop o).take n))
        if b.epoch = 0 then .unreadable else if b.complete d.2 then .complete else .open_
      | .waits m => .waits m
      | _ => .unreadable
/-- The lines beyond the package at which a spawn's dependences stand. -/
def State.depLines (s : State) (x : Spawn) : List Loc := x.deps.flatMap (fun d => s.walkLines x.asid d.1 1)

/-- SPAWN_READY (R407): barriers of other packages are read again until they are complete. -/
def execSpawnReady (die : Fin 8) (id : Nat) (s : State) : Host.Outcome State Fault Refusal :=
  .next (match s.findSpawn die id with
    | none => s
    | some x =>
      if x.state ≠ .posted then s
      else
        let ds := x.deps.map (s.depState x.asid)
        let drop (s : State) : State := s.dropData (s.depLines x)
        if ds.any (· == .unreadable) then drop (s.failSpawn x 1)
        else if ds.all (· == .complete) then drop (s.modSpawn die id (fun x => { x with state := .ready, readyAt := s.timeNs }))
        else match ds.findSome? (fun d => match d with | .waits l => some l | _ => none) with
          | some l => s.unitAsk l
          | none => drop s)

/-! ## The scheduler's choice (R408) -/

/-- Something READY: a spawn, or a parked task of the modelled core, which has rejoined its class. -/
inductive Ready where
  | spawn (x : Spawn)
  | parked (p : ParkedCtx)
def Ready.order : Ready → Nat
  | .spawn x => x.order
  | .parked p => p.order
def Ready.cls : Ready → Nat
  | .spawn x => x.cls.val
  | .parked p => match p.ctx.task with | some t => t.cls.val | none => 0
/-- The cores it needs next; a parked gang needs the half-cores of all its parked tasks (R419). -/
def Ready.cores (s : State) : Ready → List (Nat × Half)
  | .spawn x => if x.gang then x.cores else (x.cores.drop x.bound).take 1
  | .parked p => distinct ((p :: s.pkg.parkedCtx.filter (fun q => p.ctx.gangWith q.ctx)).map (fun q => (s.coreId.toNat, q.half)))

/-- What is READY on a die, in posting order; of a parked gang the first task. -/
def insertReady (x : Ready) : List Ready → List Ready
  | [] => [x]
  | y :: r => if x.order < y.order then x :: y :: r else y :: insertReady x r
def State.readyOn (s : State) (die : Fin 8) : List Ready :=
  let sp := (s.pkg.spawns.filter (fun x => x.die == die && x.state == .ready)).map Ready.spawn
  let led (p : ParkedCtx) : Bool := s.pkg.parkedCtx.any (fun q => decide (q.order < p.order) && p.ctx.gangWith q.ctx)
  let pk := if die = s.dieFin then
      (s.pkg.parkedCtx.filter (fun p => p.ctx.streamId.isNone && p.ctx.status == .standby && !led p)).map Ready.parked
    else []
  (sp ++ pk).foldl (fun l x => insertReady x l) []

/-- Banks of a half-core that nothing holds or has reserved. -/
def State.banksLeft (s : State) (h : Half) : Nat :=
  let q := s.seqOf h
  let free := ([0, 1] : List (Fin 2)).filter (fun b => (q.banks.get b).isFree)
  let reserved := s.pkg.spawns.filter (fun x => x.state == .placing &&
    ((if x.gang then x.cores else (x.cores.drop x.bound).take 1).any (fun c => c.1 == s.coreId.toNat && c.2 == h)))
  free.length - reserved.length
/-- Whether every core it needs has a free bank; the banks of other cores are known to the scheduler (log 2). -/
def State.placeable (s : State) (r : Ready) : Bool :=
  (r.cores s).all (fun c => c.1 != s.coreId.toNat || (!s.core.splitPend && decide (0 < s.banksLeft c.2)))

/-- Of one class, in posting order: the first that could use a bank of a core and can be placed on cores that no older one is held for. -/
def firstPlaceable (s : State) (at_ : Nat × Half) : List Ready → List (Nat × Half) → Option Ready
  | [], _ => none
  | r :: rs, held =>
    if (r.cores s).any held.contains then firstPlaceable s at_ rs (held ++ r.cores s)
    else if s.placeable r then (if (r.cores s).contains at_ then some r else firstPlaceable s at_ rs held)
    else firstPlaceable s at_ rs (held ++ r.cores s)

/-- The credits after a choice has begun: those of the classes with something READY rise. -/
def State.raiseCredits (die : Fin 8) (ready : List Ready) (s : State) : State :=
  let c := s.pkg.credits.get die
  let share (i : Nat) : Nat := bitsOf (s.dev (devSched die.val (0x40 + 8 * i))) 0 8
  let new : Vector Nat 7 := Vector.ofFn (fun i => if ready.any (fun r => r.cls == i.val) then min 512 (c.get i + share i.val) else 0)
  s.modPkg (fun p => { p with credits := vset p.credits die new })
/-- A class with nothing READY has credit 0. -/
def State.settleCredits (die : Fin 8) (s : State) : State :=
  let ready := s.readyOn die
  let c := s.pkg.credits.get die
  s.modPkg (fun p => { p with credits := vset p.credits die (Vector.ofFn (fun i => if ready.any (fun r => r.cls == i.val) then c.get i else 0)) })

/-- What of each class could take a free bank of a core, `but` for what has just left it. -/
def State.takers (s : State) (die : Fin 8) (at_ : Nat × Half) (but : Option Nat) : List (Fin 7 × Ready) :=
  let ready := (s.readyOn die).filter (fun r => some r.order != but)
  (List.finRange 7).filterMap (fun c => (firstPlaceable s at_ (ready.filter (fun r => r.cls == c.val)) []).map (fun r => (c, r)))
/-- The choice for a free bank of a core: what is chosen, and the state with the credits changed. -/
def State.choose (die : Fin 8) (at_ : Nat × Half) (but : Option Nat) (s : State) : Option Ready × State :=
  let can := s.takers die at_ but
  if can.isEmpty then (none, s)
  else
    let t := s.raiseCredits die (s.readyOn die)
    match (can.filter (fun p => decide (256 ≤ (t.pkg.credits.get die).get p.1))).getLast? with
    | some (c, r) => (some r, t.modPkg (fun p => { p with credits := vmod p.credits die (fun v => vset v c (v.get c - 256)) }))
    | none => (can.getLast?.map (·.2), t)

/-- The free bank that a die's scheduler chooses for: the modelled core's first, then those of other cores in the order of what is READY
(log 2). -/
def State.choiceCore (s : State) (die : Fin 8) : Option (Nat × Half) :=
  let own : List (Nat × Half) := if die = s.dieFin then [s.ownCore .a, s.ownCore .b] else []
  (distinct (own ++ (s.readyOn die).flatMap (fun r => r.cores s))).find? (fun c => !(s.takers die c none).isEmpty)

/-- What is chosen gets its bank: a spawn's banks are reserved, a parked task comes back. -/
def State.take_ (die : Fin 8) (r : Ready) (s : State) : State :=
  (match r with
  | .spawn x => s.modSpawn x.die x.id (fun x => { x with state := .placing })
  | .parked p => s.unparkGang p).settleCredits die

/-- SCHEDULER_CHOICE (R408). -/
def execSchedulerChoice (die : Fin 8) (s : State) : Host.Outcome State Fault Refusal :=
  .next (match s.choiceCore die with
    | none => s
    | some c =>
      let r := s.choose die c none
      match r.1 with
      | some x => r.2.take_ die x
      | none => r.2)

/-! ## Binding (R192, R194, R407) -/

/-- The state in which a task begins (R194). -/
def State.newTask (s : State) (asid : BitVec 12) (entry args : DWord) (sbm : BitVec 2) (x11 x12 : Nat) (t : Task) : Ctx :=
  let x := vset (vset (vset (Vector.replicate 32 (0 : DWord)) 10 args) 11 (dw x11)) 12 (dw x12)
  { Ctx.reset with
    regs := { Regs.reset with x := x }, pc := align16 entry, ident := s.core.idents, task := some t
    csrs := { Csrs.reset with prv := false, ie := true, sbmode := sbm, asid := asid, rdvEn := t.gang,
                              rdvSize := if t.gang then BitVec.ofNat 16 t.size else 1 } }

/-- The bytes of a staging region (R192), read in aligned words. -/
def State.stageBytes (s : State) (asid : BitVec 12) (va : DWord) (n : Nat) : UnitRead :=
  match s.walkRead asid (dw (va.toNat / 8 * 8)) ((va.toNat % 8 + n + 7) / 8) with
  | .got bs => .got ((bs.drop (va.toNat % 8)).take n)
  | e => e

/-- The banks of a staging region in SCRATCH mode, then its bytes. -/
def State.stageInto (bank : Nat) (bs : List Byte) (s : State) : State :=
  let n := (bs.length + 65535) / 65536
  let s := (List.range n).foldl (fun s i => s.setBank (Fin.ofNat 64 (bank + i)) .scratch) s
  s.sramWrite (bank * 65536) bs
/-- The staging of a spawn's tasks: on the modelled core the regions are copied, and on another one they are read (R407). -/
def State.stageAll (here : Bool) (asid : BitVec 12) : List (DWord × Nat × Nat) → State → Except UnitRead State
  | [], s => .ok s
  | (va, n, bank) :: r, s => match s.stageBytes asid va n with
    | .got bs => State.stageAll here asid r (if here then s.stageInto bank bs else s)
    | e => .error e

/-- A task is bound on its core. -/
def State.bindTask (x : Spawn) (rank : Nat) (s : State) : State :=
  match x.cores[rank]? with
  | none => s
  | some (core, h) =>
    if core = s.coreId.toNat then
      let t : Task := { cls := x.cls, gang := x.gang, size := x.cores.length, rank := rank, done := x.done, spawn := dw x.id, stream := none,
                        allHere := x.cores.all (fun k => k.1 == core),
                        dies := if x.gang then distinct (x.cores.map (fun k => Fin.ofNat 8 (k.1 / 16))) else [], budget := 0, since := 0 }
      let c := s.newTask x.asid x.entry x.args x.sbm rank x.cores.length t
      ((s.modCore (fun k => { k with idents := k.idents + 1 })).enterBank h { c with status := .standby } none).sample s.die 3 s.srcId
        (s.timeNs - x.readyAt)
    else s.emit (.task core h x.id rank)

/-- TASK_START (R192, R407): the staging, then the binding; the tasks of a gang begin together. -/
def execTaskStart (die : Fin 8) (id : Nat) (s : State) : Host.Outcome State Fault Refusal :=
  .next (match s.findSpawn die id with
    | none => s
    | some x =>
      if x.state ≠ .placing then s
      else
        let ranks := if x.gang then List.range x.cores.length else [x.bound]
        let here := ranks.any (fun r => match x.cores[r]? with | some c => c.1 == s.coreId.toNat | none => false)
        let drop (s : State) : State :=
          s.dropData (x.stage.flatMap (fun p => s.walkLines x.asid (dw (p.1.toNat / 8 * 8)) ((p.1.toNat % 8 + p.2.1 + 7) / 8)))
        match State.stageAll here x.asid x.stage s with
        | .error (.waits l) => s.unitAsk l
        | .error .bad => drop (s.failSpawn x 2)
        | .error _ => drop (s.failSpawn x 3)
        | .ok t =>
          let t := ranks.foldl (fun t r => t.bindTask x r) (drop t)
          let t := (t.asHalf .a State.startIdle).asHalf .b State.startIdle
          if x.gang ∨ x.cores.length ≤ x.bound + 1 then t.dropSpawn die id
          else t.modSpawn die id (fun y => { y with state := .ready, bound := y.bound + 1 }))

/-! ## Quanta and YIELD (R117, R412) -/

/-- READY work that waits for a half-core, of a class or higher. -/
def State.workFor (s : State) (h : Half) (cls : Nat) : Bool :=
  (List.finRange 8).any (fun d => (s.readyOn d).any (fun r => decide (cls ≤ r.cls) && (r.cores s).contains (s.ownCore h)))

/-- Whether the running task's quantum has expired (R412). -/
def State.quantumOver (s : State) : Bool :=
  match s.ctx.task with
  | some t =>
    let q := bitsOf (s.dev (devSched s.die (0x40 + 8 * t.cls.val))) 16 16
    t.stream.isNone && s.ctx.status == .running && q != 0 && decide (t.since + 1000 * q ≤ s.nowNs) && s.workFor s.core.active t.cls.val
  | none => false

/-- QUANTUM_EXPIRY (R412): the task is parked at the tail of its class, with its gang (R419). -/
def execQuantumExpiry (hb : Half) (s : State) : Host.Outcome State Fault Refusal :=
  .next (s.asHalf hb (fun s => if s.quantumOver then s.parkRunning else s))

/-- The dies whose schedulers have something READY that the bank of the running context would let be placed. -/
def State.yieldDie (s : State) : Option (Fin 8) :=
  let h := s.core.active
  let t := s.emptyBank h s.sq.running
  (List.finRange 8).find? (fun d => !(t.takers d (s.ownCore h) none).isEmpty)
/-- Whether a YIELD finds other work for its core. -/
def State.canYield (s : State) : Bool := s.canRun (otherBank s.sq.running) || s.yieldDie.isSome

/-- The yielding context is parked; a STANDBY context runs next, else what the scheduler chooses among other work for this core. -/
def State.yieldNow (s : State) : State :=
  let h := s.core.active
  let d := s.yieldDie
  let me := s.pkg.order
  let s := (s.stopRunning).parkBank h s.sq.running
  if s.canRun (otherBank s.sq.running) then s.dispatch
  else match d with
    | none => s
    | some d =>
      let r := s.choose d (s.ownCore h) (some me)
      match r.1 with
      | some x => r.2.take_ d x
      | none => r.2

/-- The service of the running stream ends for its period (R413): the jitter is sampled, and it is parked, or ends where it has
been removed (R313). -/
def State.endServe (s : State) : State :=
  match s.ctx.streamId with
  | none => s
  | some id =>
    let st := s.pkg.streams.find? (fun x => x.id == id)
    let s := s.modPkg (fun p => { p with streams := p.streams.map (fun x => if x.id = id then { x with ready := false } else x) })
    match st with
    | none => s
    | some x =>
      let s := s.sample s.die 5 id.toNat (s.nowNs - (x.next - x.period))
      if x.leaving then s.endIssue.afterTaskend else s.parkRunning

/-- YIELD (R117). -/
def mYield (d : Reg) : Meaning :=
  .once fun _ s =>
    let base (v : DWord) (f : State → State) : Plan := { writes := xw d 1, effs := [(.main, State.launchX 1 d v), (.control, f)] }
    match s.ctx.task with
    | some t =>
      if t.gang ∧ 1 < t.size then base 2 id
      else if t.stream.isSome then base 3 State.endServe
      else if s.canYield then base 1 State.yieldNow
      else base 0 State.indirectly
    | none => if s.canYield then base 1 State.yieldNow else base 0 State.indirectly
def execYield (d : Reg) (s : State) : Host.Outcome State Fault Refusal := issueWord (mYield d) s

/-! ## Streams (R312, R313, R413 to R415) -/

/-- Reason 3 of STRM.ADD. -/
def State.streamBad (s : State) (ws : List Nat) : Bool :=
  let w (i : Nat) : Nat := ws.getD i 0
  let b := fld (w 2) 0 32
  let p := fld (w 2) 32 32
  w 0 % 16 != 0 || b == 0 || decide (p < 1000) || fld (w 3) 22 42 != 0 || fld (w 3) 20 2 == 3 || w 6 != 0 || w 7 != 0 ||
    (flag (w 3) 7 && !s.coreSplit (fld (w 3) 0 7)) || decide (5 * p < 2 * b)

/-- Σ b / (2.5 P) of some streams as a fraction. -/
def utilisation (l : List (Nat × Nat)) : Nat × Nat := l.foldl (fun f x => (f.1 * (5 * x.2) + 2 * x.1 * f.2, f.2 * (5 * x.2))) (0, 1)

/-- The answer of STRM.ADD, and the stream that is admitted. -/
def State.admission (s : State) (ws : List Nat) : DWord × Option Stream :=
  let w (i : Nat) : Nat := ws.getD i 0
  let core : BitVec 7 := BitVec.ofNat 7 (fld (w 3) 0 7)
  let half : Half := if flag (w 3) 7 then .b else .a
  let b := fld (w 2) 0 32
  let p := fld (w 2) 32 32
  let mine := s.pkg.streams.filter (fun x => x.core == core && x.half == half)
  let u := utilisation ((b, p) :: mine.map (fun x => (x.budget, x.period)))
  let split := s.coreSplit core.toNat
  let first := 128 * core.toNat + (if split ∧ half = .b then 64 else 0)
  let slots := (List.range (if split then 64 else 128)).map (· + first)
  let no (r : Nat) : DWord := dw (2 ^ 63 + r)
  if s.streamBad ws then (no 3, none)
  else if 9 * u.2 < 10 * u.1 then (no 1, none)
  else match slots.find? (fun n => !s.pkg.streams.any (fun x => x.id.toNat == n)) with
    | none => (no 2, none)
    | some n =>
      let now := s.nowNs
      let st := w 4
      let next := if st = 0 then now else if st < now then st + (now - st + p) / p * p else st
      (dw n, some { id := BitVec.ofNat 14 n, entry := dw (w 0), args := dw (w 1), budget := b, period := p, core := core, half := half,
                    asid := BitVec.ofNat 12 (fld (w 3) 8 12), sbm := BitVec.ofNat 2 (fld (w 3) 20 2), next := next, done := dw (w 5),
                    leaving := false, ready := false })

/-- The context of an admitted stream, PARKED until its first period. -/
def State.parkStream (x : Stream) (s : State) : State :=
  let s := s.modPkg (fun p => { p with streams := p.streams ++ [x] })
  if x.core ≠ s.coreId then s
  else
    let t : Task := { cls := 7, gang := false, size := 1, rank := x.id.toNat, done := x.done, spawn := 0, stream := some x.id, allHere := true, budget := 0,
                      since := 0 }
    let c := s.newTask x.asid x.entry x.args x.sbm x.id.toNat 1 t
    (s.modCore (fun k => { k with idents := k.idents + 1 })).parkAs x.half 0 c none

/-- STRM.ADD (R312). -/
def mStrmAdd (a : Reg) (d : Reg) : Meaning :=
  .once (supervisor fun e s =>
    let va := s.ctx.x a
    let base : Plan := { reads := xs [a], writes := xw d 1, mem := true }
    if va.toNat % 64 ≠ 0 then { base with effs := [(.main, State.launchX 1 d (dw (2 ^ 63 + 3)))] }
    else match s.readWords e.scope va 8 with
    | (.bad rs, _) => { base with raises := rs }
    | (.waits l n, _) => { base with holds := [.remote], ask := some (State.request l n (.read l n)) }
    | (.got ws, eff) =>
      let r := s.admission ws
      { base with effs := [(.smem, eff), (.main, State.launchX 1 d r.1)] ++ (match r.2 with
          | some x => [(.control, State.parkStream x)]
          | none => []) })
def execStrmAdd (a : Reg) (d : Reg) (s : State) : Host.Outcome State Fault Refusal := issueWord (mStrmAdd a d) s

/-- STRM.DEL (R313). -/
def mStrmDel (a : Reg) (d : Reg) : Meaning :=
  .once (supervisor fun _ s =>
    let x := s.ctx.x a
    let id : BitVec 14 := BitVec.ofNat 14 (bitsOf x 0 14)
    let v : DWord := if bitsOf x 14 50 ≠ 0 then 2 else if s.pkg.streams.any (fun y => y.id == id) then 0 else 1
    abPlan [a] d v (if v = 0 then [(.main, fun s => s.modPkg (fun p => { p with
      streams := p.streams.map (fun y => if y.id = id then { y with leaving := true } else y) }))] else []))
def execStrmDel (a : Reg) (d : Reg) (s : State) : Host.Outcome State Fault Refusal := issueWord (mStrmDel a d) s

/-- A context of a stream, wherever it is held. -/
def State.modStream (id : BitVec 14) (f : Ctx → Ctx) (s : State) : State :=
  let g (c : Ctx) : Ctx := if c.streamId = some id then f c else c
  (s.modAllBanks (fun _ _ c => g c)).modPkg (fun p => { p with parkedCtx := p.parkedCtx.map (fun x => { x with ctx := g x.ctx }) })

/-- A period of a READY stream that was not served in full (R415). -/
def State.missed (x : Stream) (s : State) : State :=
  let id : DWord := x.id.zeroExtend 64
  ((s.bump (devSched (x.core.toNat / 16) 0x88) 1).relEvent (Fin.ofNat 8 (x.core.toNat / 16)) 0xB6 id 0).modStream x.id (fun c => c.setPend 0xBF id)

/-- A removed stream ends at the end of its period (R196, R313): its slot is free, and its context issues no more. Where it does not run,
it ends with STREAM_PERIOD_START too, once its commands have finished. -/
def State.dropStream (x : Stream) (s : State) : State :=
  let s := s.modPkg (fun p => { p with streams := p.streams.filter (fun y => y.id ≠ x.id) })
  if x.core ≠ s.coreId then s
  else
    s.asHalf x.half (fun s =>
      if s.ctx.streamId = some x.id ∧ s.ctx.status ≠ .ended then
        (s.sample s.die 5 x.id.toNat (s.nowNs - (x.next - x.period)) (s.ctx.status == .running)).endIssue.afterTaskend
      else s.modStream x.id (fun c => { c with status := .ended }))

/-- A context of a removed stream that has ended without running: the bank that it stands in, or its parking place; its commands have
finished. -/
def State.endedStream (s : State) (id : BitVec 14) : Option (Sum (Half × Fin 2) ParkedCtx) :=
  let gone (c : Ctx) : Bool := c.streamId == some id && c.status == .ended && s.cmdsDone c.ident
  match s.allBanks.find? (fun p => gone p.2.2 && (s.seqOf p.1).running != p.2.1) with
  | some p => some (.inl (p.1, p.2.1))
  | none => (s.pkg.parkedCtx.find? (fun p => gone p.ctx)).map .inr
/-- Its end (R196): the arrival on DONE in its address space; its bank or its parking place is free. -/
def State.endStream (w : Sum (Half × Fin 2) ParkedCtx) (s : State) : State :=
  match w with
  | .inl (h, b) => s.asHalf h (State.endBank b)
  | .inr p => s.asHalf p.half (fun s =>
    let b := s.sq.running
    let s := match p.ctx.task with | some t => (s.doneArrival t p.ctx.csrs.asid b).depart_ p.half b | none => s
    s.modPkg (fun k => { k with parkedCtx := k.parkedCtx.filter (fun x => x.order ≠ p.order) }))

/-- STREAM_PERIOD_START (R413 to R415): the last period is judged; a removed stream ends; another one is READY with a fresh budget. How
a stream is served on another core is not seen here (log 1). -/
def execStreamPeriodStart (id : BitVec 14) (s : State) : Host.Outcome State Fault Refusal :=
  .next (match s.endedStream id with
    | some w => s.endStream w
    | none => match s.pkg.streams.find? (fun x => x.id == id) with
      | none => s
      | some x =>
        let here := decide (x.core = s.coreId)
        let now := if here then (s.seqOf x.half).now / unitNs else s.timeNs
        if now < x.next then s
        else
          let s := if x.ready then s.missed x else s
          if x.leaving then s.dropStream x
          else
            let s := s.modPkg (fun p => { p with streams := p.streams.map (fun y =>
              if y.id = id then { y with ready := here, next := y.next + y.period } else y) })
            let s := s.modStream id (fun c => { c with task := c.task.map (fun t => { t with budget := x.budget }) })
            if here then s else s.emit (.task x.core.toNat x.half id.toNat 0))

/-- STREAM_BUDGET_EXHAUSTED (R413). -/
def execStreamBudgetExhausted (hb : Half) (s : State) : Host.Outcome State Fault Refusal :=
  .next (s.asHalf hb (fun s => match s.ctx.task with
    | some t => if t.stream.isSome && t.budget == 0 && s.ctx.status == .running then s.endServe else s
    | none => s))
/-- Whether the running stream's budget is used up. -/
def State.budgetOver (s : State) : Bool :=
  match s.ctx.task with
  | some t => t.stream.isSome && t.budget == 0 && s.ctx.status == .running
  | none => false

/-! ## Matrix-side state on demand (R411) -/

/-- MATRIX_STATE_SWITCH (R411, R420): the holder's state is saved if its flag is set, and the running context's is loaded. -/
def execMatrixStateSwitch (s : State) : Host.Outcome State Fault Refusal :=
  .next (if s.matHeldByOther then (s.switchMatrix s.sq.running).freeFreeze else s)

end Sys2Proof.Machine
end

