-- ==== Sys2Proof/Machine/Reliability.lean ====
section
/-! DEFINITION. Asynchronous causes (R109, R427), answers to page faults (R429), migrations (R430 to R432), rewinds (R438, R439), the
counters of corrected errors (R442), the patrol scrubbers (R443), and the modes of a core (R188, R189, R247). -/

namespace Sys2Proof.Machine

/-! ## Asynchronous causes (R109, R116, R427) -/

/-- A change of one bank of the modelled core; half-core B has registers of its own in split mode only. -/
def State.modBankOf (core : Nat) (h : Half) (b : Fin 2) (f : Ctx → Ctx) (s : State) : State :=
  if core = s.coreId.toNat ∧ (h = .a ∨ s.core.split) then s.modSeq h (fun q => q.modBank b f) else s

/-- SET as written: bit 0 from the PCIe endpoint, bit 1 from a core. -/
def Ctx.doorbell (v : Byte) (host : Bool) (c : Ctx) : Ctx :=
  let c := if v.getLsbD 0 && host then c.setPend 0xB8 0 else c
  if v.getLsbD 1 && !host then c.setPend 0xB9 0 else c
/-- PEND as written. -/
def Ctx.clearPend (v : Byte) (c : Ctx) : Ctx := { c with pend := c.pend &&& ~~~v }

/-- ASYNC_SET (R427). -/
def execAsyncSet (core : Fin 128) (hb : Half) (bank : Fin 2) (v : Byte) (host : Bool) (s : State) : Host.Outcome State Fault Refusal :=
  .next (s.modBankOf core.val hb bank (Ctx.doorbell v host))
/-- ASYNC_PEND_CLEAR (R427). -/
def execAsyncPendClear (core : Fin 128) (hb : Half) (bank : Fin 2) (v : Byte) (s : State) : Host.Outcome State Fault Refusal :=
  .next (s.modBankOf core.val hb bank (Ctx.clearPend v))

/-- The cause that a context takes between bundles: the lowest that is pending and enabled, while IE is 1. -/
def Ctx.asyncCause (c : Ctx) : Option Nat :=
  if (c.status = .running ∨ c.status = .halted) ∧ c.csrs.ie then
    ((List.range 8).find? (fun i => (c.pend &&& c.en).getLsbD i)).map (· + 0xB8)
  else none

/-- tval of an asynchronous cause. -/
def State.asyncTval (s : State) (cause : Nat) : DWord :=
  if cause = 0xBA then dw (s.mhz s.die)
  else if cause = 0xBB then s.sq.evdrop
  else if h : 0xBC ≤ cause ∧ cause < 0xC0 then s.ctx.detail.get ⟨cause - 0xBC, by omega⟩
  else 0

/-- The entry of an asynchronous cause: INTRAP does not make it a double trap (R108), a fifth parked set does. -/
def State.takeAsync (cause : Nat) (s : State) : State :=
  let s := s.atIssue
  let tval := s.asyncTval cause
  let s := s.closeSegment.leaveIssue
  let pc := s.ctx.pc
  if s.ctx.parked.length ≥ 4 then (s.modCtx (fun c => c.doubleTrap cause pc)).indirectly.relEvent s.dieFin 0xB7 (dw cause) (dw s.srcId)
  else (s.modCtx (fun c => { c with status := .running })).enterTrap cause tval pc pc

/-- Whether a halted context that is not the running one has a cause to take (R116). -/
def Ctx.roused (c : Ctx) : Bool := c.status == .halted && c.asyncCause.isSome
def State.rousable (s : State) : Bool :=
  (s.sq.banks.get (otherBank s.sq.running)).roused || s.pkg.parkedCtx.any (fun p => p.ctx.roused)
/-- Such a context stands by, and takes the cause as it runs. -/
def State.rouse (s : State) : State :=
  let up (c : Ctx) : Ctx := if c.roused then { c with status := .standby } else c
  (s.modSq (fun q => q.modBank (otherBank q.running) up)).modPkg (fun p => { p with
    parkedCtx := p.parkedCtx.map (fun x => { x with ctx := up x.ctx }) })

/-- ASYNC_CAUSE_TAKEN (R109, R116, R427). -/
def execAsyncCauseTaken (s : State) : Host.Outcome State Fault Refusal :=
  .next (match s.ctx.asyncCause with
    | some c => s.takeAsync c
    | none => s.rouse)

/-! ## Wakes (R116, R470) -/

/-- A wake: the context that a half-core halted last runs on, at the indirect penalty; where one is not halted it is discarded. -/
def State.wakeHalf (h : Half) (s : State) : State :=
  s.asHalf h (fun s =>
    let o := otherBank s.sq.running
    if s.ctx.status = .halted then
      let n := max s.ctx.nextIssue (s.ctx.rc + 1 + s.penalty true s.ctx.pc s.ctx.pc)
      s.modCtx (fun c => { c with status := .running, nextIssue := n })
    else if s.ctx.status ≠ .running ∧ (s.sq.banks.get o).status = .halted then s.startRunning o
    else s)

/-- WAKE (R469, R470). -/
def execWake (core : Fin 128) (s : State) : Host.Outcome State Fault Refusal :=
  .next (if core.val = s.coreId.toNat then s.wakeHalf .a else s.emit (.wake core.val .a))
/-- WAKEB (R469, R470): ignored for a core in protected mode. -/
def execWakeb (core : Fin 128) (s : State) : Host.Outcome State Fault Refusal :=
  .next (if core.val = s.coreId.toNat then (if s.core.split then s.wakeHalf .b else s)
    else if s.coreSplit core.val then s.emit (.wake core.val .b) else s)

/-! ## Answers to page faults (R429) -/

/-- An operation on a bank as if it were the running one. -/
def State.asBank (b : Fin 2) (f : State → State) (s : State) : State :=
  let r := s.sq.running
  (f (s.modSq (fun q => { q with running := b }))).modSq (fun q => { q with running := r })

/-- The bundle after the one at an address, by its LEN; 16 bytes on where its header cannot be fetched. -/
def State.nextOf (s : State) (pc : DWord) : DWord :=
  match s.fetchUnit pc pc with
  | .words ws => pc + dw (16 * (fld (ws.headD 0) 0 2 + 1))
  | _ => pc + 16

/-- The recorded fault is delivered to a bank as a trap. -/
def State.deliverFault (s : State) : State :=
  let c := s.ctx
  let next := s.nextOf c.pc
  if c.doubles then (s.modCtx (fun c => c.doubleTrap c.pfCause.toNat c.pc)).indirectly.relEvent s.dieFin 0xB7 (dw c.pfCause.toNat) (dw s.srcId)
  else
    let s := s.modCtx (fun c => c.enterTrap c.pfCause.toNat c.pfva c.pc next)
    s.modCtx (fun c => { c with nextIssue := c.rc + 1 + s.penalty true c.pc c.pc })

/-- An answered context runs at once, after the switch, unless the other bank runs a stream. -/
def State.runAnswered (b : Fin 2) (s : State) : State :=
  if (s.sq.banks.get b).status ≠ .standby then s
  else if s.sq.running = b then (s.tick bankSwitch).startRunning b
  else if s.ctx.status = .running ∧ s.ctx.streamId.isSome then s
  else s.switchBanks

/-- An answer to a bank's fault. -/
def State.answerFault (h : Half) (b : Fin 2) (deliver : Bool) (s : State) : State :=
  s.asHalf h (fun s =>
    if !(s.sq.banks.get b).pfValid then s
    else
      let s := if deliver then s.asBank b State.deliverFault else s
      (s.modSq (fun q => q.modBank b (fun c => { c with pfValid := false }))).runAnswered b)

/-- PFACK_RETRY (R429). -/
def execPfackRetry (hb : Half) (bank : Fin 2) (s : State) : Host.Outcome State Fault Refusal := .next (s.answerFault hb bank false)
/-- PFACK_DELIVER (R429). -/
def execPfackDeliver (hb : Half) (bank : Fin 2) (s : State) : Host.Outcome State Fault Refusal := .next (s.answerFault hb bank true)

/-! ## Migrations (R430 to R432) -/

/-- Where the leaf of an address stands, whatever it permits, and the size of its page. -/
def State.leafFrom (s : State) (va : Nat) : List (Nat × Nat × Option (Fin 3)) → Loc → Option (Loc × Fin 3)
  | [], _ => none
  | (sh, n, sz) :: rest, table =>
    let at_ := table + 8 * (va / 2 ^ sh % n)
    let e := s.numAt at_ 8
    if !flag e 0 ∨ !s.isHbm table then none
    else if flag e 1 then sz.map (fun z => (at_, z))
    else s.leafFrom va rest (e % 2 ^ 60 / 2 ^ 8 * 2 ^ 8)
def State.leafOf (s : State) (asid : BitVec 12) (va : DWord) : Option (Loc × Fin 3) :=
  let at_ := bitsOf (s.dev 0x018) 16 44 * 2 ^ 16 + 16 * asid.toNat
  let e := s.numAt at_ 8
  if !canonical va ∨ !s.isHbm at_ ∨ !flag e 0 then none else s.leafFrom va.toNat walkLevels (e % 2 ^ 60 / 2 ^ 12 * 2 ^ 12)

/-- The page of an address, at the size of its leaf. -/
def pageOf (va : DWord) (sz : Fin 3) : Nat := va.toNat / pageBytes sz * pageBytes sz
def Migration.isOf (asid : BitVec 12) (page : Nat) (m : Migration) : Bool := m.asid == asid && m.va == page
def State.migrationOf (s : State) (asid : BitVec 12) (page : Nat) : Option Migration := s.pkg.migrations.find? (Migration.isOf asid page)
def State.setMigration (m : Migration) (s : State) : State :=
  s.modPkg (fun p => { p with migrations := p.migrations.filter (fun x => !(x.isOf m.asid m.va)) ++ [m] })

/-- A word written at its home by the device. -/
def State.putWord (l : Loc) (v : Nat) (s : State) : State := s.writeHome none (placed l (leBytes 8 v))

/-- A migration begins: MIG is set, and the page's handles are revoked (R241, R430). -/
def State.startMigration (asid : BitVec 12) (va : DWord) (leaf : Loc) (sz : Fin 3) (s : State) : State :=
  let e := s.numAt leaf 8
  let r := vRange asid va sz.val
  let was := s.migrationOf asid (pageOf va sz)
  let handles (c : Ctx) : Ctx := { c.revoke r with tlb := c.tlb }
  let s := s.putWord leaf (e + (if flag e 12 then 0 else 2 ^ 12))
  let s := ((s.modAllBanks (fun _ _ c => handles c)).revokeCmds (fun _ => true) r).modPkg (fun p => { p with
    parkedCtx := p.parkedCtx.map (fun x => { x with ctx := handles x.ctx }) })
  (s.setMigration { asid := asid, va := pageOf va sz, leaf := leaf, moving := true, held := false, doneAt := was.bind (·.doneAt),
                    leafWord := none }).emit
    (.migration asid va true)

/-- Whether a page's last migration lies less than HOLDOFF behind (R432). -/
def State.heldOff (s : State) (m : Migration) : Bool :=
  match m.doneAt with
  | some t => decide (s.timeNs < t + 1000 * bitsOf (s.dev (devRel (homeDie m.leaf) 0x20)) 0 16)
  | none => false

/-- MIGRATION_REQUEST (R430, R432): the first request sets MIG; another one fails; one within the hold-off is held. -/
def execMigrationRequest (asid : BitVec 12) (va : DWord) (s : State) : Host.Outcome State Fault Refusal :=
  .next (match s.leafOf asid va with
    | none => s.emit (.migration asid va false)
    | some (leaf, sz) =>
      if flag (s.numAt leaf 8) 12 then s.emit (.migration asid va false)
      else match s.migrationOf asid (pageOf va sz) with
        | some m => if s.heldOff m then s.setMigration { m with held := true } else s.startMigration asid va leaf sz
        | none => s.startMigration asid va leaf sz)

/-- MIGRATION_HOLDOFF_EXPIRY (R432). -/
def execMigrationHoldoffExpiry (asid : BitVec 12) (va : DWord) (s : State) : Host.Outcome State Fault Refusal :=
  .next (match s.leafOf asid va with
    | none => s
    | some (leaf, sz) => match s.migrationOf asid (pageOf va sz) with
      | some m => if m.held && !s.heldOff m then s.startMigration asid va leaf sz else s
      | none => s)

/-- A fault with cause 0x68 on a page. -/
def Ctx.waitsOn (r : VRange) (c : Ctx) : Bool := c.pfValid && c.pfCause == 0x68 && r.meets c.pfAsid c.pfva.toNat 1
/-- Every fault with cause 0x68 on a page is answered as CODE 0 (R431). -/
def State.answerMoved (r : VRange) (s : State) : State :=
  let s := s.allBanks.foldl (fun s p => if p.2.2.waitsOn r then s.answerFault p.1 p.2.1 false else s) s
  s.modPkg (fun p => { p with parkedCtx := p.parkedCtx.map (fun x => if x.ctx.waitsOn r then { x with ctx := { x.ctx with pfValid := false } } else x) })

/-- MIGRATION_COMPLETE (R431): the leaf holds its new word with MIG 0, the old translation is shot down, and the faults that wait for
the page are answered; all this once the accesses under the old translation have completed (R241). -/
def execMigrationComplete (asid : BitVec 12) (va : DWord) (leaf : DWord) (s : State) : Host.Outcome State Fault Refusal :=
  .next (match s.leafOf asid va with
    | none => s
    | some (l, sz) => match s.migrationOf asid (pageOf va sz) with
      | none => s
      | some m =>
        if !m.moving then s
        else if s.oldAccesses true (vRange asid va sz.val) then s.setMigration { m with leafWord := some leaf }
        else
          let r := vRange asid va sz.val
          let v := leaf.toNat - (if flag leaf.toNat 12 then 2 ^ 12 else 0)
          let s := ((s.putWord l v).shootdown r).setMigration { m with leaf := l, moving := false, held := false, doneAt := some s.timeNs, leafWord := none }
          s.answerMoved r)

/-! ## Rewinds (R437 to R439) -/

/-- REWIND (R438): it waits for the segment's commands inside the core; with an uncorrectable log word it is taken as 0xA8, reason 3
(R439). -/
def execRewind (bad : Bool) (s : State) : Host.Outcome State Fault Refusal :=
  .next (match s.sq.hold, s.ctx.seg with
    | some (.rewind cause), some g =>
      if s.segBusy then s.waitCycle (.rewind cause)
      else if bad then
        let s := s.cancelHeld.modCtx (fun c => { c with seg := some { g with stores := [], events := [] } })
        s.takeTrap 0xA8 (dw (cause + 256 * 3)) s.ctx.pc (s.nextOf s.ctx.pc)
      else s.rewindNow cause g
    | _, _ => s)

/-! ## Corrected errors and the patrol scrubbers (R442, R443) -/

/-- The key of a source of corrected errors. -/
def errKey : ErrArray → Nat
  | .core a => a.val
  | .channel c => 16 + c.val
/-- 256 corrected errors within a second: the event, and for a core's array cause 0xBE in each of its banks. The count restarts. -/
def State.crossed (src : ErrArray) (s : State) : State :=
  let s := s.modPkg (fun p => { p with errors := terase p.errors (errKey src) })
  match src with
  | .core a => (s.modAllBanks (fun h _ c => if h = .a ∨ s.core.split then c.setPend 0xBE (dw a.val) else c)).relEvent s.dieFin 0xAC
      (dw s.coreId.toNat) (dw a.val)
  | .channel c => s.relEvent (Fin.ofNat 8 (c.val / 2)) 0xAC (dw c.val) 0
/-- One corrected error more; those that lie a second or more behind count no longer. -/
def State.corrected (src : ErrArray) (s : State) : State :=
  let ts := (tget [] s.pkg.errors (errKey src)).filter (fun t => decide (s.timeNs < t + 10 ^ 9)) ++ [s.timeNs]
  if ts.length < 256 then s.modPkg (fun p => { p with errors := tset [] p.errors (errKey src) ts }) else s.crossed src

/-- ERROR_THRESHOLD (R442). -/
def execErrorThreshold (src : ErrArray) (s : State) : Host.Outcome State Fault Refusal := .next (s.crossed src)

/-- Lines of a channel: one channel for each of the two stacks of a die (log 19). -/
def channelLines : Nat := 2 ^ 30
/-- The line that a channel's scrubber reads next; the stacks are interleaved at 256 bytes (R228). -/
def State.scrubLine (s : State) (ch : Fin 16) : Loc :=
  let i := s.pkg.scrub.get ch % channelLines
  s.pkgId * 2 ^ 43 + ch.val / 2 * 2 ^ 37 + i / 4 * 512 + ch.val % 2 * 256 + i % 4 * 64

/-- PATROL_SCRUB_READ (R443): a line that holds a poison marker is uncorrectable, and keeps it. -/
def execPatrolScrubRead (ch : Fin 16) (c : ScrubFind) (s : State) : Host.Outcome State Fault Refusal :=
  let d : Fin 8 := Fin.ofNat 8 (ch.val / 2)
  let l := s.scrubLine ch
  let found : State := match (if s.badLine l then .uncorrectable else c) with
    | .clean => s
    | .corrected raced => (if raced then s else s.bump (devRel d.val 0x08) 1).corrected (.channel ch)
    | .uncorrectable =>
      ((s.modPkg (fun p => { p with poison := distinct (p.poison ++ [l]) })).bump (devRel d.val 0x10) 1).relEvent d 0xAB (dw l) 0
  let next := found.modPkg (fun p => { p with scrub := vmod p.scrub ch (· + 1) })
  let walks (i : Nat) : Nat := next.pkg.scrub.get (Fin.ofNat 16 (2 * d.val + i)) / channelLines
  .next (if (s.dev (devRel d.val 0)).getLsbD 63 then next.setDev (devRel d.val 0x18) (dw (min (walks 0) (walks 1))) else s)

/-! ## Modes of the core (R188, R189, R247) -/

/-- A context of the core is bound: it holds a bank, or is parked. -/
def State.coreBound (s : State) : Bool := s.allBanks.any (fun p => p.2.2.status != .free) || !s.pkg.parkedCtx.isEmpty

/-- Whether ATTICCFG fits split mode (R188). -/
def State.atticFits (s : State) : Bool :=
  let w := s.core.atticcfg.toNat
  (fld w 6 6 == 0 || decide (fld w 0 6 + fld w 6 6 ≤ 32)) && (fld w 23 5 == 0 || decide (32 ≤ fld w 17 6 ∧ fld w 17 6 + fld w 23 5 ≤ 64))

/-- A migration whose move waits for open accesses no longer (R241). -/
def State.migrationDue (s : State) : Option Instr :=
  s.pkg.migrations.findSome? (fun m => m.leafWord.bind (fun w => match s.leafOf m.asid (dw m.va) with
    | some (_, sz) => if s.oldAccesses true (vRange m.asid (dw m.va) sz.val) then none else some (.migrationComplete m.asid (dw m.va) w)
    | none => none))

/-- A write of CMODE: its ERR bit, and SPLIT. A write of the mode in force while a change is pending withdraws the change, which the
spec leaves open (log 96). -/
def State.writeCmode (v : DWord) (s : State) : State :=
  let s := if v.getLsbD 8 then s.modCore (fun k => { k with splitErr := false }) else s
  let want := v.getLsbD 0
  if want = (s.core.split != s.core.splitPend) then s
  else if s.coreBound ∨ (want ∧ !s.atticFits) then s.modCore (fun k => { k with splitErr := true })
  else s.modCore (fun k => { k with splitPend := want != k.split })

/-- CMODE_WRITE (R188). Another core's change is in force at once (log 1). -/
def execCmodeWrite (core : Fin 128) (v : Word) (s : State) : Host.Outcome State Fault Refusal :=
  .next (if core.val = s.coreId.toNat then s.writeCmode (v.zeroExtend 64)
    else s.setDev (devSched (core.val / 16) (0x100 + 8 * (core.val % 16))) (dw (v.toNat % 2)))

/-- A manifest of the new mode (R189). -/
def Manifest.fresh (n : Word) : Manifest := { Manifest.reset with count := n, retired := n }

/-- The state that a change of SPLIT leaves (R189). -/
def State.changeMode (s : State) : State :=
  let s := ((s.asHalf .a (State.cleanCache .a)).asHalf .b (State.cleanCache .b)).modCore (fun k => { k with cache := [] })
  let last : Word := if s.core.split ∧ seqLe s.core.a.man.count s.core.b.man.count then s.core.b.man.count else s.core.a.man.count
  let now := max s.core.a.now s.core.b.now
  let seq (q : Seq) : Seq := { q with man := Manifest.fresh last, ibuf := IBuf.reset, hold := none, waited := 0, now := now }
  let s := s.modCore (fun k => { k with
    a := seq k.a, b := seq k.b, active := .a, split := !k.split, splitPend := false, ranges := [], matHolder := Vector.replicate 2 none
    matSaved := [] })
  s.modMat (fun m => { m with active := Matrix.reset.active, standby := Matrix.reset.standby, records := Matrix.reset.records,
                              swap := Matrix.reset.swap, bins := Matrix.reset.bins })

/-- MODE_CHANGE_IN_FORCE (R188, R189): once every command has finished. -/
def execModeChangeInForce (s : State) : Host.Outcome State Fault Refusal :=
  .next (if s.core.splitPend && s.core.queues.toList.all (fun q => q.cmds.isEmpty) && !s.coreBound then s.changeMode else s)

/-- The RW fields of ATTICCFG. -/
def atticMask : Word := 0x0FFE0FFF
/-- A write of ATTICCFG (R247): both ranges are set to SCRATCH mode. -/
def State.writeAttic (v : Word) (s : State) : State :=
  if s.coreBound then s
  else
    let w := (v &&& atticMask).toNat
    let banks := (List.range (fld w 6 6)).map (· + fld w 0 6) ++ (List.range (fld w 23 5)).map (· + fld w 17 6)
    let s := s.modCore (fun k => { k with atticcfg := v &&& atticMask })
    (banks.filter (fun b => decide (b < 64))).foldl (fun s b => s.setBank (Fin.ofNat 64 b) .scratch) s

/-- ATTICCFG_WRITE (R247). -/
def execAtticcfgWrite (core : Fin 128) (v : Word) (s : State) : Host.Outcome State Fault Refusal :=
  .next (if core.val = s.coreId.toNat then s.writeAttic v
    else s.setDev (devCore core.val 0x40) ((v &&& atticMask).zeroExtend 64))

end Sys2Proof.Machine
end

