-- ==== Sys2Proof/Machine/Package.lean ====
section
/-! DEFINITION. The package's own units: device registers as they are written (R409, R444 to R446, R479), Wayline and root ports (R449
to R453, R460), the host (R457, R458), power (R469), capture units (R471), the event ring (R474), security (R475 to R477), and reset
(R478). -/

namespace Sys2Proof.Machine

/-! ## Which bits of a register are written (R444) -/

/-- Bits lo to lo + n − 1. -/
def field (lo n : Nat) : Nat := (2 ^ n - 1) * 2 ^ lo

/-- RW bits in a die scheduler's block (R409). -/
def schedMask (r : Nat) : Nat :=
  if r = 0x000 then field 12 48 + 1
  else if r = 0x008 then field 0 5
  else if r = 0x018 then field 0 32
  else if r = 0x028 then field 6 54
  else if r = 0x030 then field 0 24
  else if 0x040 ≤ r ∧ r < 0x078 then field 0 8 + field 16 16
  else if r = 0x080 then field 23 37
  else 0
/-- RW bits in an I/O die's block (R460, R462, R463). -/
def ioMask (i r : Nat) : Nat :=
  if r = 0x040 ∨ (i = 1 ∧ r = 0x050) then field 0 2
  else if i = 1 then 0
  else if 0x100 ≤ r ∧ r < 0x180 then (if r % 16 = 0 then field 63 1 + field 44 2 + field 0 17 else field 0 17)
  else if 0x400 ≤ r ∧ r < 0x600 then
    (if r % 32 = 0 then field 63 1 + field 12 48 else if r % 32 = 8 then field 12 48
     else if r % 32 = 16 then field 40 2 + field 32 4 + field 0 32 else field 2 58)
  else if 0x808 ≤ r ∧ r < 0x1000 then field 32 32 + field 0 2
  else 0
/-- RW bits in the package block (R446, R452). -/
def packageMask (r : Nat) : Nat :=
  if r = 0x008 then field 32 4 + field 0 17
  else if r = 0x010 then field 0 18
  else if r = 0x018 then field 16 44
  else if r = 0x020 then field 17 43
  else if r = 0x028 then field 0 32
  else if r = 0x030 then 1
  else if r = 0x038 then field 41 23
  else if 0x1000 ≤ r ∧ r < 0x1800 ∧ r % 16 = 0 then field 61 1
  else 0
/-- RW bits of a compute die's block: routing (R362) and reliability (R443). -/
def dieMask (r : Nat) : Nat :=
  if r < 0x1000 then schedMask r
  else if r = 0x1000 ∨ r = 0x1020 then field 0 60
  else if r = 0x1028 then field 0 24
  else if r = 0x2000 then field 63 1 + field 0 32
  else if r = 0x2020 then field 0 16
  else 0
/-- RW bits of the power, capture and event blocks (R469, R471, R474). -/
def monitorMask (off : Nat) : Nat :=
  if off = devPower 0 then field 0 13
  else if 0xC00100000 ≤ off ∧ off < 0xC00108000 then
    (if off % 0x1000 < 0x800 ∧ off % 64 = 0 then field 63 1 + field 8 16 + field 0 4 else 0)
  else if off = devRing 0 then field 12 48
  else if off = devRing 8 then field 0 5
  else if off = devRing 0x10 then field 0 32
  else 0
/-- The bits of a register with no behaviour of its own that a write changes. -/
def devMask (off : Nat) : Nat :=
  if off < 0x2000 then packageMask off
  else if 0x100000000 ≤ off ∧ off < 0x108000000 then dieMask ((off - 0x100000000) % 0x1000000)
  else if 0x900000000 ≤ off ∧ off < 0x902000000 then ioMask ((off - 0x900000000) / 0x1000000) ((off - 0x900000000) % 0x1000000)
  else monitorMask off

/-- Whether a write leaves a register as it is: while a context is bound (R446), with a value that the register does not take (R409,
R474), or in a queue registration in use (R463). -/
def State.devIgnores (s : State) (off : Nat) (new : DWord) : Bool :=
  if off < 0x038 ∧ off ≠ 0x028 then s.coreBound
  else if off = devSched 0 8 then !decide (6 ≤ new.toNat ∧ new.toNat ≤ 16)
  else if off = devRing 8 then !decide (8 ≤ new.toNat ∧ new.toNat ≤ 20)
  else if devIo 0 + 0x400 ≤ off ∧ off < devIo 0 + 0x600 then
    let v := devIo 0 + 0x400 + (off - (devIo 0 + 0x400)) / 32 * 32
    (s.dev v).getLsbD 63 && (off != v || new.getLsbD 63)
  else false

/-- A write to a register with no behaviour of its own. -/
def State.writePlain (off : Nat) (v written : DWord) (s : State) : State :=
  let m : DWord := dw (devMask off) &&& written
  let old := s.dev off
  let new := (old &&& ~~~m) ||| (v &&& m)
  if s.devIgnores off new then s
  else if devIo 0 + 0x400 ≤ off ∧ off < devIo 0 + 0x600 ∧ old.getLsbD 63 then s.setDev off (old &&& dw (field 0 63))
  else s.setDev off new

/-! ## Registers that do something (R188, R247, R362, R427, R429, R460, R469, R471, R476) -/

/-- POOLLIM declares the pool (R362). -/
def State.writePool (d : Nat) (v : DWord) (s : State) : State :=
  let n := dw (bitsOf v 0 20)
  (s.setDev (devRouting d 0x08) n).setDev (devRouting d 0x10) n
/-- POOLLIM_WRITE (R362). -/
def execPoollimWrite (die : Fin 8) (v : DWord) (s : State) : Host.Outcome State Fault Refusal := .next (s.writePool die.val v)

/-- A capture unit starts again (R471). -/
def State.clearUnit (d u : Nat) (s : State) : State :=
  let z := ((s.setDev (devCapture d u 8) (dw (2 ^ 64 - 1))).setDev (devCapture d u 16) 0).setDev (devCapture d u 24) 0
  ([0x20, 0x28, 0x30, 0x38] : List Nat).foldl (fun s r => s.setDev (devCapture d u r) 0) z
/-- CAPTURE_CLEAR (R471). -/
def execCaptureClear (die : Fin 8) (u : Fin 32) (s : State) : Host.Outcome State Fault Refusal := .next (s.clearUnit die.val u.val)

/-- A root port's link stops passing traffic. -/
def State.linkDown (p : Nat) (s : State) : State := s.setDev (portReg p + 8) 0
/-- PORT_RETRAIN (R460): the link trains again, and is down until it has. -/
def execPortRetrain (port : Fin 3) (s : State) : Host.Outcome State Fault Refusal :=
  .next ((s.linkDown (port.val + 1)).emit (.link (port.val + 1)))
/-- ROOT_PORT_LINK_TRAINED (R460): in the mode that PORTMODE gives; a disabled port has no link. -/
def execRootPortLinkTrained (port : Fin 3) (speed : Fin 7) (width : Fin 17) (s : State) : Host.Outcome State Fault Refusal :=
  let p := port.val + 1
  let m : Fin 3 := Fin.ofNat 3 (bitsOf (s.dev (portReg p)) 0 2 % 3)
  let t := s.modPkg (fun k => { k with portMode := vset k.portMode port m })
  .next (if m = 0 then t.linkDown p else t.setDev (portReg p + 8) (dw (2 ^ 63 + speed.val * 256 + width.val)))
/-- ROOT_PORT_LINK_DOWN (R460). -/
def execRootPortLinkDown (port : Fin 3) (s : State) : Host.Outcome State Fault Refusal := .next (s.linkDown (port.val + 1))

/-- Attestation: the words written, and the nonce submitted. -/
def nonceByte (l : List Byte) (i : Nat) : Byte := l.getD i 0
def State.writeNonce (i : Nat) (w : DWord) (s : State) : State :=
  s.modPkg (fun p => { p with nonce := (List.range 64).map (fun k =>
    if 8 * i ≤ k ∧ k < 8 * i + 8 then BitVec.ofNat 8 (bitsOf w (8 * (k - 8 * i)) 8) else nonceByte p.nonce k) })
/-- The write of the last word submits the request: BUSY, and READY is cleared (R476, R477). -/
def State.submitNonce (w : DWord) (s : State) : State :=
  let s := (s.writeNonce 3 w).modPkg (fun p => { p with nonce := p.nonce.take 32 ++ p.nonce.take 32 })
  s.setDev (devSec 0x40) (dw (2 ^ 63 + bitsOf (s.dev (devSec 0x40)) 0 32))
/-- ATTESTATION_REQUEST (R476). -/
def execAttestationRequest (w : DWord) (s : State) : Host.Outcome State Fault Refusal := .next (s.submitNonce w)

/-- The bytes of a report (R477); digests and signature are free (log 13). -/
def State.reportBytes (s : State) (count : Nat) : List Byte :=
  let free (lo n : Nat) : List Byte := (List.range n).map (fun i => Config.cryptoByte s.fresh (lo + i))
  free 0 192 ++ leBytes 8 (s.pkgId + bitsOf (s.dev (devSec 8)) 0 32 * 2 ^ 32) ++ (s.pkg.nonce.drop 32).take 32 ++ leBytes 8 count ++
    List.replicate 16 0 ++ free 192 1280
/-- ATTESTATION_REPORT_DONE (R476, R477). -/
def execAttestationReportDone (s : State) : Host.Outcome State Fault Refusal :=
  let r := s.dev (devSec 0x40)
  .next (if !r.getLsbD 63 then s
  else
    let n := (bitsOf r 0 32 + 1) % 2 ^ 32
    let ws := ((pieces 8 192 (s.reportBytes n)).map leNat).zipIdx
    (ws.foldl (fun s p => s.setDev (devSec (0x4000 + 8 * p.2)) (dw p.1)) (s.setDev (devSec 0x40) (dw (2 ^ 62 + n)))).drawn)

/-- A higher security version is fused (R477). -/
def State.raiseVersion (v : Word) (s : State) : State :=
  if bitsOf (s.dev (devSec 8)) 0 32 < v.toNat then s.setDev (devSec 8) (v.zeroExtend 64) else s
/-- SVRAISE (R477): from management firmware alone. -/
def execSvraise (v : Word) (firmware : Bool) (s : State) : Host.Outcome State Fault Refusal :=
  .next (if firmware then s.raiseVersion v else s)

/-- Wakes that a word of WAKE or WAKEB brings, from a core up (R469). -/
def State.wakeWord (first : Nat) (h : Half) (v : DWord) (s : State) : State :=
  (List.range 64).foldl (fun s i =>
    if v.getLsbD i then
      (if first + i = s.coreId.toNat then (if h = .b ∧ !s.core.split then s else s.wakeHalf h)
       else if h = .b ∧ !s.coreSplit (first + i) then s else s.emit (.wake (first + i) h))
    else s) s

/-- A write to a bank's ASYNC register (R427). -/
def Ctx.writeAsync (v written : DWord) (host : Bool) (c : Ctx) : Ctx :=
  let b (lo : Nat) : Byte := BitVec.ofNat 8 (bitsOf (v &&& written) lo 8)
  let m : Byte := BitVec.ofNat 8 (bitsOf written 0 8)
  ((({ c with en := (c.en &&& ~~~m) ||| (b 0 &&& m) } : Ctx).clearPend (b 8))).doorbell (b 16) host

/-- A write in one sequencer's part of the core's block (R247, R427, R429). -/
def State.writeSeqReg (h : Half) (r : Nat) (v written : DWord) (host : Bool) (s : State) : State :=
  let x := v &&& written
  if r = 0x068 then s.modSeq h (fun q => q.modBank 0 (Ctx.writeAsync v written host))
  else if r = 0x070 then s.modSeq h (fun q => q.modBank 1 (Ctx.writeAsync v written host))
  else if r = 0x0A0 ∧ written.getLsbD 0 then
    (if bitsOf x 0 2 < 2 then s.answerFault h (if x.getLsbD 8 then 1 else 0) (bitsOf x 0 2 == 1) else s)
  else if r = 0x0A8 ∧ written.getLsbD 0 then s.modCore (fun k => { k with fsw := vset k.fsw (halfIdx h) (x.getLsbD 0) })
  else s
/-- A write in the modelled core's block; half-core B's part is there in split mode. -/
def State.writeCoreReg (r : Nat) (v written : DWord) (host : Bool) (s : State) : State :=
  if r = 0x040 then s.writeAttic (wd (bitsOf ((v &&& written) ||| (s.core.atticcfg.zeroExtend 64 &&& ~~~written)) 0 32))
  else if r < 0x100 then s.writeSeqReg .a r v written host
  else if r < 0x200 ∧ s.core.split then s.writeSeqReg .b (r - 0x100) v written host
  else s

/-- A change of the ports that carry traffic (R451): what a port that no longer does so has lost is sent again, and what waits for one
leaves. -/
def State.portChange (p : Fin 128) (was : Bool) (s : State) : State :=
  if was && !s.portUsable p then s.portLost p else if !was && s.portUsable p then s.leaveWaiting else s
/-- The Wayline port whose register stands at an offset. -/
def portAt (off : Nat) : Option (Fin 128) :=
  if 0x1000 ≤ off ∧ off < 0x1800 ∧ off % 16 = 0 then some (Fin.ofNat 128 ((off - 0x1000) / 16)) else none

/-- Registers whose writes act: PORTMODE with RETRAIN, EN of a Wayline port, a capture unit with CLR. -/
def State.writeActing (off : Nat) (v written : DWord) (s : State) : State :=
  let x := v &&& written
  let port : Option Nat := if off = portReg 1 then some 1 else if off = portReg 2 then some 2 else if off = portReg 3 then some 3 else none
  match port with
  | some p =>
    let s := s.writePlain off v written
    if x.getLsbD 2 then (s.linkDown p).emit (.link p) else s
  | none =>
    let t := s
    let s := s.writePlain off v written
    let s := match portAt off with | some p => s.portChange p (t.portUsable p) | none => s
    if 0xC00100000 ≤ off ∧ off < 0xC00108000 ∧ off % 0x1000 < 0x800 ∧ off % 64 = 0 ∧ x.getLsbD 62 then
      s.clearUnit ((off - 0xC00100000) / 0x1000) (off % 0x1000 / 64)
    else s

/-- A write to a register by its offset (R444): `written` are the bits that the access reaches. -/
def State.writeReg (off : Nat) (v written : DWord) (host : Bool) (s : State) : State :=
  let blk := devCore s.coreId.toNat 0
  let die := (off - 0x100000000) / 0x1000000
  let inDie := decide (0x100000000 ≤ off ∧ off < 0x108000000)
  let r := (off - 0x100000000) % 0x1000000
  if blk ≤ off ∧ off < blk + 0x1000 then s.writeCoreReg (off - blk) v written host
  else if off = devSched s.die (0x100 + 8 * (s.coreId.toNat % 16)) then s.writeCmode ((v &&& written) ||| (s.cmode &&& ~~~written &&& 1))
  else if inDie ∧ 0x100 ≤ r ∧ r < 0x180 then s.setDev off (dw (bitsOf ((v &&& written) ||| (s.dev off &&& ~~~written)) 0 1))
  else if inDie ∧ 0x200000 ≤ r ∧ r < 0x210000 then
    (if r % 0x1000 = 0x40 then s.setDev off (((v &&& written) ||| (s.dev off &&& ~~~written)) &&& atticMask.zeroExtend 64) else s)
  else if inDie ∧ r = 0x1008 then s.writePool die ((v &&& written) ||| (s.dev off &&& ~~~written))
  else if off = devPower 0x50 then s.wakeWord 0 .a (v &&& written)
  else if off = devPower 0x58 then s.wakeWord 64 .a (v &&& written)
  else if off = devPower 0x60 then s.wakeWord 0 .b (v &&& written)
  else if off = devPower 0x68 then s.wakeWord 64 .b (v &&& written)
  else if devSec 0x20 ≤ off ∧ off < devSec 0x38 then s.writeNonce ((off - devSec 0x20) / 8) v
  else if off = devSec 0x38 then s.submitNonce v
  else s.writeActing (devHome off) v written

/-- A 4 B or 8 B write to the device range (R444); ATTREQ takes 8 B alone, and in recovery the security block is all there is (R475,
R479). -/
def State.writeDevice (off : Nat) (wide : Bool) (v : DWord) (host : Bool) (s : State) : State :=
  let r := off / 8 * 8
  if isEcam off then s.emit (.write (placed (s.pkgId * 2 ^ 43 + 0x7F000000000 + off) (leBytes (if wide then 8 else 4) v.toNat)) .package false)
  else if bitsOf (s.dev (devSec 0)) 0 4 ≠ 0 ∧ ¬ (devSec 0 ≤ off ∧ off < devSec 0x10000) then s
  else if wide then s.writeReg r v (BitVec.allOnes 64) host
  else if only8 r then s
  else if off % 8 = 4 then s.writeReg r (v <<< 32) (dw (field 32 32)) host
  else s.writeReg r v (dw (field 0 32)) host

/-- DEVICE_REGISTER_WRITE (R444). -/
def execDeviceRegisterWrite (off : Nat) (wide : Bool) (v : DWord) (host : Bool) (s : State) : Host.Outcome State Fault Refusal :=
  .next (s.writeDevice off wide v host)

/-! ## Wayline ports (R449 to R453) -/

/-- WAYLINE_FLIT (R450): a flit that fails its CRC is sent again. -/
def execWaylineFlit (port : Fin 128) (ok : Bool) (s : State) : Host.Outcome State Fault Refusal :=
  .next (if ok then s else s.bump (devPort port.val 8) 1)
/-- PORT_DOWN (R451): what was lost with the port is sent again, with its tags, and is applied once. -/
def execPortDown (port : Fin 128) (s : State) : Host.Outcome State Fault Refusal :=
  .next ((s.setDev (devPort port.val 0) (s.dev (devPort port.val 0) &&& dw (field 0 63))).portChange port (s.portUsable port))
/-- PORT_UP (R449, R452). -/
def execPortUp (port : Fin 128) (peer : BitVec 17) (atom : Bool) (s : State) : Host.Outcome State Fault Refusal :=
  let en := bitsOf (s.dev (devPort port.val 0)) 61 1
  let p := if (s.dev 0x030).getLsbD 0 then peer.toNat else 0x1FFFF
  .next ((s.setDev (devPort port.val 0) (dw (2 ^ 63 + atom.toNat * 2 ^ 62 + en * 2 ^ 61 + p))).portChange port (s.portUsable port))

/-! ## The host (R457, R458) -/

/-- HOST_WRITE (R254, R458). -/
def execHostWrite (off : Nat) (bytes : List Byte) (s : State) : Host.Outcome State Fault Refusal :=
  if 2 ^ 40 < off + bytes.length then .fault .outsideMemory
  else .next (s.writeHome none (placed (s.pkgId * 2 ^ 43 + off) bytes))
/-- HOST_READ (R458). -/
def execHostRead (off : Nat) (n : Nat) (s : State) : Host.Outcome State Fault Refusal :=
  if 2 ^ 40 < off + n then .fault .outsideMemory
  else .next (s.emit (.hostData (s.bytesAt (s.pkgId * 2 ^ 43 + off) n)))

/-! ## Power (R469) -/

/-- The clock of a step in MHz. -/
def stepMhz (n : Fin 11) : Nat := 2500 - 125 * n.val
/-- The dies of the gangs that have a task on the modelled core. -/
def State.gangDies (s : State) : List (Fin 8) :=
  let dies (c : Ctx) : List (Fin 8) := match c.task with | some t => t.dies | none => []
  distinct (s.allBanks.flatMap (fun p => dies p.2.2) ++ s.pkg.parkedCtx.flatMap (fun p => dies p.ctx))
/-- The clock in MHz that a die takes: on the dies of those gangs, which all have a task on the modelled core's die, the lowest step
among them. -/
def gangMhz (g : List (Fin 8)) (step : Vector (Fin 11) 8) (d : Fin 8) : Nat :=
  if g.contains d then (g.map (fun e => stepMhz (step.get e))).foldl min (stepMhz (step.get d)) else stepMhz (step.get d)
/-- One die takes its grant and its step. -/
def State.grantDie (d grant mhz : Nat) (s : State) : State :=
  let changed := s.mhz d ≠ mhz
  let s := (s.setDev (devPower (8 + 8 * d)) (dw (grant + mhz * 2 ^ 16))).sample d 6 (0x8000 + d) grant
  let s := if mhz < 2500 then s.bump (devPower 0x48) 1 else s
  if changed ∧ d = s.die then s.modAllBanks (fun h _ c => if h = .a ∨ s.core.split then c.setPend 0xBA 0 else c) else s
/-- POWER_GRANT (R469): grants beyond BUDGET are none. -/
def execPowerGrant (grant : Vector (BitVec 16) 8) (step : Vector (Fin 11) 8) (s : State) : Host.Outcome State Fault Refusal :=
  .next (if min (bitsOf (s.dev (devPower 0)) 0 13) 5000 < (grant.toList.map (·.toNat)).sum then s
  else (List.finRange 8).foldl (fun s d => s.grantDie d.val (grant.get d).toNat (gangMhz s.gangDies step d)) s)

/-! ## The event ring (R473, R474) -/

/-- A record of 32 bytes. -/
def Event.bytes (e : Event) : List Byte :=
  leBytes 8 e.stamp ++ leBytes 8 (e.src % 2 ^ 16 + e.cause.toNat * 2 ^ 16 + e.code.toNat * 2 ^ 32) ++ leBytes 8 e.p0.toNat ++ leBytes 8 e.p1.toNat

/-- The record at EVTAIL, and MSI-X vector 0 as EVTAIL passes EVHEAD. -/
def State.ringWrite (e : Event) (s : State) : State :=
  let head := bitsOf (s.dev (devRing 0x10)) 0 32
  let tail := bitsOf (s.dev (devRing 0x18)) 0 32
  let l := bitsOf (s.dev (devRing 0)) 12 48 * 2 ^ 12 + 32 * (tail % 2 ^ bitsOf (s.dev (devRing 8)) 0 5)
  let s := (s.sendWrite none .package (placed l e.bytes)).setDev (devRing 0x18) (dw ((tail + 1) % 2 ^ 32))
  if head = tail then s.emit (.msix 0) else s
/-- Whether the ring is full. -/
def State.ringFull (s : State) : Bool :=
  decide (2 ^ bitsOf (s.dev (devRing 8)) 0 5 ≤ (bitsOf (s.dev (devRing 0x18)) 0 32 + 2 ^ 32 - bitsOf (s.dev (devRing 0x10)) 0 32) % 2 ^ 32)

/-- EVENT_DELIVERY (R474): the first event that a source holds. -/
def execEventDelivery (src : EventSource) (s : State) : Host.Outcome State Fault Refusal :=
  .next (if s.ringFull then s
  else match src with
    | .core hb => match (s.seqOf hb).events with
      | e :: r => (s.ringWrite e).modSeq hb (fun q => { q with events := r })
      | [] => s
    | .die d => match s.pkg.revents.get d with
      | e :: r => (s.ringWrite e).modPkg (fun p => { p with revents := vset p.revents d r })
      | [] => s)

/-! ## Reset (R475, R478, R479) -/

/-- RESET (R478): the boot ROM accepts the image, or leaves the device in recovery (R475). The fuses, the package's id and the memory
behind the cellar's ports outlast it. -/
def execReset (signed : Bool) (ver : Word) (s : State) : Host.Outcome State Fault Refusal :=
  let fused := s.dev (devSec 8)
  let why := if !signed then 1 else if ver.toNat < bitsOf fused 0 32 then 2 else 0
  let t : State := { State.reset with coreId := s.coreId, agenda := s.agenda, out := s.out, fresh := s.fresh }
  let t := (t.modPkg (fun p => { p with cellar := s.pkg.cellar, poison := s.pkg.poison.filter (fun l => decide (l ≥ cellarBase)) })).setDev (devSec 8) fused
  .next (if why = 0 then (t.setDev 0 (dw s.pkgId)).setDev 0x008 (dw s.pkgId) else t.setDev (devSec 0) (dw why))

end Sys2Proof.Machine
end

