-- ==== Sys2Proof/Machine/Requests.lean ====
section
/-! DEFINITION. What arrives: at the home slices of the package (R252, R275, R276, R283), at the core's manifest (R277, R278), and at the
waiting core or command (R18, R232, R255, R258, R284, R447, R456). -/

namespace Sys2Proof.Machine

/-! ## At a home slice (R252, R275, R276, R283, R451) -/

/-- Whether a location is homed here. -/
def State.homed (s : State) (l : Loc) : Bool := s.region true l == .hbm || s.region true l == .cellar

/-- A request is applied, unless its tag has come before: then the first answer is given again (R451). -/
def State.firstTime (who : Agent) (tag : Nat) (f : State → State) (s : State) : State :=
  match s.answeredBefore who tag with
  | some a => s.emit (.respond who tag a)
  | none => f s

/-- The answer to an atomic: where no usable port leads to the requester, the home reports that it cannot be delivered (R456, log 100). -/
def State.respondAtomic (who : Agent) (tag : Nat) (l : Loc) (a : HomeResp) (s : State) : State :=
  let t := s.respond who tag a
  if who.pkg.toNat ≠ s.pkgId ∧ (s.portFor who.pkg.toNat (who.pkg.toNat, l / 64)).isNone then
    t.relEvent (Fin.ofNat 8 (homeDie l)) 0xAE (dw l) 0x74
  else t

/-- HOME_REQUEST (R252, R254, R264, R275). -/
def execHomeRequest (r : LineReq) (s : State) : Host.Outcome State Fault Refusal :=
  let l := lineOf r.pa
  .next (if !s.homed l then s
  else s.firstTime r.who r.tag (fun s =>
    let t := s.l2Req l r.hint
    if r.write = [] then t.respond r.who r.tag (.data (s.bytesAt l 64) (s.badLine l))
    else ((t.writeHome none (r.write.filter (fun p => lineOf p.1 == l))).markPoison (if r.bad then [l] else [])).respond r.who r.tag .ack))

/-- What another package's engine asks of an expert that is homed here (R365, R366): EXBIND; EXREL, whose answer is 0 where it is done, 1
where it fails, 2 where rows are parked; and whether rows are parked. -/
def State.expertAsked (what : Fin 3) (desc : List Byte) (s : State) : DWord × State :=
  if what = 0 then s.bind (expertDesc desc)
  else match expertDesc desc with
    | none => (1, s)
    | some x => match s.ertAt x.entry with
      | none => (1, s)
      | some l =>
        if (s.ert l).parked ≠ 0 then (2, s)
        else if what = 2 then (0, s)
        else let r := s.unbind x l; (if r.1 then 0 else 1, r.2)

/-- HOME_ATOMIC (R275, R283, R285, R298, R362): a release names its SEQ. -/
def execHomeAtomic (who : Tagged Agent) (op : HomeOp) (pa : Nat) (sc : Scope) (rel : Option Word) (s : State) :
    Host.Outcome State Fault Refusal :=
  .next (if !s.homed pa then s
  else s.firstTime who.val who.tag (fun s =>
    let t := s.l2Req (lineOf pa) 0
    if homeReads op ∧ t.badLine pa then t.respondAtomic who.val who.tag pa .uncorrectable
    else
      let r := match op with
        | .claim cap d plist rb => t.claimAt cap d plist rb pa
        | .expert what desc => t.expertAsked what desc
        | _ => t.homeDo none op pa (rel.map (fun q => { who := who.val, q := q, scope := sc }))
      r.2.respondAtomic who.val who.tag pa (.value r.1)))

/-- ACQP_HOME_RESOLVE (R276). -/
def execAcqpHomeResolve (who : Tagged Agent) (pa : Nat) (sc : Scope) (s : State) : Host.Outcome State Fault Refusal :=
  let line := lineOf pa
  .next (if !s.homed pa then s
  else s.firstTime who.val who.tag (fun s =>
    let t := s.l2Req line 0
    let v := dw (s.numAt pa 8)
    if s.badLine line then t.respondAtomic who.val who.tag pa .uncorrectable
    else match s.acqpRequest who.val sc line with
      | none => t.respondAtomic who.val who.tag pa (.value v)
      | some r => t.askPromotion who.val who.tag line r sc v))

/-- PROMOTION_REQUEST (R277). -/
def execPromotionRequest (hb : Half) (line : Nat) (q : Word) (sc : Scope) (s : State) : Host.Outcome State Fault Refusal :=
  .next (s.promotionArrives hb (lineOf line) q sc)

/-- Whether the service of the half-core at issue can end: at fabric scope once its writes are acknowledged (R277). -/
def State.serviceEnds (s : State) : Bool :=
  match s.sq.man.service with
  | some r => !(r.scope == .fabric && s.unacked s.core.active)
  | none => false
/-- The half-core whose service can end. -/
def State.endingService (s : State) : Option Half :=
  let o : Half := if s.core.active = .a then .b else .a
  if s.serviceEnds then some s.core.active
  else if (s.modCore (fun k => { k with active := o })).serviceEnds then some o
  else none

/-- PROMOTION_SERVICE_END (R277 to R279). -/
def execPromotionServiceEnd (s : State) : Host.Outcome State Fault Refusal :=
  .next (match s.endingService with
    | some h => s.asHalf h State.endService
    | none => s)

/-- PROMOTION_ANSWER (R275, R276). -/
def execPromotionAnswer (line : Nat) (to_ : Promoted) (s : State) : Host.Outcome State Fault Refusal :=
  .next (s.promotionAnswered (lineOf line) to_.q to_.scope).unbar

/-! ## At the core: code and translations (R232, R258, R259) -/

/-- A code line leaves the L1I, or the middle level and with it the L1I (R258). -/
def State.dropL1i (line : Loc) (s : State) : State := s.modCore (fun c => { c with l1i := c.l1i.filter (fun y => y.line != line) })
def State.dropMid (line : Loc) (s : State) : State :=
  (s.modPkg (fun p => { p with mid := p.mid.filter (fun y => y.line != line) })).dropL1i line

/-- FETCH_LINE_ARRIVAL (R258, R259): a line fetched ahead, on the path that is executed or on the alternative one. A copy that is
uncorrectable in the L1I or in the middle level is fetched from the next. A line of another package is asked for only by the bundle that
lies in it (log 7). -/
def execFetchLineArrival (va : DWord) (how : FetchAhead) (s : State) : Host.Outcome State Fault Refusal :=
  .next (match s.codeLoc va with
    | .error _ => s
    | .ok l =>
      let s := if how.l1Bad then s.dropL1i (lineOf l) else s
      let s := if how.midBad then s.dropMid (lineOf l) else s
      s.bringLine (if how.alt then otherPath s.sq.ibuf.path else s.sq.ibuf.path) false va)

/-- PAGE_TABLE_WALK (R232, R237): a translation is kept; a faulting outcome is reported by the bundle that meets it. -/
def execPageTableWalk (va : DWord) (k : AccessKind) (s : State) : Host.Outcome State Fault Refusal :=
  .next (match s.walk s.ctx.csrs.asid va k.need (!s.ctx.csrs.prv) with
    | .ok t => s.tlbFill va t
    | .error _ => s)

/-! ## Answers (R255, R284 to R286, R448, R472) -/

/-- Whether a flight has a lane that waits for the answer to a tag, and no lane that waits for another. -/
def Flight.endsWith (tag : Nat) (f : Flight) : Bool :=
  match f.w with
  | .landing _ _ _ _ ls _ =>
    let open_ := ls.filter (fun k => k.got.isNone)
    open_.any (fun k => k.tag == tag) && open_.all (fun k => k.tag == tag)
  | _ => false
/-- The cycles from the issue of a remote load to its last data, which comes now (R472). -/
def State.loadCycles (s : State) (r : Request) : Option (Half × Nat) :=
  s.allBanks.findSome? (fun (h, b, c) =>
    let q := s.seqOf h
    let here := q.running == b
    match r.who with
    | .context id => if c.ident = id ∧ here then some (h, q.waited) else none
    | .landing id _ =>
      if c.ident ≠ id then none
      else (c.flights.find? (Flight.endsWith r.tag)).map (fun f =>
        (h, c.rc - f.issued + (if here ∧ q.hold = some .landing then q.waited else 0)))
    | _ => none)
/-- The latency of a remote load is sampled as its data comes (R472). -/
def State.sampleLoad (r : Request) (s : State) : State :=
  match s.loadCycles r with
  | some (h, n) => s.asHalf h (fun s => s.sample s.die 4 s.srcId (n * s.cycleUnits / unitNs))
  | none => s

/-- The bytes that a request for a read asks for have come: a line that a landing has asked for at scope core stands in the core cache
from now on (R244). -/
def State.dataComes (r : Request) (bytes : List Byte) (bad : Bool) (s : State) : State :=
  match r.what with
  | .read l n =>
    if bytes.length ≠ n then s
    else
      let s := s.sampleLoad r
      let s := match r.who with
        | .landing _ (some h) => s.fillWith h l 0 bytes bad
        | _ => s
      s.answerReq r.tag (.data bytes bad)
  | _ => s

/-- The request of a tag. -/
def State.request? (s : State) (tag : Nat) : Option Request := s.pkg.requests.find? (fun r => r.tag == tag)

/-- SCALAR_MISS_FILL (R18, R254): the bytes of a load that waits, or that they are uncorrectable. -/
def execScalarMissFill (bytes : Tagged (List Byte)) (bad : Bool) (s : State) : Host.Outcome State Fault Refusal :=
  .next (match s.request? bytes.tag with
    | some r => (match r.who with
      | .context _ => s.dataComes r bytes.val bad
      | _ => s)
    | none => s)

/-- LANDING_DATA_ARRIVAL (R255): the data waits in its landing buffer entry, or ends the freeze; that of a context which is stopped is
held with it (R416). -/
def execLandingDataArrival (tag : Nat) (bytes : List Byte) (bad : Bool) (s : State) : Host.Outcome State Fault Refusal :=
  .next (match s.request? tag with
    | some r => (match r.who with
      | .landing .. => s.dataComes r bytes bad
      | _ => s)
    | none => s)

/-- The record of a routed row reaches its ROUTE (R361). -/
def State.rowBack (r : Request) (rec_ : DWord) (s : State) : State :=
  match r.who with
  | .command q n (some item) =>
    let s := s.dropReq r.tag
    (match s.liveCmd q n with
    | some c => match c.job with
      | .route _ dst _ _ _ => s.rowAnswered q n item rec_ (placeLoc s.die dst (64 * (item / 8) + 8 * (item % 8) : Nat))
      | _ => s
    | none => s).unbar
  | _ => s

/-- HOME_RESPONSE_ARRIVAL (R284 to R286, R361, R451). -/
def execHomeResponseArrival (r : Tagged HomeResp) (s : State) : Host.Outcome State Fault Refusal :=
  .next (match s.request? r.tag with
    | some q => (match r.val with
      | .row x => s.rowBack q x
      | .data bytes bad => s.dataComes q bytes bad
      | a => s.answerReq r.tag a)
    | none => s)

/-- REMOTE_TIMEOUT (R456). -/
def execRemoteTimeout (tag : Nat) (s : State) : Host.Outcome State Fault Refusal :=
  .next (match s.request? tag with
    | some r => (match r.what with
      | .waybill .. => s.rowBack r (s.failure 4)
      | _ => s.loseReq tag)
    | none => s)

/-! ## From other dies (R271, R447) -/

/-- INCOMING_WRITE_OR_INVALIDATION (R447): a die's replicas are updated, a guest copy goes, or a guest copy is written or comes. -/
def execIncomingWriteOrInvalidation (w : Incoming) (s : State) : Host.Outcome State Fault Refusal :=
  .next (match w with
    | .replica d => s.replicasTo (· == d)
    | .invalidate d l => s.dropGuest d.val (lineOf l)
    | .guest d l bs => s.putGuest d.val (lineOf l) (bs.filter (fun p => lineOf p.1 == lineOf l)))

end Sys2Proof.Machine
end

