-- ==== Sys2Proof/Machine/BundleIssue.lean ====
section
/-! DEFINITION. The steps of the issue stage: a direct bundle (R16, R76), an indexed bundle (R77, R173 to R175), a result that lands (R19,
R59, R255, R440), a rendezvous (R195) and the watchdogs of waits (R202, R443). -/

namespace Sys2Proof.Machine

/-! ## Words that decode to no instruction (R8, R40, R92) -/

/-- The destination that a word with a wrong field still names (R8), in a lane group. -/
def oddDests (sl : Slot) (g : Group) (w : Nat) : List Res :=
  let op := fld w 25 7
  match sl with
  | .s =>
    let f := fld w 12 3
    let h : List Res := if fld w 0 7 = 0x2B ∧ f = 0 ∧ op = 0 then [.h (fin 16 w 7)] else []
    let none_ : Bool := match fld w 0 7 with
      | 0x0B => decide (f < 3) || (f == 3 && op == 1)
      | 0x2B => (f == 0 && (op == 0 || op == 2)) || (f == 2 && op == 0)
      | 0x5B => false
      | 0x7B => f == 0 || (f == 1 && op != 0) || (f == 2 && op != 1)
      | _ => true
    h ++ (if none_ ∨ reg w 7 = 0 then [] else [.x (reg w 7)])
  | .v0 | .v1 =>
    if op = 0x61 ∨ op = 0x63 ∨ op = 0x65 ∨ op = 0x6D ∨ op = 0x6F ∨ op = 0x71 then []
    else if op = 0x28 ∨ op = 0x29 ∨ op = 0x2A ∨ op = 0x3F ∨ op = 0x4D ∨ op = 0x7B ∨ op = 0x7E then
      if 0 < fld w 20 5 ∧ fld w 20 5 < 8 then [.m g (fin 8 w 20)] else []
    else if op = 0x74 then [.acc g (fin 4 w 5) (fin 4 w 18)]
    else if op = 0x52 then [.v g (reg w 20), .v g (Fin.ofNat 32 (fld w 20 5 + 1))]
    else [.v g (reg w 20)]
  | .m =>
    let blk : Res := .acc g (fin 4 w 21) (fin 4 w 19)
    match fld w 28 4 with
    | 0x1 | 0x2 | 0x3 => [blk]
    | 0x4 => [.v g (reg w 11)]
    | 0x5 => [.v g (reg w 11), blk]
    | 0x7 => ([0, 1, 2, 3] : List (Fin 4)).map (fun k => .acc g (fin 4 w 21) k)
    | _ => []
  | .c0 | .c1 =>
    let op := fld w 58 6
    if (op = 0x28 ∨ op = 0x2C ∨ op = 0x30 ∨ op = 0x32) ∧ reg w 40 ≠ 0 then [.x (reg w 40)] else []
  | _ => []

/-- What such a word raises; one of an operation that is not allocated names no destination. -/
def oddMeaning (sl : Slot) (w cause : Nat) : Meaning :=
  let names (g : Group) : List Res := if cause = 0x08 then oddDests sl g w else []
  match sl with
  | .v0 | .v1 | .m => .lanes fun e g _ => { raises := [e.bad cause], names := names g }
  | _ => .once fun e _ => { raises := [e.bad cause], names := names 0 }

/-- Every slot word of the bundle with its meaning, in slot order. -/
def Cur.words (c : Cur) : List (Slot × Nat × Meaning) :=
  let all := c.slots.map (fun p => (p.1, p.2.1, meaningOf p.2.2)) ++ c.odd.map (fun p => (p.1, p.2.1, oddMeaning p.1 p.2.1 p.2.2))
  ([.s, .v0, .v1, .m, .c0, .c1] : List Slot).flatMap (fun sl => all.filter (fun p => p.1 == sl))

/-! ## Indexed bundles (R77, R79, R173 to R175) -/

/-- The index word of the bundle in the issue stage. -/
def Cur.indexWord (c : Cur) : Nat := match c.slots.find? (fun p => p.1 == .v0) with | some (_, w, _) => w | none => 0
def Cur.index (c : Cur) : IndexWord := decodeIndex c.indexWord

/-- The words of the entry that a group issues; an entry that is not VALID issues none. -/
def State.entryWords (s : State) (g : Group) (idx : Nat) : List Nat := ((s.core.mat.active.get g).entry idx).map (·.toNat)

/-- What an entry's word sees. -/
def Cur.entryEnv (c : Cur) (s : State) (g : Group) (sl : Slot) (w cls : Nat) : Env :=
  let ix := c.index
  { slot := sl, word := w, shelf := some g, lb := ix.lb, args := some (s.ctx.x ix.xa, s.ctx.x ix.xb), cls := some (classLat cls),
    pc := c.pc, hdr := c.hdr, pool := c.pool }

/-- The part of an entry's word: V and M words (`lane`) or C words. -/
def Cur.entryPart (c : Cur) (s : State) (g : Group) (cls : Nat) (lane : Bool) (p : Slot × Nat) : Option Part :=
  match decodeSlot (slotKind p.1) p.2 with
  | .error _ => none
  | .ok i =>
    let e := c.entryEnv s g p.1 p.2 cls
    match meaningOf i, lane with
    | .lanes f, true => some { env := e, group := some g, plan := f e g s }
    | .once f, false => some { env := e, group := some g, plan := f e s }
    | _, _ => none

/-- The parts of an indexed bundle: the scalar word; the index word with its reads of XA and XB and cause 0x30; the lane words of the
entries by group; then their copy words by group. -/
def indexedParts (c : Cur) (s : State) : List Part :=
  let ix := c.index
  let gs := s.groups c.hdr
  let scalar := directParts c (c.words.filter (fun p => p.1 == .s)) s
  let bad := gs.filter (fun g => !entryValid ((s.entryWords g ix.idx).headD 0))
  let good := gs.filter (fun g => entryValid ((s.entryWords g ix.idx).headD 0))
  let word : Part :=
    { env := c.env .v0 c.indexWord, group := none
      plan := { raises := (if fld c.indexWord 0 10 = 0 then [] else [(c.env .v0 c.indexWord).bad 0x08]) ++
                  (if bad = [] then [] else [{ cause := 0x30, tval := dw ((bad.map (fun g => 2 ^ g.val)).sum * 2 ^ 16 + ix.idx) }])
                reads := if gs = [] then [] else xs [ix.xa, ix.xb] } }
  let of (s : State) (lane : Bool) (g : Group) : List Part :=
    let ws := s.entryWords g ix.idx
    (entrySlots ws).filterMap (c.entryPart s g (entryClass (ws.headD 0)) lane)
  let first := scalar ++ (if c.slots.any (fun p => p.1 == .v0) then [word] else []) ++ good.flatMap (of s true)
  first ++ good.flatMap (of (s.afterStores first) false)

/-- The parts of the bundle in the issue stage. -/
def Cur.parts (c : Cur) (s : State) : List Part :=
  if c.hdr.indexed then indexedParts c s
  else directParts c c.words s

/-! ## Faults of the hardware at issue (R37, R38, R441) -/

/-- REG of tval, and what the undo log would hold. -/
def arrayReg : ArrayWord → Nat
  | .x r => Res.num (.x r)
  | .f r => Res.num (.f r)
  | .v g r => Res.num (.v g r)
  | .m g r => Res.num (.m g r)
  | .h r => Res.num (.h r)
  | .acc g b k => Res.num (.acc g b k)
  | .latch _ l _ => 160 + l.val
  | .shelf _ _ => 255
def arrayUndo (s : State) : ArrayWord → Undo
  | .x r => .x r 0
  | .f r => .f r 0
  | .v g r => .v g r VReg.reset
  | .m g r => .m g r 0
  | .h r => .h r HandleReg.reset
  | .acc g b k => .acc g b k [] (s.core.mat.bank g b).tag false
  | .latch g l row => .latchRow g l row 0 .raw 0
  | .shelf g i => .shelf g i.val []

/-- Whether a part reads an array word. -/
def Part.readsWord (p : Part) : ArrayWord → Bool
  | .x r => p.plan.reads.contains (.x r)
  | .f r => p.plan.reads.contains (.f r)
  | .v g r => p.plan.reads.contains (.v g r)
  | .m g r => p.plan.reads.contains (.m g r)
  | .h r => p.plan.reads.contains (.h r)
  | .acc g b _ => p.group == some g && p.plan.banks.contains b
  | .latch g _ _ => p.group == some g && p.env.slot == .m
  | .shelf g _ => p.env.shelf == some g

/-- The beats that a group issues now land with an uncorrectable word in their latch window (R207). -/
def State.failBeats (g : Group) (s : State) : State :=
  s.modCtx (fun c => { c with flights := c.flights.map (fun f => match f.w with
    | .beat g' bank blk fmt clear whole pad _ ts =>
      if f.seq = c.seqNo ∧ g' = g then { f with w := .beat g' bank blk fmt clear whole pad true ts } else f
    | _ => f) })
/-- Whether a part's window takes a latch row. -/
def Part.windowTakes (g : Group) (l : Fin 4) (row : Fin 8) (p : Part) : Bool := p.group == some g && p.plan.window.contains (l, row)
/-- The part with the uncorrectable latch row in its window. -/
def Part.failing (g : Group) (p : Part) : Part :=
  { p with plan := { p.plan with effs := p.plan.effs.map (fun e => (e.1, fun s => (e.2 s).failBeats g)) } }

/-- What a fault at issue raises. A latch word in the window of a beat raises nothing: the beat lands and tags its bank POISON (R207, log
93). -/
def State.issueFault (s : State) (c : Cur) (ps : List Part) : IssueFault → List Raise
  | .signature => if s.core.split then [] else [{ cause := 0xA0, tval := wordForm .header none c.hword }]
  | .word sl (.latch g l row) =>
    if ps.any (fun p => p.env.slot == sl && p.readsWord (.latch g l row)) ∧ !ps.any (Part.windowTakes g l row) then
      [{ cause := 0xA7, tval := sbTval 0 sl false (.x 0) + dw (160 + l.val), state := some (.latchRow g l row 0 .raw 0) }]
    else []
  | .word sl w =>
    if ps.any (fun p => p.env.slot == sl && p.readsWord w) then
      [{ cause := 0xA7, tval := sbTval 0 sl false (.x 0) + dw (arrayReg w), state := some (arrayUndo s w) }]
    else []

/-- The parts of a bundle that meets a fault. -/
def withFault (f : IssueFault) (ps : List Part) : List Part :=
  match f with
  | .word _ (.latch g l row) => ps.map (fun p => if p.windowTakes g l row then p.failing g else p)
  | _ => ps

/-- A part that stands for no word, with what it raises. -/
def faultPart (c : Cur) (rs : List Raise) : Part := { env := c.env .header c.hword, group := none, plan := Plan.raising rs }

/-! ## The issue of the bundle in the issue stage (R16, R76, R77) -/

/-- A code line of another package is asked for and awaited, or does not come (R258, R259, log 67). -/
def State.awaitLine (c : Cur) (s : State) : State :=
  let l := c.pool.headD 0
  match s.answerFor l 64 with
  | some _ => s.raise { cause := 0xA2, tval := c.pc } c.pc (c.pc + 16)
  | none => (s.request l 64 (.read l 64)).waitCycle .remote

/-- The issue of the whole bundle. `met` tells that its rendezvous has taken place. -/
def State.issueAll (met : Bool) (w : Option IssueFault) (s : State) : State :=
  let s := s.atIssue
  let c := s.core.cur
  if c.awaitsLine then s.awaitLine c
  else
    let ps := c.parts s.matrixView
    match w with
    | none => s.issue c ps met
    | some f => s.issue c (withFault f ps ++ [faultPart c (s.matrixView.issueFault c ps f)]) met

/-- A cycle in which the sequencer runs no context; those of a halted one count for it (R116). -/
def State.idleCycle (s : State) : State :=
  if s.ctx.status = .halted then (s.tick 1).modCtx (fun c => { c with rc := c.rc + 1, nextIssue := max c.nextIssue (c.rc + 1) }) else s.tick 1

/-- BUNDLE_ISSUE (R16). -/
def execBundleIssue (w : Option IssueFault) (s : State) : Host.Outcome State Fault Refusal :=
  .next (if s.ctx.status ≠ .running then s.idleCycle else if s.core.cur.hdr.indexed then s else s.issueAll false w)

/-- INDEXED_BUNDLE_ISSUE (R77). -/
def execIndexedBundleIssue (w : Option IssueFault) (s : State) : Host.Outcome State Fault Refusal :=
  .next (if s.ctx.status ≠ .running ∨ !s.core.cur.hdr.indexed then s else s.issueAll false w)

/-! ## Results that land (R19, R255, R440) -/

/-- A failed check of the datapath: the result is tagged POISON. -/
def Write.failed : Write → Write
  | .v g r data mask _ => .v g r data mask .poison
  | .beat g bank blk fmt clear whole pad _ ts => .beat g bank blk fmt clear whole pad true ts
  | w => w

/-- The event of a failed check: the core in the first word; group, then slot and register, or bank, in the second. -/
def State.failEvent (sl : Fin 2) (w : Write) (s : State) : State :=
  match w with
  | .v g r .. => s.relEvent s.dieFin 0xA6 (dw s.srcId) (dw (g.val + (sl.val + 1) * 2 ^ 8 + r.val * 2 ^ 16))
  | .beat g bank .. => s.relEvent s.dieFin 0xA3 (dw s.srcId) (dw (g.val + bank.val * 2 ^ 8))
  | _ => s

/-- The events of the lanes that failed after issue: of a load, one for each line; of VAMOADD, one for each lane, with its own cause
(R255, R297). -/
def failedLanes (lanes : List LaneAsk) (amo : Bool) : List (Loc × Nat) :=
  let bad := lanes.filterMap (fun k => match k.got with | some (_, c) => if c = 0 then none else some (k.loc, c) | none => none)
  if amo then bad else distinct (bad.map (fun p => (lineOf p.1, p.2)))

/-- What a landing does in its cycle besides: the freeze for data that is late, its sample, and the events of what failed after issue
(R255, R297). The lateness of data of this package is not fixed (log 6). -/
def State.landingDone (lanes : List LaneAsk) (amo : Bool) (s : State) : State :=
  let far := lanes.any (fun p => farRegion (s.region false p.loc) p.loc)
  let s :=
    if s.sq.hold = some .landing then (s.sample s.die 0 s.srcId s.sq.waited).endWait
    else if far then s.sample s.die 0 s.srcId 0
    else let n := Config.frozen s.fresh; s.freeFreeze.sample s.die 0 s.srcId n
  (failedLanes lanes amo).foldl (fun s p => s.relEvent s.dieFin 0xAE (dw p.1) (dw p.2)) s

/-- RESULT_LANDING (R19, R59, R239, R255, R440). -/
def execResultLanding (fails : Option (Fin 2)) (s : State) : Host.Outcome State Fault Refusal :=
  .next (match firstFlight s.ctx.flights with
    | none => s
    | some f =>
      let s := s.runTo f.land
      if f.late then s.waitCycle .landing
      else
        let s := match f.w with
          | .landing _ _ _ _ lanes amo => s.landingDone lanes amo
          | .h _ v => if v.state = HState.empty then s else s.freeFreeze  -- the walk of XLATE (R239)
          | _ => s
        match fails with
        | none => s.land f
        | some sl =>
          let s := (s.modCtx (fun c => { c with flights := { f with w := f.w.failed } :: dropFlight f c.flights })).land { f with w := f.w.failed }
          s.failEvent sl f.w)

/-! ## Rendezvous and watchdogs (R195, R202, R443) -/

/-- The task of the gang on the other half-core, as far as the rendezvous of the running one is concerned (R195): there is none, or it has
issued TASKEND, or it has passed this COUNT; it waits at the same COUNT, in the same cycle or in another one; or it is still to come. -/
inductive Mate where
  | none | waits | soon | toCome
  deriving DecidableEq, Repr
def State.mate (s : State) : Mate :=
  match s.mateBank s.ctx with
  | .none => .none
  | some b =>
    let o := s.otherSeq
    let d := o.banks.get b
    let ahead := (d.csrs.rdvCount - s.ctx.csrs.rdvCount).toNat
    if 0 < ahead ∧ ahead < 2 ^ 31 then .none
    else if ahead = 0 ∧ o.running = b ∧ o.hold = some .rendezvous then
      (if o.now < s.sq.now + s.cycleUnits ∧ s.sq.now < o.now + s.cycleUnits then .waits else .soon)
    else .toCome

/-- RENDEZVOUS (R195): every task of the gang on other cores has come to the same COUNT. Where one on the other half-core waits there too,
both issue in the same cycle. -/
def execRendezvous (s : State) : Host.Outcome State Fault Refusal :=
  .next (if s.sq.hold ≠ some .rendezvous then s
  else match s.mate with
    | .none => s.issueAll true none
    | .waits => (s.issueAll true none).asHalf (otherHalf s.core.active) (fun t => t.fetchCur.issueAll true none)
    | _ => s)

/-- Whether a wait has lasted binwd cycles. -/
def State.watchdogOver (s : State) : Bool := s.sq.binwd != 0 && decide (s.sq.binwd.toNat ≤ s.sq.waited)

/-- RDV_WATCHDOG_EXPIRY (R443). -/
def execRdvWatchdogExpiry (s : State) : Host.Outcome State Fault Refusal :=
  .next (if s.sq.hold = some .rendezvous ∧ s.watchdogOver then
    let s := s.atIssue
    s.takeTrap 0x83 (s.ctx.csrs.rdvCount.zeroExtend 64) s.core.cur.pc s.core.cur.next
  else s)

/-- Whether the issue waits for a bin. -/
def Hold.isBins : Hold → Bool
  | .bins _ => true
  | _ => false
def State.binsWait (s : State) : Bool := match s.sq.hold with | some h => h.isBins | none => false

/-- BIN_WATCHDOG_EXPIRY (R202). Where nothing is lacking any more, the bundle goes on. -/
def execBinWatchdogExpiry (s : State) : Host.Outcome State Fault Refusal :=
  .next (if s.binsWait ∧ s.watchdogOver then
    match lowest (s.watchdogRaises (s.core.cur.parts s.matrixView)) with
    | some r => s.raise r s.core.cur.pc s.core.cur.next
    | none => s.issueAll false none
  else s)

end Sys2Proof.Machine
end

