-- ==== Sys2Proof/Machine/Dispatch.lean ====
section
/-! DEFINITION. The one dispatch: each instruction or step to its meaning. -/

namespace Sys2Proof.Machine

def exec (i : Instr) (s : State) : Host.Outcome State Fault Refusal :=
  match i with
  | .bundleIssue w => Sys2Proof.Machine.execBundleIssue w s
  | .indexedBundleIssue w => Sys2Proof.Machine.execIndexedBundleIssue w s
  | .resultLanding fails => Sys2Proof.Machine.execResultLanding fails s
  | .promotionServiceEnd => Sys2Proof.Machine.execPromotionServiceEnd s
  | .scalarAlu op => Sys2Proof.Machine.execScalarAlu op s
  | .scalarMul op d a b => Sys2Proof.Machine.execScalarMul op d a b s
  | .scalarDiv op d a b => Sys2Proof.Machine.execScalarDiv op d a b s
  | .scalarFp op => Sys2Proof.Machine.execScalarFp op s
  | .scalarLoad w d a imm => Sys2Proof.Machine.execScalarLoad w d a imm s
  | .scalarStore w a b imm => Sys2Proof.Machine.execScalarStore w a b imm s
  | .branch c a b imm => Sys2Proof.Machine.execBranch c a b imm s
  | .jal d imm => Sys2Proof.Machine.execJal d imm s
  | .jalr d a imm => Sys2Proof.Machine.execJalr d a imm s
  | .lr dbl aq rl d a => Sys2Proof.Machine.execLr dbl aq rl d a s
  | .sc dbl aq rl d a b => Sys2Proof.Machine.execSc dbl aq rl d a b s
  | .amo op dbl aq rl d a b => Sys2Proof.Machine.execAmo op dbl aq rl d a b s
  | .amocasW aq rl d a b => Sys2Proof.Machine.execAmocasW aq rl d a b s
  | .amocasD aq rl d a b => Sys2Proof.Machine.execAmocasD aq rl d a b s
  | .fence fm p r0 => Sys2Proof.Machine.execFence fm p r0 s
  | .fenceI => Sys2Proof.Machine.execFenceI s
  | .ecall => Sys2Proof.Machine.execEcall s
  | .ebreak => Sys2Proof.Machine.execEbreak s
  | .csrrw n d a => Sys2Proof.Machine.execCsrrw n d a s
  | .csrrs n d a => Sys2Proof.Machine.execCsrrs n d a s
  | .csrrc n d a => Sys2Proof.Machine.execCsrrc n d a s
  | .csrrwi n d u => Sys2Proof.Machine.execCsrrwi n d u s
  | .csrrsi n d u => Sys2Proof.Machine.execCsrrsi n d u s
  | .csrrci n d u => Sys2Proof.Machine.execCsrrci n d u s
  | .wait imm a => Sys2Proof.Machine.execWait imm a s
  | .loop imm a => Sys2Proof.Machine.execLoop imm a s
  | .jtab c b a => Sys2Proof.Machine.execJtab c b a s
  | .yield d => Sys2Proof.Machine.execYield d s
  | .taskend => Sys2Proof.Machine.execTaskend s
  | .shwr b a d => Sys2Proof.Machine.execShwr b a d s
  | .shrd a d => Sys2Proof.Machine.execShrd a d s
  | .shclr d => Sys2Proof.Machine.execShclr d s
  | .shsw b a d => Sys2Proof.Machine.execShsw b a d s
  | .shtag b a d => Sys2Proof.Machine.execShtag b a d s
  | .shelfSwap => Sys2Proof.Machine.execShelfSwap s
  | .spawn a d => Sys2Proof.Machine.execSpawn a d s
  | .spawng a d => Sys2Proof.Machine.execSpawng a d s
  | .xlate b a h => Sys2Proof.Machine.execXlate b a h s
  | .xprobe w h d => Sys2Proof.Machine.execXprobe w h d s
  | .hrel h => Sys2Proof.Machine.execHrel h s
  | .hinv b a d => Sys2Proof.Machine.execHinv b a d s
  | .splnt b a d => Sys2Proof.Machine.execSplnt b a d s
  | .amoBadd b a d => Sys2Proof.Machine.execAmoBadd b a d s
  | .amoTopk b a d => Sys2Proof.Machine.execAmoTopk b a d s
  | .fenceS r0 p => Sys2Proof.Machine.execFenceS r0 p s
  | .acqp a d => Sys2Proof.Machine.execAcqp a d s
  | .binit b a d => Sys2Proof.Machine.execBinit b a d s
  | .barr b a d => Sys2Proof.Machine.execBarr b a d s
  | .bwait b a d => Sys2Proof.Machine.execBwait b a d s
  | .barw a d => Sys2Proof.Machine.execBarw a d s
  | .pin b a d => Sys2Proof.Machine.execPin b a d s
  | .unpin a d => Sys2Proof.Machine.execUnpin a d s
  | .prefl2 b a d => Sys2Proof.Machine.execPrefl2 b a d s
  | .bmode b a d => Sys2Proof.Machine.execBmode b a d s
  | .binset b a d => Sys2Proof.Machine.execBinset b a d s
  | .binq a d => Sys2Proof.Machine.execBinq a d s
  | .strmAdd a d => Sys2Proof.Machine.execStrmAdd a d s
  | .strmDel a d => Sys2Proof.Machine.execStrmDel a d s
  | .trap a => Sys2Proof.Machine.execTrap a s
  | .tret => Sys2Proof.Machine.execTret s
  | .halt => Sys2Proof.Machine.execHalt s
  | .banksw a d => Sys2Proof.Machine.execBanksw a d s
  | .ctxsave b a => Sys2Proof.Machine.execCtxsave b a s
  | .ctxload b a => Sys2Proof.Machine.execCtxload b a s
  | .ctxEngineDone => Sys2Proof.Machine.execCtxEngineDone s
  | .evpost b a => Sys2Proof.Machine.execEvpost b a s
  | .rdtime a d => Sys2Proof.Machine.execRdtime a d s
  | .vadd d a b m => Sys2Proof.Machine.execVadd d a b m s
  | .vaddLit d a b m => Sys2Proof.Machine.execVaddLit d a b m s
  | .vsub d a b m => Sys2Proof.Machine.execVsub d a b m s
  | .vsubLit d a b m => Sys2Proof.Machine.execVsubLit d a b m s
  | .vmul d a b m => Sys2Proof.Machine.execVmul d a b m s
  | .vmulLit d a b m => Sys2Proof.Machine.execVmulLit d a b m s
  | .vmulh d a b m => Sys2Proof.Machine.execVmulh d a b m s
  | .vmulhu d a b m => Sys2Proof.Machine.execVmulhu d a b m s
  | .vmadd d a b c m => Sys2Proof.Machine.execVmadd d a b c m s
  | .vmaddLit d a b c m => Sys2Proof.Machine.execVmaddLit d a b c m s
  | .vaddsat d a b m => Sys2Proof.Machine.execVaddsat d a b m s
  | .vsubsat d a b m => Sys2Proof.Machine.execVsubsat d a b m s
  | .vaddsatu d a b m => Sys2Proof.Machine.execVaddsatu d a b m s
  | .vsubsatu d a b m => Sys2Proof.Machine.execVsubsatu d a b m s
  | .vabs d a m => Sys2Proof.Machine.execVabs d a m s
  | .vneg d a m => Sys2Proof.Machine.execVneg d a m s
  | .vmin d a b m => Sys2Proof.Machine.execVmin d a b m s
  | .vminLit d a b m => Sys2Proof.Machine.execVminLit d a b m s
  | .vmax d a b m => Sys2Proof.Machine.execVmax d a b m s
  | .vmaxLit d a b m => Sys2Proof.Machine.execVmaxLit d a b m s
  | .vminu d a b m => Sys2Proof.Machine.execVminu d a b m s
  | .vmaxu d a b m => Sys2Proof.Machine.execVmaxu d a b m s
  | .vand d a b m => Sys2Proof.Machine.execVand d a b m s
  | .vandLit d a b m => Sys2Proof.Machine.execVandLit d a b m s
  | .vor d a b m => Sys2Proof.Machine.execVor d a b m s
  | .vorLit d a b m => Sys2Proof.Machine.execVorLit d a b m s
  | .vxor d a b m => Sys2Proof.Machine.execVxor d a b m s
  | .vxorLit d a b m => Sys2Proof.Machine.execVxorLit d a b m s
  | .vandn d a b m => Sys2Proof.Machine.execVandn d a b m s
  | .vnot d a m => Sys2Proof.Machine.execVnot d a m s
  | .vshl d a b m => Sys2Proof.Machine.execVshl d a b m s
  | .vshlLit d a b m => Sys2Proof.Machine.execVshlLit d a b m s
  | .vshr d a b m => Sys2Proof.Machine.execVshr d a b m s
  | .vshrLit d a b m => Sys2Proof.Machine.execVshrLit d a b m s
  | .vsra d a b m => Sys2Proof.Machine.execVsra d a b m s
  | .vsraLit d a b m => Sys2Proof.Machine.execVsraLit d a b m s
  | .vrol d a b m => Sys2Proof.Machine.execVrol d a b m s
  | .vror d a b m => Sys2Proof.Machine.execVror d a b m s
  | .vclz d a m => Sys2Proof.Machine.execVclz d a m s
  | .vpopc d a m => Sys2Proof.Machine.execVpopc d a m s
  | .vcmp d a b c m => Sys2Proof.Machine.execVcmp d a b c m s
  | .vcmpLit d a b c m => Sys2Proof.Machine.execVcmpLit d a b c m s
  | .vcmpu d a b c m => Sys2Proof.Machine.execVcmpu d a b c m s
  | .vsel d a b m => Sys2Proof.Machine.execVsel d a b m s
  | .vmov d a m => Sys2Proof.Machine.execVmov d a m s
  | .vbcast d b t m => Sys2Proof.Machine.execVbcast d b t m s
  | .vlaneid d m v => Sys2Proof.Machine.execVlaneid d m v s
  | .vfadd d a b m r => Sys2Proof.Machine.execVfadd d a b m r s
  | .vfaddLit d a b m r => Sys2Proof.Machine.execVfaddLit d a b m r s
  | .vfsub d a b m r => Sys2Proof.Machine.execVfsub d a b m r s
  | .vfsubLit d a b m r => Sys2Proof.Machine.execVfsubLit d a b m r s
  | .vfmul d a b m r => Sys2Proof.Machine.execVfmul d a b m r s
  | .vfmulLit d a b m r => Sys2Proof.Machine.execVfmulLit d a b m r s
  | .vfma d a b c m r => Sys2Proof.Machine.execVfma d a b c m r s
  | .vfmaLit d a b c m r => Sys2Proof.Machine.execVfmaLit d a b c m r s
  | .vfms d a b c m r => Sys2Proof.Machine.execVfms d a b c m r s
  | .vfnma d a b c m r => Sys2Proof.Machine.execVfnma d a b c m r s
  | .vfnms d a b c m r => Sys2Proof.Machine.execVfnms d a b c m r s
  | .vfmin d a b m => Sys2Proof.Machine.execVfmin d a b m s
  | .vfmax d a b m => Sys2Proof.Machine.execVfmax d a b m s
  | .vfabs d a m => Sys2Proof.Machine.execVfabs d a m s
  | .vfneg d a m => Sys2Proof.Machine.execVfneg d a m s
  | .vfcmp d a b c m => Sys2Proof.Machine.execVfcmp d a b c m s
  | .vfcmpLit d a b c m => Sys2Proof.Machine.execVfcmpLit d a b c m s
  | .vfclass d a m => Sys2Proof.Machine.execVfclass d a m s
  | .vrcp d a m r => Sys2Proof.Machine.execVrcp d a m r s
  | .vrsq d a m r => Sys2Proof.Machine.execVrsq d a m r s
  | .vsqrt d a m r => Sys2Proof.Machine.execVsqrt d a m r s
  | .vdiv d a b m r => Sys2Proof.Machine.execVdiv d a b m r s
  | .vexp2 d a m r => Sys2Proof.Machine.execVexp2 d a m r s
  | .vlog2 d a m r => Sys2Proof.Machine.execVlog2 d a m r s
  | .vredadd d a m => Sys2Proof.Machine.execVredadd d a m s
  | .vredmax d a m => Sys2Proof.Machine.execVredmax d a m s
  | .vredmin d a m => Sys2Proof.Machine.execVredmin d a m s
  | .vrediadd d a m => Sys2Proof.Machine.execVrediadd d a m s
  | .vredimax d a m => Sys2Proof.Machine.execVredimax d a m s
  | .vredimin d a m => Sys2Proof.Machine.execVredimin d a m s
  | .vcvt d a p t m r => Sys2Proof.Machine.execVcvt d a p t m r s
  | .vcvtsat d a p t m r => Sys2Proof.Machine.execVcvtsat d a p t m r s
  | .vqnt4 d a b m => Sys2Proof.Machine.execVqnt4 d a b m s
  | .vdqnt4 d a p t m => Sys2Proof.Machine.execVdqnt4 d a p t m s
  | .vpack d a b m => Sys2Proof.Machine.execVpack d a b m s
  | .vunpacklo d a m => Sys2Proof.Machine.execVunpacklo d a m s
  | .vunpackhi d a m => Sys2Proof.Machine.execVunpackhi d a m s
  | .vperm d a b m => Sys2Proof.Machine.execVperm d a b m s
  | .vslide d a b r0 m => Sys2Proof.Machine.execVslide d a b r0 m s
  | .vslideLit d a b c m => Sys2Proof.Machine.execVslideLit d a b c m s
  | .vzip d a b m h => Sys2Proof.Machine.execVzip d a b m h s
  | .vunzip d a b m h => Sys2Proof.Machine.execVunzip d a b m h s
  | .vld d a k t m => Sys2Proof.Machine.execVld d a k t m s
  | .vst r0 a k m => Sys2Proof.Machine.execVst r0 a k m s
  | .vlds d a k t m => Sys2Proof.Machine.execVlds d a k t m s
  | .vsts r0 a k m => Sys2Proof.Machine.execVsts r0 a k m s
  | .vldg d a k t m => Sys2Proof.Machine.execVldg d a k t m s
  | .vstsc r0 a k m => Sys2Proof.Machine.execVstsc r0 a k m s
  | .nsh d a m v => Sys2Proof.Machine.execNsh d a m v s
  | .nshr d a m v => Sys2Proof.Machine.execNshr d a m v s
  | .vldx d a b k m h => Sys2Proof.Machine.execVldx d a b k m h s
  | .vstx r0 a b k m h => Sys2Proof.Machine.execVstx r0 a b k m h s
  | .vldxg d a b k m h => Sys2Proof.Machine.execVldxg d a b k m h s
  | .vstxs r0 a b k m h => Sys2Proof.Machine.execVstxs r0 a b k m h s
  | .vamoadd d a b c m => Sys2Proof.Machine.execVamoadd d a b c m s
  | .vpush d b => Sys2Proof.Machine.execVpush d b s
  | .vpop d b => Sys2Proof.Machine.execVpop d b s
  | .vacr d a c m => Sys2Proof.Machine.execVacr d a c m s
  | .vacrD d a h c m => Sys2Proof.Machine.execVacrD d a h c m s
  | .vacrSt d c m => Sys2Proof.Machine.execVacrSt d c m s
  | .vacw d a c m => Sys2Proof.Machine.execVacw d a c m s
  | .vacwD d a h c m => Sys2Proof.Machine.execVacwD d a h c m s
  | .vtagset d a t m => Sys2Proof.Machine.execVtagset d a t m s
  | .vtagrd d a m => Sys2Proof.Machine.execVtagrd d a m s
  | .vres d a m => Sys2Proof.Machine.execVres d a m s
  | .vresAcc d a c m => Sys2Proof.Machine.execVresAcc d a c m s
  | .vmsk d a b f => Sys2Proof.Machine.execVmsk d a b f s
  | .vmpopc d a m => Sys2Proof.Machine.execVmpopc d a m s
  | .vmfirst d a m => Sys2Proof.Machine.execVmfirst d a m s
  | .vmset d b => Sys2Proof.Machine.execVmset d b s
  | .vmsetNz d a => Sys2Proof.Machine.execVmsetNz d a s
  | .mnop => Sys2Proof.Machine.execMnop s
  | .mac l b a r w z => Sys2Proof.Machine.execMac l b a r w z s
  | .macz l b a r w z => Sys2Proof.Machine.execMacz l b a r w z s
  | .mwin l b a r w z => Sys2Proof.Machine.execMwin l b a r w z s
  | .mdrain q p a r v c z => Sys2Proof.Machine.execMdrain q p a r v c z s
  | .mdrainz q p a r v c z => Sys2Proof.Machine.execMdrainz q p a r v c z s
  | .mlatch l w v => Sys2Proof.Machine.execMlatch l w v s
  | .mzero a c => Sys2Proof.Machine.execMzero a c s
  | .binWatchdogExpiry => Sys2Proof.Machine.execBinWatchdogExpiry s
  | .cpy x tag sel => Sys2Proof.Machine.execCpy x tag sel s
  | .cpy2d x => Sys2Proof.Machine.execCpy2d x s
  | .cpyg hs xs xd xn hint f => Sys2Proof.Machine.execCpyg hs xs xd xn hint f s
  | .cpys hd xs xd xn hint f => Sys2Proof.Machine.execCpys hd xs xd xn hint f s
  | .cpyl src xs latch gmask tag f => Sys2Proof.Machine.execCpyl src xs latch gmask tag f s
  | .cpysh hs xs xd xn gmask f => Sys2Proof.Machine.execCpysh hs xs xd xn gmask f s
  | .cpybin src xs xn bin f => Sys2Proof.Machine.execCpybin src xs xn bin f s
  | .route x => Sys2Proof.Machine.execRoute x s
  | .routec x => Sys2Proof.Machine.execRoutec x s
  | .red x sel => Sys2Proof.Machine.execRed x sel s
  | .bcast x sel => Sys2Proof.Machine.execBcast x sel s
  | .agath x sel => Sys2Proof.Machine.execAgath x sel s
  | .sealck hs hd xs xd xn tag mode => Sys2Proof.Machine.execSealck hs hd xs xd xn tag mode s
  | .sealgen x tag => Sys2Proof.Machine.execSealgen x tag s
  | .exbind hs xs xd acq => Sys2Proof.Machine.execExbind hs xs xd acq s
  | .exfetch xs f => Sys2Proof.Machine.execExfetch xs f s
  | .exrel hs xs f => Sys2Proof.Machine.execExrel hs xs f s
  | .expin xs pin f => Sys2Proof.Machine.execExpin xs pin f s
  | .yarddrain xs xd xn acq => Sys2Proof.Machine.execYarddrain xs xd xn acq s
  | .cwait xs xd => Sys2Proof.Machine.execCwait xs xd s
  | .cfence q => Sys2Proof.Machine.execCfence q s
  | .cstat xs xd sel => Sys2Proof.Machine.execCstat xs xd sel s
  | .commandStart q => Sys2Proof.Machine.execCommandStart q s
  | .commandItem q n => Sys2Proof.Machine.execCommandItem q n s
  | .commandFinish q n => Sys2Proof.Machine.execCommandFinish q n s
  | .expertFetchStart e => Sys2Proof.Machine.execExpertFetchStart e s
  | .expertFetchEnd e flash => Sys2Proof.Machine.execExpertFetchEnd e flash s
  | .modeChangeInForce => Sys2Proof.Machine.execModeChangeInForce s
  | .rendezvous => Sys2Proof.Machine.execRendezvous s
  | .rdvWatchdogExpiry => Sys2Proof.Machine.execRdvWatchdogExpiry s
  | .asyncCauseTaken => Sys2Proof.Machine.execAsyncCauseTaken s
  | .rewind bad => Sys2Proof.Machine.execRewind bad s
  | .hostQueueConsume => Sys2Proof.Machine.execHostQueueConsume s
  | .spawnReady die id => Sys2Proof.Machine.execSpawnReady die id s
  | .schedulerChoice die => Sys2Proof.Machine.execSchedulerChoice die s
  | .taskStart die id => Sys2Proof.Machine.execTaskStart die id s
  | .quantumExpiry hb => Sys2Proof.Machine.execQuantumExpiry hb s
  | .contextResume hb => Sys2Proof.Machine.execContextResume hb s
  | .matrixStateSwitch => Sys2Proof.Machine.execMatrixStateSwitch s
  | .streamPeriodStart id => Sys2Proof.Machine.execStreamPeriodStart id s
  | .streamBudgetExhausted hb => Sys2Proof.Machine.execStreamBudgetExhausted hb s
  | .deviceRegisterWrite off wide v host => Sys2Proof.Machine.execDeviceRegisterWrite off wide v host s
  | .stopOfIssue hb why => Sys2Proof.Machine.execStopOfIssue hb why s
  | .remoteTimeout tag => Sys2Proof.Machine.execRemoteTimeout tag s
  | .landingDataArrival tag bytes bad => Sys2Proof.Machine.execLandingDataArrival tag bytes bad s
  | .scalarMissFill bytes bad => Sys2Proof.Machine.execScalarMissFill bytes bad s
  | .fetchLineArrival va how => Sys2Proof.Machine.execFetchLineArrival va how s
  | .pageTableWalk va k => Sys2Proof.Machine.execPageTableWalk va k s
  | .asyncSet core hb bank v host => Sys2Proof.Machine.execAsyncSet core hb bank v host s
  | .asyncPendClear core hb bank v => Sys2Proof.Machine.execAsyncPendClear core hb bank v s
  | .pfackRetry hb bank => Sys2Proof.Machine.execPfackRetry hb bank s
  | .pfackDeliver hb bank => Sys2Proof.Machine.execPfackDeliver hb bank s
  | .cmodeWrite core v => Sys2Proof.Machine.execCmodeWrite core v s
  | .atticcfgWrite core v => Sys2Proof.Machine.execAtticcfgWrite core v s
  | .migrationRequest asid va => Sys2Proof.Machine.execMigrationRequest asid va s
  | .migrationComplete asid va leaf => Sys2Proof.Machine.execMigrationComplete asid va leaf s
  | .migrationHoldoffExpiry asid va => Sys2Proof.Machine.execMigrationHoldoffExpiry asid va s
  | .errorThreshold src => Sys2Proof.Machine.execErrorThreshold src s
  | .patrolScrubRead ch c => Sys2Proof.Machine.execPatrolScrubRead ch c s
  | .hqtailWrite v => Sys2Proof.Machine.execHqtailWrite v s
  | .waylineFlit port ok => Sys2Proof.Machine.execWaylineFlit port ok s
  | .portDown port => Sys2Proof.Machine.execPortDown port s
  | .portUp port peer atom => Sys2Proof.Machine.execPortUp port peer atom s
  | .hostWrite off bytes => Sys2Proof.Machine.execHostWrite off bytes s
  | .hostRead off n => Sys2Proof.Machine.execHostRead off n s
  | .portRetrain port => Sys2Proof.Machine.execPortRetrain port s
  | .poollimWrite die v => Sys2Proof.Machine.execPoollimWrite die v s
  | .powerGrant grant step => Sys2Proof.Machine.execPowerGrant grant step s
  | .wake core => Sys2Proof.Machine.execWake core s
  | .wakeb core => Sys2Proof.Machine.execWakeb core s
  | .captureClear die u => Sys2Proof.Machine.execCaptureClear die u s
  | .eventDelivery src => Sys2Proof.Machine.execEventDelivery src s
  | .svraise v firmware => Sys2Proof.Machine.execSvraise v firmware s
  | .attestationRequest w => Sys2Proof.Machine.execAttestationRequest w s
  | .attestationReportDone => Sys2Proof.Machine.execAttestationReportDone s
  | .reset signed ver => Sys2Proof.Machine.execReset signed ver s
  | .homeResponseArrival r => Sys2Proof.Machine.execHomeResponseArrival r s
  | .incomingWriteOrInvalidation w => Sys2Proof.Machine.execIncomingWriteOrInvalidation w s
  | .rootPortLinkTrained port speed width => Sys2Proof.Machine.execRootPortLinkTrained port speed width s
  | .rootPortLinkDown port => Sys2Proof.Machine.execRootPortLinkDown port s
  | .homeRequest r => Sys2Proof.Machine.execHomeRequest r s
  | .homeAtomic who op pa sc rel => Sys2Proof.Machine.execHomeAtomic who op pa sc rel s
  | .acqpHomeResolve who pa sc => Sys2Proof.Machine.execAcqpHomeResolve who pa sc s
  | .promotionRequest hb line q sc => Sys2Proof.Machine.execPromotionRequest hb line q sc s
  | .promotionAnswer line to_ => Sys2Proof.Machine.execPromotionAnswer line to_ s
  | .routedRowArrival die w => Sys2Proof.Machine.execRoutedRowArrival die w s
  | .chunkArrival die c => Sys2Proof.Machine.execChunkArrival die c s

end Sys2Proof.Machine
end

