-- ==== Sys2Proof/Machine/Next.lean ====
section
/-! DEFINITION. Which step the machine makes next (log 2), and where a word is placed so that it runs next (log 10). -/

namespace Sys2Proof.Machine

/-! ## Steps of the other agents of the package -/

/-- The state of an outcome, of a step that only goes on. -/
def after (s : State) : Host.Outcome State Fault Refusal → State
  | .next t => t
  | _ => s

/-- A step of a scheduler that gets on: a spawn moves, the host queue's head does, or something is asked of another package. -/
def State.getsOn (s t : State) : Bool :=
  !(decide (t.pkg.spawns = s.pkg.spawns) && decide (t.pkg.dev = s.pkg.dev) && t.pkg.tags == s.pkg.tags)

/-- A step that the schedulers can take: a launch record, a spawn whose dependences are complete, a choice, the start of a task, the end
of a removed stream. -/
def State.schedNext (s : State) : Option Instr :=
  let moved (i : Instr) (o : Host.Outcome State Fault Refusal) : Option Instr := if s.getsOn (after s o) then some i else none
  (moved .hostQueueConsume (execHostQueueConsume s)).orElse fun _ =>
  (s.pkg.spawns.findSome? (fun x =>
    if x.state = .posted then moved (.spawnReady x.die x.id) (execSpawnReady x.die x.id s)
    else if x.state = .placing then moved (.taskStart x.die x.id) (execTaskStart x.die x.id s)
    else none)).orElse fun _ =>
  ((List.finRange 8).findSome? (fun d => if (s.choiceCore d).isSome then some (.schedulerChoice d) else none)).orElse fun _ =>
  (s.allBanks.map (fun p => p.2.2) ++ s.pkg.parkedCtx.map (·.ctx)).findSome? (fun c =>
    c.streamId.bind (fun id => if (s.endedStream id).isSome then some (.streamPeriodStart id) else none))

/-- A step that the engines of the core and of the package can take. -/
def State.helpNext (s : State) : Option Instr :=
  s.engineNext.orElse fun _ =>
  (if s.sq.engOp.isSome then some .ctxEngineDone else none).orElse fun _ =>
  (if s.endingService.isSome then some .promotionServiceEnd else none).orElse fun _ =>
  s.migrationDue.orElse fun _ =>
  s.pkg.fetches.findSome? (fun f =>
    if f.started then
      match s.ertAt f.entry with
      | some l => if (s.ert l).flash then none else some (.expertFetchEnd f.entry none)
      | none => none
    else if s.fetchReady f.entry then some (.expertFetchStart f.entry) else none)

def State.othersNext (s : State) : Option Instr := s.helpNext.orElse fun _ => s.schedNext

/-! ## The step of the modelled core -/

/-- A wait in which an access may have been performed at its home: a stop of issue keeps its answer (R416), and an asynchronous cause is
taken only after it. -/
def Hold.performs : Hold → Bool
  | .remote | .promotion => true
  | _ => false
/-- The asynchronous cause that is taken at this boundary. -/
def State.asyncDue (s : State) : Bool :=
  !s.sq.hold.any Hold.performs && (s.ctx.asyncCause.isSome || s.rousable)

/-- A stream whose next period starts. -/
def State.streamDue (s : State) : Option Instr :=
  (s.pkg.streams.find? (fun x =>
    decide (x.next ≤ (if x.core = s.coreId then (if x.half = s.core.active then s.nowNs else 0) else s.timeNs)))).map
    (fun x => .streamPeriodStart x.id)

/-- Whether a result of the context lands before its next bundle issues. -/
def State.landingDue (s : State) : Bool :=
  match firstFlight s.ctx.flights with
  | none => false
  | some f =>
    if s.ctx.status = .running then decide (f.land ≤ s.ctx.nextIssue)
    else s.ctx.status == .halted && decide (f.land ≤ (if s.ctx.asyncCause.isSome then s.ctx.nextIssue else s.ctx.rc))

/-- Whether the bundle at issue raises a trap, which is taken before a stop of issue (R418). The stop comes before the handler's first
bundle, whatever that raises. -/
def State.trapFirst (s : State) : Bool :=
  let entered := s.ctx.csrs.intrap && (match s.ctx.parked.getLast? with | some p => p.t0 == s.ctx.rc | none => false)
  if s.ctx.status ≠ .running ∨ entered then false
  else
    let t := s.fetchCur.atIssue
    let c := t.core.cur
    let ps := c.parts t.matrixView
    !c.awaitsLine && decide (t.readyAt ps ≤ t.ctx.rc) && (match lowest (t.raises c ps) with
      | some r => (t.judgedLater c ps).isNone || decide (r.cause < 0x20)
      | none => false)
/-- A stop of issue that is due (R412 to R414). -/
def State.stopDue (s : State) : Option Instr :=
  let h := s.core.active
  if s.resumable then some (.contextResume h)
  else if s.budgetOver then some (.streamBudgetExhausted h)
  else if s.quantumOver then some (.quantumExpiry h)
  else none
/-- A gang whose tasks are all on this core meets without any other core (R195). -/
def State.rdvDue (s : State) : Bool :=
  s.sq.hold == some .rendezvous && s.ctx.task.any (·.allHere) && (s.mate == .none || s.mate == .waits)

/-- What takes place at a bundle boundary before the next bundle issues. -/
def State.boundaryStep (s : State) : Option Instr :=
  if s.swapDue then some (if s.sq.hold = some .shelfFill then s.helpNext.getD .shelfSwap else .shelfSwap)
  else match s.stopDue with
  | some i => if s.trapFirst then none else some i
  | none =>
  if s.asyncDue then some .asyncCauseTaken
  else if s.core.splitPend && s.core.queues.toList.all (fun q => q.cmds.isEmpty) && !s.coreBound then some .modeChangeInForce
  else s.streamDue

/-- What takes place before the next bundle is looked at. -/
def State.firstStep (s : State) : Option Instr :=
  match s.sq.hold, s.ctx.status with
  | some (.rewind _), _ => some (if s.segBusy then s.helpNext.getD (.rewind false) else .rewind false)
  | _, .ended => some (if s.canEnd then .taskend else s.helpNext.getD .taskend)
  | _, _ => if s.landingDue then some (.resultLanding none) else s.boundaryStep

/-- The bundle at pc: a bundle of one word is that word's instruction. -/
def State.issueStep (s : State) : Instr × State :=
  let t := s.fetchCur
  let c := t.core.cur
  if c.hdr.indexed then (.indexedBundleIssue none, t)
  else match c.slots, c.traps, c.odd with
    | [(_, _, i)], [], [] => (i, t)
    | _, _, _ => (.bundleIssue none, t)

/-- What a wait asks for. -/
def State.waitStep (h : Hold) (s : State) : Instr × State :=
  if h = .matrixSwitch ∧ s.matHeldByOther then (.matrixStateSwitch, s)
  else if h = .engine ∧ s.sq.engOp.isSome then (.ctxEngineDone, s)
  else if s.binsWait ∧ s.watchdogOver then (.binWatchdogExpiry, s.fetchCur)
  else if s.rdvDue then (.rendezvous, s.fetchCur)
  else if h = .rendezvous ∧ s.watchdogOver then (.rdvWatchdogExpiry, s.fetchCur)
  else match s.helpNext with
    | some i => (i, s)
    | none => s.issueStep

/-- The step that the modelled core makes when nothing else comes first. -/
def State.coreStep (s : State) : Instr × State :=
  match s.firstStep with
  | some i => (i, s)
  | none =>
    match s.sq.hold with
    | some h => s.waitStep h
    | none =>
      if s.ctx.status ≠ .running then
        match s.othersNext with
        | some i => (i, s)
        | none => (.bundleIssue none, s)
      else if s.turn = 15 then
        match s.othersNext with
        | some i => (i, s)
        | none => s.issueStep
      else s.issueStep

/-! ## The next step -/

/-- In split mode the half-core that is behind in time steps. -/
def State.pickHalf (s : State) : State :=
  if s.core.split then s.modCore (fun k => { k with active := if k.b.now < k.a.now then .b else .a }) else s

/-- Steps of the issue stage. -/
def atIssueStage : Instr → Bool
  | .bundleIssue _ | .indexedBundleIssue _ => true
  | i => i.kind != .step
def landsResult : Instr → Bool
  | .resultLanding _ => true
  | _ => false

/-- Whether a rendezvous with other cores waits for what the modelled core does first: for its own half-core that is on its way to it, or
for the other's turn. -/
def State.rdvLater (s : State) : Bool :=
  if s.sq.hold = some .rendezvous then s.mate == .soon
  else s.core.split && s.otherSeq.hold == some .rendezvous
/-- Whether a stop of issue or an asynchronous cause on the agenda waits for a trap (R418) or for results that land before. -/
def State.agendaLater (s : State) : Instr → Bool
  | .stopOfIssue hb _ => (s.modCore (fun k => { k with active := hb })).trapFirst
  | .asyncCauseTaken => s.landingDue || s.sq.hold.any Hold.performs
  | .rendezvous => s.rdvLater
  | _ => false

/-- The step that comes next, and the state it is made in: the agenda's first, where it is one of another agent or an input; one of
the issue stage takes its place there, with the fault that it brings. -/
def State.nextAction (s : State) : Instr × State :=
  let s := { s.pickHalf with turn := s.turn + 1 }
  let d := ({ s with turn := s.turn - 1 } : State).coreStep
  let d : Instr × State := (d.1, { d.2 with turn := s.turn })
  match s.agenda with
  | [] => d
  | i :: r =>
    match i with
    | .bundleIssue _ | .indexedBundleIssue _ => if atIssueStage d.1 then (i, { d.2 with agenda := r }) else d
    | .resultLanding _ =>
      if landsResult d.1 then (i, { d.2 with agenda := r }) else if s.ctx.flights = [] then (i, { s with agenda := r }) else d
    | i =>
      if s.agendaLater i then d
      else if i.kind ≠ .step then (d.1, { d.2 with agenda := r })
      else (i, { (if s.sq.hold = some .rendezvous ∧ i = .rendezvous then s.fetchCur else s) with agenda := r })

/-! ## A word placed as the next bundle -/

/-- The slot of a table word (log 12). -/
def slotOfWord (nbits w : Nat) : Slot :=
  match (decodeTableWord nbits w).map Instr.kind with
  | some .vector => .v0
  | some .matrix => .m
  | some .copy => .c0
  | _ => if nbits = 64 then .c0 else .s

/-- The header of a bundle with one slot, lane group 0 enabled. -/
def headerOf (sl : Slot) : Header :=
  { Header.reset with grp := 1, s := sl == .s, v0 := sl == .v0, m := sl == .m, c0 := sl == .c0 }

/-- The 16 bytes of a bundle with one word. -/
def bundleBytes (nbits w : Nat) : List Byte :=
  leBytes 4 (encodeHeader (headerOf (slotOfWord nbits w))) ++ leBytes 12 (w % 2 ^ nbits)

/-- Where the tables and the page of the placed bundle stand in HBM. -/
def placedTable : Nat := 0x40000000

/-- A bundle with one word at the running context's pc, with the translation tables that the fetch walks. -/
def State.placeWord (s : State) (nbits w : Nat) : State :=
  let base := s.pkgId * 2 ^ 43
  let pc : DWord := dw (bitsOf s.ctx.pc 4 52 * 16)
  let tbl := base + placedTable
  let put (l v : Nat) (s : State) : State := s.setBytes (placed l (leBytes 8 v))
  let leaf := base + 0x3F
  let s := s.modCtx (fun c => { c with pc := pc, status := .running, flights := [], pend := 0, pfValid := false, seg := none, remote := [],
                                       csrs := { c.csrs with prv := true } })
  let s := s.modSq (fun q => { q with hold := none, waited := 0, ibuf := IBuf.reset })
  let s := (s.modCore (fun k => { k with l1i := [] })).modPkg (fun p => { p with mid := [] })
  let s := { s with agenda := [], turn := 0 }.setDev 0x018 (dw tbl)
  let s := put (tbl + 16 * s.ctx.csrs.asid.toNat) (tbl + 0x10000 + 1) s
  let s := put (tbl + 16 * s.ctx.csrs.asid.toNat + 8) 0 s
  let s := put (tbl + 0x10000 + 8 * (pc.toNat / 2 ^ 48 % 512)) (tbl + 0x11000 + 1) s
  let s := put (tbl + 0x11000 + 8 * (pc.toNat / 2 ^ 39 % 512)) (tbl + 0x12000 + 1) s
  let s := put (tbl + 0x12000 + 8 * (pc.toNat / 2 ^ 30 % 512)) leaf s
  s.setBytes (placed (base + pc.toNat % 2 ^ 30) (bundleBytes nbits w))

end Sys2Proof.Machine
end

