-- ==== Sys2Proof/Machine/Step.lean ====
section
/-! DEFINITION. One step of the machine, and the state with an instruction placed where the next step fetches it. -/

namespace Sys2Proof.Machine

/-- One step: the machine's next action, made. -/
def step (s : State) : Host.Outcome State Fault Refusal := exec s.nextAction.1 s.nextAction.2

/-- The state with an instruction placed as the next bundle (log 10). -/
def State.withFetchWord (s : State) (nbits w : Nat) : State := s.placeWord nbits w

end Sys2Proof.Machine
end

