-- ==== Sys2Proof/Safety.lean ====
section
/-! DEFINITION. What the statements speak of: the invariant of every step, a slot word that stands alone in the issue stage, and when
nothing keeps it from issuing. -/

namespace Sys2Proof.Machine

/-- Memory is in canonical form: HBM, cellar and core SRAM. -/
def State.memWf (s : State) : Bool := s.pkg.hbm.wf && s.pkg.cellar.wf && s.core.sram.wf

/-! ## A word alone in the issue stage -/

/-- The issue stage holds a direct bundle of one word, in slot `sl`, that decoded, marks no segment and is no rendezvous. -/
def State.alone (s : State) (sl : Slot) : Bool :=
  let c := s.core.cur
  (c.slots.map (fun p => p.1) == [sl]) && c.traps.isEmpty && !c.hdr.indexed && !c.hdr.rdv && !c.hdr.seg

/-- What that word sees of its bundle. -/
def State.loneEnv (s : State) : Env :=
  match s.core.cur.slots with
  | (sl, w, _) :: _ => s.core.cur.env sl w
  | [] => s.core.cur.env .s 0

/-- What a word that acts once asks for, in the running cycle of its issue. -/
def State.onePlan (s : State) (f : Env → State → Plan) : Plan := f s.loneEnv s.atIssue.matrixView

/-- The state that a word sees in the running cycle of its issue, with its context's matrix-side state. -/
abbrev State.seen (s : State) : State := s.atIssue.matrixView
/-- The scope of its accesses. -/
def State.scopeNow (s : State) : Scope := Scope.ofCode s.core.cur.hdr.scope
/-- The trap that the word of this bundle takes. -/
def State.trapNow (s : State) (cause : Nat) (tval : DWord) : State := s.atIssue.takeTrap cause tval s.core.cur.pc s.core.cur.next

/-- The parts of that word, planned in the running cycle of its issue. -/
def State.loneParts (s : State) (m : Meaning) : List Part :=
  directParts s.core.cur [(s.loneEnv.slot, s.loneEnv.word, m)] s.atIssue.matrixView

/-- The state in which those parts commit: at their running cycle, with the context's matrix-side state where they access it. -/
def State.loneStart (s : State) (m : Meaning) : State :=
  if s.atIssue.takesMatrix s.core.cur (s.loneParts m) then s.atIssue.ownMatrix else s.atIssue

/-- No write to any of these registers is in flight. -/
def Ctx.idle (c : Ctx) (rs : List Res) : Bool := rs.all (fun r => (c.pendingOn r).isEmpty)

/-- The scoreboard lets a word that names these registers issue: it is off, or no write to any of them is in flight (R26, R28). -/
def State.unhindered (s : State) (rs : List Res) : Bool := s.ctx.csrs.sbmode == 0 || s.ctx.idle rs

/-- The core holds the running context's matrix-side state, and the context-save engine works on none (R120, R411). -/
def State.holdsMatrix (s : State) : Bool :=
  s.core.matHolder.get (halfIdx s.core.active) == some s.sq.running && s.ctx.matrixSide && !s.sq.engMatrix

/-- No segment is open, and none has just been rewound: a word that would close one has none to close (R433). -/
def State.noSegment (s : State) : Bool := s.ctx.seg.isNone && s.ctx.rewound.isNone

/-- Nothing keeps the word from issuing in its running cycle: no result or landing buffer entry that it waits for (R28, R256), no cause
that applies (R40), and no wait with the clock frozen (R17). -/
def State.clear (s : State) (m : Meaning) : Bool :=
  let ps := s.loneParts m
  let t := s.atIssue
  decide (t.readyAt ps ≤ t.ctx.rc) && (t.raises s.core.cur ps).isEmpty && (!ps.any (·.plan.closes) || s.noSegment) &&
    ((s.loneStart m).holdOf s.core.cur ps).isNone

/-- The lane groups in which the word issues. -/
def State.laneGroups (s : State) : List Group := s.groups s.core.cur.hdr
/-- Some group is enabled, and none of the other half-core (R78). -/
def State.groupsOn (s : State) : Bool := !s.laneGroups.isEmpty && (s.grpTraps s.core.cur).isEmpty

/-- What a V or M word asks for in a lane group. -/
def State.lanePlan (s : State) (f : Env → Group → State → Plan) (g : Group) : Plan := f s.loneEnv g s.atIssue.matrixView

/-- Some group is enabled, and the scoreboard lets the word issue in each: it names these registers there. -/
def State.lanesFree (s : State) (rs : Group → List Res) : Bool := s.groupsOn && s.laneGroups.all (fun g => s.unhindered (rs g))

/-- Some group is enabled, and in each no write to any of these accumulator blocks is in flight, which a shorter one could overtake (R204). -/
def State.blocksFree (s : State) (rs : Group → List Res) : Bool := s.groupsOn && s.laneGroups.all (fun g => s.ctx.idle (rs g))

/-- The state in which a word that goes on in sequence has issued, before its effects. -/
def State.past (s : State) : State := s.atIssue.advance s.core.cur false .seq 0

/-- A vector word has issued, with one result in each of its lane groups that has one. -/
def State.launchV (s : State) (lat : Nat) (d : Reg) (o : Group → Option VOut) : State :=
  s.laneGroups.foldl (fun t g => match o g with | some r => t.launch lat (.v g d r.data r.bits r.tag) r.flags | none => t) s.past
/-- A vector word has issued, with one result in a mask register of each of its lane groups: bits, which of them are written, flags. -/
def State.launchM (s : State) (lat : Nat) (d : MReg) (o : Group → Word × Word × Byte) : State :=
  s.laneGroups.foldl (fun t g => t.launch lat (.m g d (o g).1 (o g).2.1) (o g).2.2) s.past

/-! ## Sides of a command -/

/-- A side of a command lies where the command may access it (R157, R240, R343, R374); its bytes stand from `lo` to `hi`, counted from
its offset. -/
def State.sideOk (s : State) (x : Side) (off : DWord) (lo hi : Int) (k : AccessKind) : Bool :=
  let a : Int := (off.toNat : Int) + lo
  let e : Int := (off.toNat : Int) + hi
  match x with
  | .handle h => decide (0 ≤ a) && (s.handleCauses (s.ctx.h h) a.toNat (hi - lo).toNat k false true true).isEmpty
  | .sram => decide (off.toNat < 2 ^ 22 ∧ 0 ≤ a ∧ a % 4 = 0 ∧ e ≤ 2 ^ 22) && (List.finRange 64).all (fun b =>
      decide (e ≤ b.val * 65536 ∨ (b.val + 1) * 65536 ≤ a) ||
        (s.core.bankMode.get b == .scratch && !s.foreignBank b.val && (s.ctx.csrs.prv || !s.inAttic b.val)))
/-- Its place. -/
def State.sidePlace (s : State) (x : Side) (off : DWord) : Place :=
  match x with
  | .handle h => .page (s.ctx.h h) off.toNat
  | .sram => .sram off.toNat
/-- The bytes of core SRAM that it holds in the range list. -/
def sideSpan (x : Side) (off : DWord) (lo hi : Int) (write : Bool) : List (Nat × Nat × Bool) :=
  match x with
  | .handle _ => []
  | .sram => [(((off.toNat : Int) + lo).toNat, ((off.toNat : Int) + hi).toNat, write)]

/-! ## Whole bundles -/

/-- The parts of the bundle in the issue stage, planned in its running cycle. -/
def State.bundleParts (s : State) : List Part := s.core.cur.parts s.seen
/-- The state in which they commit: with the context's matrix-side state where they access it. -/
def State.bundleStart (s : State) : State :=
  if s.atIssue.takesMatrix s.core.cur s.bundleParts then s.atIssue.ownMatrix else s.atIssue
/-- Nothing keeps the bundle from issuing in its running cycle: no code line that it awaits, no result or landing buffer entry, no cause
that applies, no segment to close or open, and no wait with the clock frozen (R16, R17, R28, R40, R256, R433). -/
def State.bundleClear (s : State) : Bool :=
  let c := s.core.cur
  let ps := s.bundleParts
  !c.awaitsLine && !c.hdr.seg && decide (s.atIssue.readyAt ps ≤ s.atIssue.ctx.rc) && (s.atIssue.raises c ps).isEmpty &&
    ((!c.hdr.rdv && !ps.any (·.plan.closes)) || s.noSegment) && (s.bundleStart.holdOf c ps).isNone

end Sys2Proof.Machine
end

