-- ==== Sys2Proof/Certificates/Slice0/Obligations.lean ====
section
/-! DEFINITION. The statements for the provers. -/

open Sys2Proof Sys2Proof.Machine

/-! ## Decoding and stepping -/

/-- Words written out from the encoding tables of the spec decode to the instructions they stand for (R86 to R91). The RISC-V words
rest on log 5. -/
def Obligations.SpecWordsDecode : Prop :=
  decodeSlot .scalar 0x00730293 = .ok (.scalarAlu (.ri .addi 5 6 7)) ∧
  decodeSlot .scalar 0x00B50633 = .ok (.scalarAlu (.rr .add 12 10 11)) ∧
  decodeSlot .scalar 0x00000073 = .ok .ecall ∧
  decodeSlot .vector 0x00508C00 = .ok (.vadd 5 1 3 0) ∧
  decodeSlot .vector 0xD8140001 = .ok (.vldx 1 8 0 0 0 1) ∧
  decodeSlot .matrix 0x00000000 = .ok .mnop

/-- Every well-formed instruction of the scalar slot is decoded from its own encoding, whatever its operands. The RISC-V encodings
are the model's (log 5). -/
def Obligations.ScalarEncodingRoundTrips : Prop :=
  ∀ i : Instr, i.kind = .scalar → i.wf = true → decodeSlot .scalar (encode i) = .ok i

/-- Every well-formed instruction of the vector slots is decoded from its own encoding, whatever its operands. -/
def Obligations.VectorEncodingRoundTrips : Prop :=
  ∀ i : Instr, i.kind = .vector → i.wf = true → decodeSlot .vector (encode i) = .ok i

/-- Every well-formed instruction of the matrix slot is decoded from its own encoding, whatever its operands. Every well-formed
instruction of the copy slots is decoded from its own encoding, whatever its operands. Which copy words are malformed rests on
log 27. -/
def Obligations.MatrixAndCopyEncodingRoundTrips : Prop :=
  (∀ i : Instr, i.kind = .matrix → i.wf = true → decodeSlot .matrix (encode i) = .ok i) ∧
  (∀ i : Instr, i.kind = .copy → i.wf = true → decodeSlot .copy (encode i) = .ok i)

/-- A step fetches the bundle at the running context's pc and runs what it decodes to: a direct bundle of one word runs that word's
instruction, in the state that has fetched it. The premises rule out what comes before a bundle: inputs on the agenda, another
agent's turn (log 2), a wait, a result that is due, and a boundary step. A direct bundle of several words, or one with a
decoding fault, is issued whole by the step; an indexed one by its own step. That nothing else acts before the bundle is the
order of log 2. -/
def Obligations.StepRunsDecodedInstruction : Prop :=
  (∀ (s : State) (ws : List Nat) (sl : Slot) (w : Nat) (i : Instr),
    s.core.split = false → s.agenda = [] → s.turn ≠ 15 → s.sq.hold = none → s.ctx.status = .running →
    s.landingDue = false → s.boundaryStep = none →
    s.fetchBundle s.ctx.pc = .words ws → (splitBundle ws).hdr.indexed = false → (splitBundle ws).headerTraps = [] →
    (splitBundle ws).slots = [(sl, w)] →
    decodeSlot (slotKind sl) w = .ok i →
    step s = exec i { s.fetchCur with turn := s.turn + 1 } ∧ s.fetchCur.core.cur.slots = [(sl, w, i)] ∧ s.fetchCur.core.cur.pc = s.ctx.pc) ∧
  (∀ (s : State),
    s.core.split = false → s.agenda = [] → s.turn ≠ 15 → s.sq.hold = none → s.ctx.status = .running →
    s.landingDue = false → s.boundaryStep = none →
    (s.fetchCur.core.cur.hdr.indexed = true →
      step s = exec (.indexedBundleIssue none) { s.fetchCur with turn := s.turn + 1 }) ∧
    (s.fetchCur.core.cur.hdr.indexed = false → s.fetchCur.core.cur.slots.length ≠ 1 →
      step s = exec (.bundleIssue none) { s.fetchCur with turn := s.turn + 1 }) ∧
    (s.fetchCur.core.cur.hdr.indexed = false → s.fetchCur.core.cur.traps ≠ [] ∨ s.fetchCur.core.cur.odd ≠ [] →
      step s = exec (.bundleIssue none) { s.fetchCur with turn := s.turn + 1 }))

/-! ## Scalar arithmetic and control -/

/-- The integer operations write their result at the latency of R18: 1 cycle for the base and bit-manipulation operations, 3 for
multiplies, 20 for divisions. What the integer operations compute, against integer arithmetic: the high products, division by
zero, the overflow of a signed division, the sign extension of word results, and the shifted adds. The results are those of
RISC-V by reference (log 5). -/
def Obligations.ScalarIntegerResults : Prop :=
  (∀ s : State, s.alone .s = true →
    (∀ op, s.unhindered ((aluDest op :: aluReads op).map .x) = true →
      exec (.scalarAlu op) s = .next (s.past.launchX 1 (aluDest op) (aluResult op s.core.cur.pc s.ctx.x))) ∧
    (∀ op d a b, s.unhindered [.x d, .x a, .x b] = true →
      exec (.scalarMul op d a b) s = .next (s.past.launchX 3 d (mulResult op (s.ctx.x a) (s.ctx.x b)))) ∧
    (∀ op d a b, s.unhindered [.x d, .x a, .x b] = true →
      exec (.scalarDiv op d a b) s = .next (s.past.launchX 20 d (divResult op (s.ctx.x a) (s.ctx.x b))))) ∧
  ((∀ a b : DWord, (mulResult .mulh a b).toInt = a.toInt * b.toInt / 2 ^ 64 ∧
    (mulResult .mulhu a b).toNat = a.toNat * b.toNat / 2 ^ 64 ∧ (mulResult .mulw a b).toInt = ((a.truncate 32 * b.truncate 32 : BitVec 32)).toInt) ∧
  (∀ a : DWord, divResult .div a 0 = BitVec.allOnes 64 ∧ divResult .divu a 0 = BitVec.allOnes 64 ∧ divResult .rem a 0 = a ∧
    divResult .remu a 0 = a) ∧
  divResult .div (BitVec.intMin 64) (BitVec.allOnes 64) = BitVec.intMin 64 ∧
  divResult .rem (BitVec.intMin 64) (BitVec.allOnes 64) = 0 ∧
  (∀ a b : DWord, b ≠ 0 → divResult .divu a b * b + divResult .remu a b = a) ∧
  (∀ a b : DWord, b ≠ 0 → divResult .div a b * b + divResult .rem a b = a) ∧
  (∀ a b : DWord, aluRR .addw a b = (a.truncate 32 + b.truncate 32 : BitVec 32).signExtend 64 ∧
    aluRR .sh2add a b = a * 4 + b ∧ aluRR .andn a b = a &&& ~~~b))

/-- The F and D operations write their result with its flags at the latency of R18: 2 cycles for moves, sign injection, comparison
and classification, 4 for addition, multiplication, fused forms and conversions, 12 for division and square root. Where the
rounding mode is reserved, or dynamic with a reserved frm, the word traps with cause 0x07. The results are those of RISC-V by
reference (log 5); the latency of FMIN and FMAX is the model's reading (log 51). -/
def Obligations.ScalarFloatResults : Prop :=
  ∀ (s : State) (op : FpInstr), s.alone .s = true →
    (∀ md, fpMode (fpRm op) s.ctx.csrs.frm = some md →
      s.unhindered (fpReads op ++ ((fpDest op).tracked (fpLat op)).map (fun p => p.1)) = true →
      exec (.scalarFp op) s = .next (s.past.launch (fpLat op) ((fpDest op).write (fpResult md s.ctx op).1) 0
        (scalarFlags (fpResult md s.ctx op).2))) ∧
    (fpMode (fpRm op) s.ctx.csrs.frm = none → exec (.scalarFp op) s = .next (s.trapNow 0x07 s.loneEnv.form)) ∧
    (∀ md, let r := fpResult md s.ctx op
      match op with
        | .arith o dbl _ rd a b => fpReads op = [.f a, .f b] ∧ fpDest op = .f rd ∧ fpLat op = (if o = .div then 12 else 4) ∧
            r.1 = box dbl (fpArith o (fpFmt dbl) md ((fpFmt dbl).decode (unbox dbl (s.ctx.f a))) ((fpFmt dbl).decode (unbox dbl (s.ctx.f b)))).1
        | .sqrt dbl _ rd a => fpReads op = [.f a] ∧ fpDest op = .f rd ∧ fpLat op = 12 ∧
            r.1 = box dbl (sqrtN (fpFmt dbl) md ((fpFmt dbl).decode (unbox dbl (s.ctx.f a)))).1
        | .fma o dbl _ rd a b c => fpReads op = [.f a, .f b, .f c] ∧ fpDest op = .f rd ∧ fpLat op = 4 ∧
            r.1 = box dbl (fpFma o (fpFmt dbl) md ((fpFmt dbl).decode (unbox dbl (s.ctx.f a))) ((fpFmt dbl).decode (unbox dbl (s.ctx.f b)))
              ((fpFmt dbl).decode (unbox dbl (s.ctx.f c)))).1
        | .sgn _ _ rd a b => fpReads op = [.f a, .f b] ∧ fpDest op = .f rd ∧ fpLat op = 2 ∧ r.2 = 0
        | .minmax _ _ rd a b => fpReads op = [.f a, .f b] ∧ fpDest op = .f rd ∧ fpLat op = 2
        | .cmp o dbl rd a b => fpReads op = [.f a, .f b] ∧ fpDest op = .x rd ∧ fpLat op = 2 ∧
            r = fpCompare o ((fpFmt dbl).decode (unbox dbl (s.ctx.f a))) ((fpFmt dbl).decode (unbox dbl (s.ctx.f b)))
        | .fclass _ rd a => fpReads op = [.f a] ∧ fpDest op = .x rd ∧ fpLat op = 2 ∧ r.2 = 0
        | .toInt t dbl _ rd a => fpReads op = [.f a] ∧ fpDest op = .x rd ∧ fpLat op = 4 ∧
            r = toIntFp t md ((fpFmt dbl).decode (unbox dbl (s.ctx.f a)))
        | .ofInt _ _ _ rd a => fpReads op = xs [a] ∧ fpDest op = .f rd ∧ fpLat op = 4
        | .cvt _ _ rd a => fpReads op = [.f a] ∧ fpDest op = .f rd ∧ fpLat op = 4
        | .mvToX dbl rd a => fpReads op = [.f a] ∧ fpDest op = .x rd ∧ fpLat op = 2 ∧ r = (if dbl then s.ctx.f a else sx32 (lo32 (s.ctx.f a)), 0)
        | .mvOfX dbl rd a => fpReads op = xs [a] ∧ fpDest op = .f rd ∧ fpLat op = 2 ∧ r.2 = 0 ∧ (dbl = true → r.1 = s.ctx.x a))

/-- A branch that is not taken goes on in sequence; a taken one, a jump and an indirect jump go to their target, with the link in rd
one cycle later, where the target is 16-byte aligned; where it is not, they trap with cause 0x0D and the target as detail. With
no loop ending, a branch that is not taken goes on at the next bundle, and a jump at its target, no earlier than the cycle that
the bundle's own stall allows and the one of the penalty: of an indirect one, six cycles or more. JTAB at an index at or above
its count goes on in sequence; below it, it jumps to itself plus the table's word with its low four bits cleared. The latency of
a link value is the model's choice (log 84); the freeze of the table's read is free (log 6). -/
def Obligations.TransfersGoToTarget : Prop :=
  (∀ s : State, s.alone .s = true →
    (∀ c a b i, s.unhindered [.x a, .x b] = true → taken c (s.ctx.x a) (s.ctx.x b) = false →
      exec (.branch c a b i) s = .next (s.atIssue.advance s.core.cur false .untaken 0)) ∧
    (∀ c a b (i : BitVec 12) (t : DWord), s.unhindered [.x a, .x b] = true → taken c (s.ctx.x a) (s.ctx.x b) = true → t = s.core.cur.pc + (i.signExtend 64) <<< (1 : Nat) →
      exec (.branch c a b i) s = .next (if bitsOf t 0 4 = 0 then s.atIssue.advance s.core.cur false (.jump t false) 0
        else s.atIssue.takeTrap 0x0D t s.core.cur.pc s.core.cur.next)) ∧
    (∀ d (i : BitVec 20) (t : DWord), s.unhindered [.x d] = true → t = s.core.cur.pc + (i.signExtend 64) <<< (1 : Nat) →
      exec (.jal d i) s = .next (if bitsOf t 0 4 = 0 then (s.atIssue.advance s.core.cur false (.jump t false) 0).launchX 1 d s.core.cur.next
        else s.atIssue.takeTrap 0x0D t s.core.cur.pc s.core.cur.next)) ∧
    (∀ d a (i : BitVec 12) (t : DWord), s.unhindered [.x d, .x a] = true → t = (s.ctx.x a + i.signExtend 64) &&& ~~~(1 : DWord) →
      exec (.jalr d a i) s = .next (if bitsOf t 0 4 = 0 then (s.atIssue.advance s.core.cur false (.jump t true) 0).launchX 1 d s.core.cur.next
        else s.atIssue.takeTrap 0x0D t s.core.cur.pc s.core.cur.next)) ∧
    (∀ (t : DWord) (ind : Bool), let u := s.atIssue.advance s.core.cur false (.jump t ind) 0
      u.ctx.pc = t ∧ s.atIssue.ctx.rc + 1 + s.core.cur.hdr.wait ≤ u.ctx.nextIssue ∧ (ind = true → s.atIssue.ctx.rc + 7 ≤ u.ctx.nextIssue)) ∧
    ((∀ f ∈ s.ctx.loops, f.stop ≠ s.core.cur.pc) →
      let u := s.atIssue.advance s.core.cur false .untaken 0
      u.ctx.pc = s.core.cur.next ∧ s.atIssue.ctx.rc + 1 + s.core.cur.hdr.wait ≤ u.ctx.nextIssue)) ∧
  (∀ (s : State) (c b a : Reg), s.alone .s = true → s.sq.man.service = none → s.unhindered [.x c, .x b, .x a] = true →
    (s.ctx.x c ≤ s.ctx.x a → exec (.jtab c b a) s = .next s.past) ∧
    (s.ctx.x a < s.ctx.x c →
      let va := s.ctx.x b + 4 * s.ctx.x a
      let x := s.seen.access va 4 .read false
      x.raises = [] → ∀ v hit, s.seen.readScalar s.scopeNow x 4 = .value v hit → v < 2 ^ 32 →
      exec (.jtab c b a) s = .next ((s.atIssue.advance s.core.cur false
        (.jump (s.core.cur.pc + (BitVec.ofNat 32 v &&& ~~~(15 : BitVec 32)).signExtend 64) true) 0).readScalarEff s.scopeNow va x hit)))

/-- After a bundle the next one issues no earlier than running cycle t + 1 + WAIT; in sequence, with no loop ending, it is the one
that follows, and instret has counted one bundle. Nothing else of the context's registers, flags or special registers has
changed. WAIT lengthens the stall of its own bundle by its immediate and the low 16 bits of rs1. -/
def Obligations.BundleGoesOnAfterWait : Prop :=
  (∀ s : State, s.alone .s = true →
    s.past.ctx.regs = s.ctx.regs ∧ s.past.ctx.flights = s.ctx.flights ∧
    s.past.ctx.csrs = { s.ctx.csrs with instret := s.ctx.csrs.instret + 1 } ∧
    s.past.ctx.seqNo = s.ctx.seqNo + 1 ∧
    s.atIssue.ctx.rc + 1 + s.core.cur.hdr.wait ≤ s.past.ctx.nextIssue ∧ s.atIssue.ctx.rc = max s.ctx.rc s.ctx.nextIssue ∧
    ((∀ f ∈ s.ctx.loops, f.stop ≠ s.core.cur.pc) →
      s.past.ctx.pc = s.core.cur.next ∧ s.past.ctx.nextIssue = s.atIssue.ctx.rc + 1 + s.core.cur.hdr.wait)) ∧
  (∀ (s : State) (i : BitVec 12) (a : Reg), s.alone .s = true → s.unhindered [.x a] = true →
    exec (.wait i a) s = .next (s.atIssue.advance s.core.cur false .seq (i.toNat + (s.ctx.x a).toNat % 2 ^ 16)) ∧
    ((∀ f ∈ s.ctx.loops, f.stop ≠ s.core.cur.pc) →
      (s.atIssue.advance s.core.cur false .seq (i.toNat + (s.ctx.x a).toNat % 2 ^ 16)).ctx.nextIssue =
        s.atIssue.ctx.rc + 1 + s.core.cur.hdr.wait + (i.toNat + (s.ctx.x a).toNat % 2 ^ 16)))

/-- LOOP pushes a frame with the bundle after it as start, the named end and the low 32 bits of the count register; with four frames
present it traps with cause 0x13, with an end at or before itself with cause 0x0F; with a count of 0 it pushes none and goes on
past the end. The end test of loops: at the end bundle of the innermost frame the count falls by one; a count that is not
exhausted loops back to the start at no penalty, and one that is pops the frame, the next frame that shares the end being tested
in the same way. Where a skip stops at a header that cannot be read is the model's (log 50). -/
def Obligations.LoopFrames : Prop :=
  (∀ (s : State) (i : BitVec 12) (a : Reg), s.alone .s = true → s.unhindered [.x a] = true →
    (i.toInt < s.core.cur.hdr.len + 1 →
      exec (.loop i a) s = .next (s.atIssue.takeTrap 0x0F s.loneEnv.form s.core.cur.pc s.core.cur.next)) ∧
    (s.core.cur.hdr.len + 1 ≤ i.toInt → (s.ctx.x a).toNat % 2 ^ 32 ≠ 0 → s.ctx.loops.length = 4 →
      exec (.loop i a) s = .next (s.atIssue.takeTrap 0x13 s.loneEnv.form s.core.cur.pc s.core.cur.next)) ∧
    (s.core.cur.hdr.len + 1 ≤ i.toInt → (s.ctx.x a).toNat % 2 ^ 32 ≠ 0 → s.ctx.loops.length ≠ 4 →
      (∀ f ∈ s.ctx.loops, f.stop ≠ s.core.cur.pc ∧ ¬ (s.core.cur.pc ≤ f.stop ∧ f.stop < s.core.cur.next)) →
      ∃ t, exec (.loop i a) s = .next t ∧ t.ctx.pc = s.core.cur.next ∧
        t.ctx.loops = { start := s.core.cur.next, stop := s.core.cur.pc + dwi (16 * i.toInt), count := (s.ctx.x a).truncate 32 } :: s.ctx.loops) ∧
    (s.core.cur.hdr.len + 1 ≤ i.toInt → (s.ctx.x a).toNat % 2 ^ 32 = 0 →
      ∃ target, exec (.loop i a) s = .next (s.atIssue.advance s.core.cur false (.skip target) 0) ∧
        target = s.atIssue.matrixView.skipFrom (s.core.cur.pc + dwi (16 * i.toInt)) i.toInt.toNat s.core.cur.next)) ∧
  (∀ (f : LoopFrame) (r : List LoopFrame) (pc : DWord),
    (f.stop = pc → f.count ≠ 1 → loopEnd pc (f :: r) true = ({ f with count := f.count - 1 } :: r, some (f.start, true))) ∧
    (f.stop = pc → f.count = 1 → loopEnd pc (f :: r) true = loopEnd pc r false) ∧
    (f.stop ≠ pc → loopEnd pc (f :: r) true = (f :: r, none)) ∧
    (∀ s : State, s.alone .s = true → s.ctx.loops = f :: r → s.core.cur.pc = f.stop → pc = f.stop → f.count ≠ 1 → f.start ≤ f.stop →
      s.past.ctx.pc = f.start ∧ s.past.ctx.loops = { f with count := f.count - 1 } :: r ∧
      s.past.ctx.nextIssue = s.atIssue.ctx.rc + 1 + s.core.cur.hdr.wait))

/-- The control and status registers: an instruction puts the old value in rd one cycle later and writes the new one; a number that
the map does not list, or a write to a read-only one, raises 0x02, and a supervisor register at user level 0x0C. What a CSR
write leaves of the value written: reserved bits read 0, the fields that an instruction may not write stay, and a write of the
reserved sbmode 3 is ignored. -/
def Obligations.CsrAccess : Prop :=
  (∀ (s : State) (n : BitVec 12) (d a : Reg) (u : BitVec 5), s.alone .s = true → s.unhindered [.x d, .x a] = true →
    let old := s.atIssue.csr n.toNat
    let wrote (v : DWord) : State := (s.past.launchX 1 d old).writeCsr n.toNat v
    let only : State := s.past.launchX 1 d old
    (∀ sup, csrAccess n.toNat = some (false, sup) → (sup = true → s.ctx.csrs.prv = true) →
      exec (.csrrw n d a) s = .next (wrote (s.ctx.x a)) ∧
      exec (.csrrs n d a) s = .next (if a = 0 then only else wrote (old ||| s.ctx.x a)) ∧
      exec (.csrrc n d a) s = .next (if a = 0 then only else wrote (old &&& ~~~(s.ctx.x a))) ∧
      exec (.csrrwi n d u) s = .next (wrote (u.zeroExtend 64)) ∧
      exec (.csrrsi n d u) s = .next (if u = 0 then only else wrote (old ||| u.zeroExtend 64)) ∧
      exec (.csrrci n d u) s = .next (if u = 0 then only else wrote (old &&& ~~~(u.zeroExtend 64)))) ∧
    (csrAccess n.toNat = some (true, false) →
      exec (.csrrs n d 0) s = .next only ∧ exec (.csrrc n d 0) s = .next only ∧
      exec (.csrrw n d a) s = .next (s.atIssue.takeTrap 0x02 s.loneEnv.form s.core.cur.pc s.core.cur.next)) ∧
    (csrAccess n.toNat = none →
      exec (.csrrw n d a) s = .next (s.atIssue.takeTrap 0x02 s.loneEnv.form s.core.cur.pc s.core.cur.next) ∧
      exec (.csrrsi n d u) s = .next (s.atIssue.takeTrap 0x02 s.loneEnv.form s.core.cur.pc s.core.cur.next)) ∧
    (csrAccess n.toNat = some (false, true) → s.ctx.csrs.prv = false →
      exec (.csrrw n d a) s = .next (s.atIssue.takeTrap 0x0C s.loneEnv.form s.core.cur.pc s.core.cur.next))) ∧
  (∀ (c : Ctx) (v : DWord),
    ({ c with csrs := c.csrs.write 0x5C1 v } : Ctx).csr 0x5C1 = v &&& ~~~(0xF : DWord) ∧
    ({ c with csrs := c.csrs.write 0x5C0 v } : Ctx).csr 0x5C0 = v &&& 0xFF ∧
    ({ c with csrs := c.csrs.write 0x5C4 v } : Ctx).csr 0x5C4 = v &&& 0xFFFFFFFFFFFFF001 ∧
    ({ c with csrs := c.csrs.write 0x5C6 v } : Ctx).csr 0x5C6 = v ∧
    ({ c with csrs := c.csrs.write 0x801 v } : Ctx).csr 0x801 = v &&& 0xFF ∧
    ({ c with csrs := c.csrs.write 0x800 3 } : Ctx).csr 0x800 = c.csr 0x800 ∧
    ({ c with csrs := c.csrs.write 0x5C3 v } : Ctx).csrs.prv = c.csrs.prv ∧
    ({ c with csrs := c.csrs.write 0x802 v } : Ctx).csrs.rdvSize = c.csrs.rdvSize ∧
    c.csrs.write 0xC02 v = c.csrs ∧ c.csrs.write 0x5C5 v = c.csrs)

/-- Taking an exception: the saved registers, the status, the mode, the parked writes, the reservation and the pc, as R107 lists
them. The parked set keeps the loop stack and a waiting BARW of the trapped code (log 81); the handler's first bundle issues at
the indirect penalty, six cycles or more. -/
def Obligations.TrapEntrySteps : Prop :=
  ∀ (s : State) (cause : Nat) (tval pc next : DWord), s.ctx.csrs.intrap = false → s.ctx.parked.length < 4 → s.ctx.seg = none →
    let c := s.ctx
    let t := (s.takeTrap cause tval pc next).ctx
    t.csrs.tcause = BitVec.ofNat 8 cause ∧ t.csrs.tepc = pc &&& ~~~(0xF : DWord) ∧ t.csrs.tnext = next ∧ t.csrs.tval = tval ∧
    t.csrs.pprv = c.csrs.prv ∧ t.csrs.pie = c.csrs.ie ∧ t.csrs.sbm = c.csrs.sbmode ∧ t.csrs.intrap = true ∧ t.csrs.ie = false ∧
    t.csrs.prv = true ∧ t.csrs.sbmode = 2 ∧ t.resv = none ∧ t.parked = c.parked ++ [{ t0 := c.rc, writes := c.flights, loops := c.loops, arrived := c.arrived }] ∧
    t.flights = [] ∧ t.loops = [] ∧ t.arrived = none ∧
    t.pc = c.csrs.handler cause ∧ t.rc = c.rc ∧ c.rc + 7 ≤ t.nextIssue ∧
    (let u := s.leaveIssue.modCtx (fun c => c.enterTrap cause tval pc next);
      t.nextIssue = c.rc + 1 + max 6 (u.pathPen (c.csrs.handler cause))) ∧ t.regs = c.regs ∧
    t.csrs.instret = c.csrs.instret ∧ t.csrs.vflags = c.csrs.vflags ∧ t.csrs.fflags = c.csrs.fflags ∧ t.shb = true

/-- A trap while INTRAP is 1 is a double trap: the trap registers stay, the cause goes to tcause2, and the context stops at the
bundle. -/
def Obligations.DoubleTrapStopsContext : Prop :=
  ∀ (s : State) (cause : Nat) (tval pc next : DWord), s.ctx.csrs.intrap = true → s.ctx.seg = none →
    let t := (s.takeTrap cause tval pc next).ctx
    t.csrs = { s.ctx.csrs with tcause2 := BitVec.ofNat 8 cause } ∧ t.status = .halted ∧ t.pc = pc ∧ t.regs = s.ctx.regs ∧
    t.flights = s.ctx.flights ∧ t.parked = s.ctx.parked ∧ s.ctx.rc + 7 ≤ t.nextIssue

/-- ECALL raises 0xB0 from user and 0xB1 from supervisor level, EBREAK 0xB2, each with detail 0; TRAP raises 0xB3 with x[rs1]. At
user level the supervisor instructions trap with cause 0x0C. -/
def Obligations.SoftwareTrapsAndPrivilege : Prop :=
  (∀ s : State, s.alone .s = true →
    exec .ecall s = .next (s.atIssue.takeTrap (if s.ctx.csrs.prv then 0xB1 else 0xB0) 0 s.core.cur.pc s.core.cur.next) ∧
    exec .ebreak s = .next (s.atIssue.takeTrap 0xB2 0 s.core.cur.pc s.core.cur.next) ∧
    (∀ a, s.unhindered [.x a] = true → exec (.trap a) s = .next (s.atIssue.takeTrap 0xB3 (s.ctx.x a) s.core.cur.pc s.core.cur.next))) ∧
  (∀ (s : State) (a b d : Reg), s.alone .s = true → s.ctx.csrs.prv = false →
    ∀ i ∈ ([.tret, .halt, .banksw a d, .ctxsave b a, .ctxload b a, .splnt b a d, .strmAdd a d, .strmDel a d] : List Instr),
      exec i s = .next (s.atIssue.takeTrap 0x0C s.loneEnv.form s.core.cur.pc s.core.cur.next))

/-- TRET at supervisor level restores PRV, IE and sbmode from the status, clears INTRAP, releases the reservation and goes to tepc;
a parked set is in flight again at its landing cycles, at the running cycle of the trapped bundle, with its loop stack (log 81);
either way the transfer pays the indirect penalty, six cycles or more. HALT at supervisor level stops the context after its
bundle, to go on at the indirect penalty. That a handler's own writes keep their offsets is the model's reading (log 9). -/
def Obligations.TrapReturnAndHalt : Prop :=
  (∀ s : State, s.alone .s = true → s.ctx.csrs.prv = true → ∃ t, exec .tret s = .next t ∧
    t.ctx.csrs.prv = s.ctx.csrs.pprv ∧ t.ctx.csrs.ie = s.ctx.csrs.pie ∧ t.ctx.csrs.intrap = false ∧
    t.ctx.csrs.sbmode = (if s.ctx.csrs.sbm = 3 then s.ctx.csrs.sbmode else s.ctx.csrs.sbm) ∧
    t.ctx.resv = none ∧ t.ctx.pc = s.ctx.csrs.tepc ∧ t.ctx.regs = s.ctx.regs ∧
    (s.ctx.parked = [] → s.atIssue.ctx.rc + 7 ≤ t.ctx.nextIssue ∧ t.ctx.flights = s.ctx.flights ∧ t.ctx.parked = []) ∧
    (∀ r p, s.ctx.parked = r ++ [p] → t.ctx.parked = r ∧ t.ctx.nextIssue = p.t0 ∧ t.ctx.rc = p.t0 ∧
      t.ctx.loops = popOutside s.ctx.csrs.tepc p.loops ∧ t.ctx.arrived = p.arrived ∧
      (∃ n, 7 ≤ n ∧ t.sq.cycle = s.atIssue.sq.cycle + dw n) ∧
      ∀ f ∈ p.writes, { f with replay := true } ∈ t.ctx.flights)) ∧
  (∀ s : State, s.alone .s = true → s.ctx.csrs.prv = true →
    exec .halt s = .next s.past.haltHere ∧ s.past.haltHere.ctx.status = .halted ∧ s.past.haltHere.ctx.pc = s.past.ctx.pc ∧
    s.atIssue.ctx.rc + 7 ≤ s.past.haltHere.ctx.nextIssue ∧ s.past.haltHere.ctx.flights = s.ctx.flights)

/-! ## Scalar memory accesses -/

/-- A scalar load whose access raises nothing writes its result three cycles later, extended as the operation says; where the line
it reads holds an uncorrectable error it raises 0xA1 with its address. The values loads write: sign extension for LB, LH and LW,
zero extension for the others, NaN-boxing for FLW. The freeze of a miss is free (log 6); which translation gives way is log 7. -/
def Obligations.ScalarLoadResult : Prop :=
  (∀ (s : State) (w : LoadOp) (d a : Reg) (i : BitVec 12), s.alone .s = true → s.sq.man.service = none →
    s.unhindered (.x a :: ((loadDest w d).tracked 3).map (·.1)) = true →
    let va := s.ctx.x a + i.signExtend 64
    let x := s.seen.access va (LoadOp.bytes w) .read false
    x.raises = [] →
    (∀ v hit, s.seen.readScalar s.scopeNow x (LoadOp.bytes w) = .value v hit →
      exec (.scalarLoad w d a i) s = .next ((s.past.readScalarEff s.scopeNow va x hit).launch 3 ((loadDest w d).write (loadValue w v)))) ∧
    (s.seen.readScalar s.scopeNow x (LoadOp.bytes w) = .bad → s.ctx.seg = none →
      exec (.scalarLoad w d a i) s = .next (s.trapNow 0xA1 va))) ∧
  (∀ (v : Nat),
    (v < 2 ^ 8 → loadValue .lb v = (BitVec.ofNat 8 v).signExtend 64 ∧ loadValue .lbu v = BitVec.ofNat 64 v) ∧
    (v < 2 ^ 16 → loadValue .lh v = (BitVec.ofNat 16 v).signExtend 64 ∧ loadValue .lhu v = BitVec.ofNat 64 v) ∧
    (v < 2 ^ 32 → loadValue .lw v = (BitVec.ofNat 32 v).signExtend 64 ∧ loadValue .lwu v = BitVec.ofNat 64 v ∧
      (loadValue .flw v).toNat = 0xFFFFFFFF00000000 + v) ∧
    (v < 2 ^ 64 → (loadValue .ld v).toNat = v ∧ (loadValue .fld v).toNat = v))

/-- A scalar store whose access raises nothing performs its bytes, little-endian, at the location of its address. What a store
performs at a location of this package's HBM is what a read at its scope finds there, and every other location reads as it did,
also where the store makes the core cache give up a line. The premises say that guest copies of lines of this package hold the
home's bytes, and that the cache, where it holds that location's line, differs from the home only in bytes that it holds dirty.
The line that the cache gives up is free (log 8). -/
def Obligations.ScalarStoreResult : Prop :=
  (∀ (s : State) (w : StoreOp) (a b : Reg) (i : BitVec 12), s.alone .s = true → s.sq.man.service = none →
    s.unhindered (.x a :: storeReads w b) = true →
    let va := s.ctx.x a + i.signExtend 64
    let x := s.seen.access va (StoreOp.bytes w) .write false
    x.raises = [] →
    exec (.scalarStore w a b i) s = .next ((s.past.tlbFill va x.trans).store
      { bytes := placed x.loc (leBytes (StoreOp.bytes w) (storeSource w s.ctx b).toNat), scope := s.scopeNow,
        hint := attrHint x.trans.attr, repl := attrRepl x.trans.attr })) ∧
  (∀ (s : State) (l n v : Nat) (sc : Scope) (hint : Fin 4), s.ctx.seg = none → 0 < n → l % n = 0 → n = 1 ∨ n = 2 ∨ n = 4 ∨ n = 8 →
    s.isHbm l = true → s.badLine (lineOf l) = false →
    (∀ x ∈ s.core.cache, x.line % 64 = 0 ∧ x.bytes.length = 64) →
    (s.core.cache.map (fun x => (x.half, x.line))).Nodup →
    (∀ x ∈ s.pkg.l2, ∀ g, x.guest = some g → s.isHbm x.line = true → x.line % 64 = 0 ∧ g = s.bytesAt x.line 64) →
    let t := s.store { bytes := placed l (leBytes n v), scope := sc, hint := hint, repl := false }
    (t.peek sc l n).map Got.bytes = some (leBytes n v) ∧
    (∀ m, m < l ∨ l + n ≤ m → s.isHbm m = true → s.badLine (lineOf m) = false →
      (∀ x ∈ s.core.cache, x.half = s.cacheHalf → x.line = lineOf m →
        ∀ i < 64, x.dirty.getLsbD i = false → x.bytes.getD i 0 = s.byteAt (x.line + i)) →
      (t.peek .core m 1).map Got.bytes = (s.peek .core m 1).map Got.bytes))

/-- A misaligned scalar access raises 0x71 with its address, where the address translates and no lower cause stands. An access that
does not translate raises the cause of its translation with its address; where the page-fault switch is off or the context runs
at supervisor level, it enters the handler. Which cause a translation ends in: an address that is not canonical 0x69; an entry
of the translation cache that does not allow the access at the privilege 0x61; with none, the walk of the tables from the
context's ASID. The order of waits and causes is the model's reading (log 46). -/
def Obligations.AccessTraps : Prop :=
  (∀ (s : State) (d a b : Reg) (i : BitVec 12), s.alone .s = true → s.unhindered [.x d, .x a, .x b, .f d, .f b] = true →
    let va := s.ctx.x a + i.signExtend 64
    (∀ w t, va.toNat % LoadOp.bytes w ≠ 0 → s.seen.translate AccessKind.read.need va = .ok t →
      exec (.scalarLoad w d a i) s = .next (s.trapNow 0x71 va)) ∧
    (∀ w t, va.toNat % StoreOp.bytes w ≠ 0 → s.seen.translate AccessKind.write.need va = .ok t → attrSync t.attr = false →
      exec (.scalarStore w a b i) s = .next (s.trapNow 0x71 va)) ∧
    (∀ dbl aq rl t, (s.ctx.x a).toNat % (if dbl then 8 else 4) ≠ 0 → s.noSegment = true →
      s.seen.translate AccessKind.read.need (s.ctx.x a) = .ok t →
      attrAtom t.attr = true → attrRepl t.attr = false → s.seen.region false (t.loc s.seen.die (s.ctx.x a)) = .hbm →
      exec (.lr dbl aq rl d a) s = .next (s.trapNow 0x71 (s.ctx.x a)))) ∧
  (∀ (s : State) (d a b : Reg) (i : BitVec 12) (c : Nat), s.alone .s = true → s.unhindered [.x d, .x a, .x b, .f d, .f b] = true →
    s.ctx.csrs.prv = true ∨ s.core.fsw.get (halfIdx s.core.active) = false →
    let va := s.ctx.x a + i.signExtend 64
    (∀ w, s.seen.translate AccessKind.read.need va = .error c → exec (.scalarLoad w d a i) s = .next (s.trapNow c va)) ∧
    (∀ w, s.seen.translate AccessKind.write.need va = .error c → exec (.scalarStore w a b i) s = .next (s.trapNow c va))) ∧
  (∀ (s : State) (need : Need) (va : DWord),
    ((va.truncate 57 : BitVec 57).signExtend 64 ≠ va → s.translate need va = .error 0x69) ∧
    ((va.truncate 57 : BitVec 57).signExtend 64 = va →
      (∀ e, s.ctx.tlbHit va = some e → allows e.attr need (!s.ctx.csrs.prv) = false → s.translate need va = .error 0x61) ∧
      (∀ e, s.ctx.tlbHit va = some e → allows e.attr need (!s.ctx.csrs.prv) = true →
        ∃ t, s.translate need va = .ok t ∧ t.frame = e.frame ∧ t.size = e.size ∧ t.attr = e.attr) ∧
      (s.ctx.tlbHit va = none → s.translate need va = s.walk s.ctx.csrs.asid va need (!s.ctx.csrs.prv))))

/-- An operation that executes at a home of this package: it is performed there in the order that its release and acquire bits give
it, and its answer is in rd three cycles later; one that releases at fabric scope has waited for its earlier writes to other
packages, and at package scope for those to the host window. LR and AMO operations are those of RISC-V (log 5). -/
def Obligations.AtomicsExecuteAtHome : Prop :=
  ∀ (s : State) (dbl aq rl : Bool) (d a b : Reg), s.alone .s = true → s.noSegment = true → s.sq.man.service = none →
    s.unhindered [.x d, .x a, .x b] = true →
    let va := s.ctx.x a
    let sc := s.scopeNow
    let n := if dbl then 8 else 4
    let ready (x : Access) : Prop := x.raises = [] ∧ farRegion x.region x.loc = false ∧ s.seen.releaseHolds rl sc = [] ∧
      (s.seen.yieldLine (lineOf x.loc)).badLine x.loc = false
    let acq (t : State) : State := if aq then t.acquireOrder sc else t;
    (let x := s.seen.access va n .read true;
      ready x → let r := s.past.atHome sc rl true va x (.lr n);
        exec (.lr dbl aq rl d a) s =
          .next ((acq (r.2.modCtx (fun c => { c with resv := some (lineOf x.loc) }))).launchX 3 d (atomValue dbl r.1))) ∧
    (let x := s.seen.access va n .atomic true;
      ready x →
        (∀ op, let r := s.past.atHome sc rl true va x (.amo op n (s.ctx.x b));
          exec (.amo op dbl aq rl d a b) s = .next ((acq r.2).launchX 3 d (atomValue dbl r.1)))) ∧
    (let x := s.seen.access va 4 .atomic true;
      ready x → let r := s.past.atHome sc rl true va x (.cas 4 (s.ctx.x d) (s.ctx.x b));
        exec (.amocasW aq rl d a b) s = .next ((acq r.2).launchX 3 d (atomValue false r.1))) ∧
    (let x := s.seen.access va 8 .atomic true;
      ready x → let r := s.past.atHome sc rl true va x (.cas 8 (s.ctx.x d) (s.ctx.x b));
        exec (.amocasD aq rl d a b) s = .next ((acq r.2).launchX 3 d r.1))

/-- SC with a reservation on its line stores and answers 0; without one it stores nothing and answers 1; either way it holds none
after, and one with rl is a release. A plain write or an atomic of one context at its home releases every reservation that
another context of the core holds on the line, and no reservation elsewhere. What aq does to a failing SC is the model's reading
(log 52). -/
def Obligations.Reservations : Prop :=
  (∀ (s : State) (dbl aq rl : Bool) (d a b : Reg), s.alone .s = true → s.noSegment = true → s.sq.man.service = none →
    s.unhindered [.x d, .x a, .x b] = true →
    let n := if dbl then 8 else 4
    let x := s.seen.access (s.ctx.x a) n .write true
    x.raises = [] → farRegion x.region x.loc = false → s.seen.releaseHolds rl s.scopeNow = [] →
    let ok := decide (s.ctx.resv = some (lineOf x.loc))
    let r := s.past.atHome s.scopeNow rl ok (s.ctx.x a) x (.sc n (s.ctx.x b) ok)
    r.1 = (if ok then 0 else 1) ∧ (ok = false → r.2.pkg.hbm = (s.past.beforeHome s.scopeNow rl ok (s.ctx.x a) x).pkg.hbm) ∧
    ∃ t, exec (.sc dbl aq rl d a b) s = .next t ∧ t = ((if aq then State.acquireOrder s.scopeNow else id)
      (r.2.modCtx (fun c => { c with resv := none }))).launchX 3 d r.1) ∧
  (∀ (s : State) (h : Half) (b : Fin 2) (l : Nat) (bs : List Byte), bs ≠ [] → lineOf (l + bs.length - 1) = lineOf l →
    let t := s.writeHome (some (h, b)) (placed l bs)
    ∀ h' b', ((t.seqOf h').banks.get b').resv =
      (if ((s.seqOf h').banks.get b').resv = some (lineOf l) ∧ (h', b') ≠ (h, b) then none else ((s.seqOf h').banks.get b').resv))

/-- What the operations do to the bytes of their home, in HBM: an AMO answers the old value and leaves its operation on it; AMOCAS
writes the new value where the old one equals the comparison value; LR and a failing SC write nothing; every other byte of
memory stays. The operations are those of RISC-V (log 5). -/
def Obligations.HomeOperationValues : Prop :=
  ∀ (s : State) (who : Option (Half × Fin 2)) (l n : Nat) (v c : DWord) (rel : Option RelRec),
    n = 4 ∨ n = 8 → l % n = 0 → s.isHbm l = true →
    let old := s.numAt l n
    let wide (u : Nat) : Nat := u % 2 ^ (8 * n)
    let signed (u : Nat) : Int := if u < 2 ^ (8 * n - 1) then u else (u : Int) - 2 ^ (8 * n);
    (∀ op, let t := (s.homeDo who (.amo op n v) l rel);
      t.1.toNat = old ∧ t.2.numAt l n = (match op with
        | .swap => wide v.toNat
        | .add => wide (old + v.toNat)
        | .xor => old ^^^ wide v.toNat
        | .and => old &&& wide v.toNat
        | .or => old ||| wide v.toNat
        | .min => if signed old < signed (wide v.toNat) then old else wide v.toNat
        | .max => if signed old < signed (wide v.toNat) then wide v.toNat else old
        | .minu => min old (wide v.toNat)
        | .maxu => max old (wide v.toNat))) ∧
    (let t := (s.homeDo who (.cas n c v) l rel);
      t.1.toNat = old ∧ t.2.numAt l n = (if old = wide c.toNat then wide v.toNat else old)) ∧
    (s.homeDo who (.lr n) l rel).1.toNat = old ∧ (s.homeDo who (.lr n) l rel).2.pkg.hbm = s.pkg.hbm ∧
    (s.homeDo who (.sc n v false) l rel).1 = 1 ∧ (s.homeDo who (.sc n v false) l rel).2.pkg.hbm = s.pkg.hbm ∧
    (s.homeDo who (.sc n v true) l rel).1 = 0 ∧ (s.homeDo who (.sc n v true) l rel).2.numAt l n = wide v.toNat ∧
    (∀ op ∈ ([.cas n c v, .sc n v true] ++ ([.swap, .add, .xor, .and, .or, .min, .max, .minu, .maxu] : List AmoOp).map (fun o => .amo o n v) : List HomeOp),
      ∀ m, m < l ∨ l + n ≤ m → s.isHbm m = true → (s.homeDo who op l rel).2.byteAt m = s.byteAt m)

/-- FENCE orders what its bits name at the bundle's scope: it completes at once where no write that it releases is unacknowledged by
another package (at fabric scope) or by the host endpoint (at package scope); with an empty predecessor or successor set it
changes nothing. FENCE.I completes, and makes code written before it visible to fetch: no level of the fetch hierarchy holds a
line after it, nor does the instruction buffer, and no byte of the half-core's cache is dirty. FENCE.S orders what its own two
bits each name, in the same way. What a fence leaves: as a release wider than core, no byte of the half-core's cache is dirty;
as an acquire wider than core, its cache holds no line; at scope core memory stays as it is. The fields of FENCE are those of
RISC-V (log 5). -/
def Obligations.FencesComplete : Prop :=
  (∀ (s : State) (p q : Fin 16) (fm : Fin 16), s.alone .s = true → s.noSegment = true →
    let pr := fm = 8 || p.val.testBit 1 || p.val.testBit 3
    let pw := fm = 8 || p.val.testBit 0 || p.val.testBit 2
    let sr := fm = 8 || q.val.testBit 1 || q.val.testBit 3
    let sw := fm = 8 || q.val.testBit 0 || q.val.testBit 2
    (s.seen.farWrites s.scopeNow = false →
      exec (.fence fm p q) s = .next (s.past.fence s.scopeNow pr pw sr sw)) ∧
    ((pr || pw) = false ∨ (sr || sw) = false → exec (.fence fm p q) s = .next s.past) ∧
    (∀ (ss pp : Fin 4), s.seen.farWrites s.scopeNow = false →
      exec (.fenceS ss pp) s = .next (s.past.fence s.scopeNow (pp.val.testBit 0) (pp.val.testBit 1) (ss.val.testBit 0) (ss.val.testBit 1))) ∧
    (exec .fenceI s = .next s.past.fenceI ∧ s.past.fenceI.core.l1i = [] ∧ s.past.fenceI.pkg.mid = [] ∧
      s.past.fenceI.sq.ibuf.lines = [] ∧ ∀ x ∈ s.past.fenceI.core.cache, x.half = s.cacheHalf → x.dirty = 0)) ∧
  (∀ (s : State) (sc : Scope),
    (sc ≠ .core → ∀ x ∈ (s.releaseOrder sc).core.cache, x.half = s.cacheHalf → x.dirty = 0) ∧
    (sc ≠ .core → ∀ x ∈ (s.acquireOrder sc).core.cache, x.half ≠ s.cacheHalf) ∧
    (s.acquireOrder .core = s ∧ s.releaseOrder .core = s) ∧
    (sc = .package ∨ sc = .fabric → (s.releaseOrder sc).pkg.replicas = []) ∧
    (sc ≠ .fabric → s.sq.man.live.length < s.manSize →
      ∀ b line, ∃ e, (s.appendRelease b sc line).sq.man.live = s.sq.man.live ++ [e] ∧ e.scope = sc ∧ e.prom = sc ∧ e.line = line ∧ e.bank = b ∧
        e.seq = (s.appendRelease b sc line).sq.man.count))

/-! ## Synchronisation, handles, retention and bank modes -/

/-- The operations of NKX that execute at a home of this package, each performed there with its answer in rd: AMO.BADD, AMO.TOPK,
BINIT and BARR; and BWAIT and BARW once the generation is complete, BARW also as the last arrival. One that releases at fabric
scope has waited for its earlier writes to other packages, and at package scope for those to the host window; a wait tells a
pending shelf swap of its barrier the generation that it found. The operand checks of these words: AMO.BADD with a limit of all
ones and AMO.TOPK with a K outside 2 to 8 raise 0x75, BINIT with a count of 0 raises 0x81, and a barrier with EPOCH 0 raises
0x82. ACQP reads its doubleword at the home and acquires at the bundle's scope; where the line has a release record of an agent
outside its scope unit, it first waits for that agent's promotion. The score of an empty entry is free (log 15); a BARW that
waits again does not arrive twice (log 54). -/
def Obligations.HomeWordsComplete : Prop :=
  (∀ (s : State) (a b d : Reg), s.alone .s = true → s.noSegment = true → s.sq.man.service = none →
    s.unhindered [.x d, .x a, .x b] = true →
    let va := s.ctx.x a
    let k := s.ctx.x b
    let sc := s.scopeNow
    let ready (n : Nat) (x : Access) : Prop := x = s.seen.access va n .atomic true ∧ x.raises = [] ∧ farRegion x.region x.loc = false ∧
      (s.seen.yieldLine (lineOf x.loc)).badLine x.loc = false;
    let found (x : Access) : Barrier := barrierOf (fun o n => (s.seen.yieldLine (lineOf x.loc)).numAt (x.loc + o) n);
    let did (rel : Bool) (x : Access) (op : HomeOp) : State :=
      (s.past.atHome sc rel true va x op).2.launchX 3 d (s.past.atHome sc rel true va x op).1;
    let gen (x : Access) : DWord := BitVec.ofNat 64 ((s.seen.yieldLine (lineOf x.loc)).numAt x.loc 8);
    let acked : Prop := s.seen.releaseHolds true sc = [];
    (∀ x, ready 4 x → k.extractLsb' 32 32 ≠ 0xFFFFFFFF →
      exec (.amoBadd b a d) s = .next (did false x (.badd (k.extractLsb' 0 32) (k.extractLsb' 32 32)))) ∧
    (∀ x, ready 64 x → 2 ≤ (k.extractLsb' 28 4).toNat → (k.extractLsb' 28 4).toNat ≤ 8 → k.extractLsb' 32 32 ≠ 0xFFFFFFFF →
      k.extractLsb' 16 12 = 0 →
      exec (.amoTopk b a d) s = .next (did false x (.topk (k.extractLsb' 28 4).toNat (k.extractLsb' 32 32) (k.extractLsb' 0 16)))) ∧
    (∀ x, ready 64 x → attrSync x.trans.attr = true →
      (acked → 0 < k.toNat → k.toNat < 2 ^ 32 → exec (.binit b a d) s = .next (did true x (.binit (k.extractLsb' 0 32)))) ∧
      ((found x).epoch ≠ 0 →
        (acked → exec (.barr b a d) s = .next (did true x (.barr (if b = 0 then none else some k)))) ∧
        ((found x).complete k = true →
          exec (.bwait b a d) s = .next (((((s.past.atHome sc false true va x (.bread k)).2).acquireOrder sc).launchX 3 d
            (if (s.past.atHome sc false true va x (.bread k)).1.extractLsb' 32 32 = k.extractLsb' 32 32 then 0 else 1)).swapNotice x.loc (gen x))) ∧
        (acked → s.ctx.arrived = none → (found x).arrived + 1 = (found x).expect →
          exec (.barw a d) s = .next (((s.past.atHome sc true true va x (.barr none)).2.acquireOrder sc).launchX 3 d
            (s.past.atHome sc true true va x (.barr none)).1)) ∧
        (∀ g, s.ctx.arrived = some (s.core.cur.pc, x.loc, g) → (found x).complete g = true →
          let r := s.past.atHome sc false true va x (.bread g)
          exec (.barw a d) s = .next ((((r.2.modCtx (fun c => { c with arrived := none })).acquireOrder sc).launchX 3 d
            (if r.1.extractLsb' 32 32 = g.extractLsb' 32 32 then g else 0)).swapNotice x.loc (gen x)))))) ∧
  (∀ (s : State) (a b d : Reg), s.alone .s = true → s.noSegment = true → s.unhindered [.x d, .x a, .x b] = true →
    let va := s.ctx.x a
    let k := s.ctx.x b
    (k.extractLsb' 32 32 = 0xFFFFFFFF → (s.seen.access va 4 .atomic true).raises = [] →
      exec (.amoBadd b a d) s = .next (s.trapNow 0x75 k)) ∧
    ((k.extractLsb' 28 4).toNat < 2 ∨ 8 < (k.extractLsb' 28 4).toNat → (s.seen.access va 64 .atomic true).raises = [] →
      exec (.amoTopk b a d) s = .next (s.trapNow 0x75 k)) ∧
    (∀ x, x = s.seen.access va 64 .atomic true → x.raises = [] →
      (attrSync x.trans.attr = true → k = 0 → exec (.binit b a d) s = .next (s.trapNow 0x81 k)) ∧
      (x.region ≠ .hole → attrSync x.trans.attr = false → exec (.barr b a d) s = .next (s.trapNow 0x80 va)) ∧
      (attrSync x.trans.attr = true → farRegion x.region x.loc = false → s.seen.releaseHolds true s.scopeNow = [] →
        (s.seen.yieldLine (lineOf x.loc)).badLine x.loc = false →
        (barrierOf (fun o n => (s.seen.yieldLine (lineOf x.loc)).numAt (x.loc + o) n)).epoch = 0 →
        exec (.barr b a d) s = .next (s.trapNow 0x82 va)))) ∧
  (∀ (s : State) (a d : Reg), s.alone .s = true → s.noSegment = true → s.sq.man.service = none → s.ctx.remote = [] →
    s.unhindered [.x d, .x a] = true →
    let va := s.ctx.x a
    let x := s.seen.access va 8 .read false
    let line := lineOf x.loc
    let v := BitVec.ofNat 64 ((s.seen.yieldLine line).numAt x.loc 8)
    x.raises = [] → attrSync x.trans.attr = true → x.region = .hbm →
    ((s.seen.yieldLine line).badLine line = false → (s.seen.yieldLine line).acqpRequest s.seen.self s.scopeNow line = none →
      exec (.acqp a d) s = .next ((((s.past.beforeHome s.scopeNow false true va x).l2Req line (attrHint x.trans.attr)).acquireOrder
        s.scopeNow).launchX 3 d v)) ∧
    (∀ r, (s.seen.yieldLine line).badLine line = false → (s.seen.yieldLine line).acqpRequest s.seen.self s.scopeNow line = some r →
      ∃ t, exec (.acqp a d) s = .next t ∧ t.sq.hold = some .promotion))

/-- The rules of a barrier: a counted arrival raises ARRIVED, or at the expected count clears it and raises GEN; a named arrival of
another generation is counted as stale and answers 0; a generation is complete once GEN has passed it or EPOCH has changed.
AMO.BADD adds where the sum does not pass the limit, and answers all ones and writes nothing where it does. -/
def Obligations.BarrierArrivals : Prop :=
  (∀ (b : Barrier) (g : DWord),
    b.g = b.epoch.zeroExtend 64 <<< (32 : Nat) ||| b.gen.zeroExtend 64 ∧
    (b.arrived + 1 ≠ b.expect → b.arrive none = (b.g, { b with arrived := b.arrived + 1 })) ∧
    (b.arrived + 1 = b.expect → b.arrive none = (b.g, { b with arrived := 0, gen := b.gen + 1 })) ∧
    (g = b.g → b.arrive (some g) = b.arrive none) ∧
    (g ≠ b.g → b.arrive (some g) = (0, { b with stale := b.stale + 1 })) ∧
    (g.extractLsb' 32 32 ≠ b.epoch → b.complete g = true) ∧
    (g.extractLsb' 32 32 = b.epoch → (b.complete g = true ↔ g.extractLsb' 0 32 ≠ b.gen ∧ (b.gen - g.extractLsb' 0 32).toNat < 2 ^ 31)) ∧
    b.complete b.g = false) ∧
  (∀ (s : State) (who : Option (Half × Fin 2)) (l : Nat) (inc limit : Word) (rel : Option RelRec), l % 4 = 0 → s.isHbm l = true →
    let old := s.numAt l 4
    let t := s.homeDo who (.badd inc limit) l rel
    (old + inc.toNat ≤ limit.toNat → t.1 = BitVec.ofNat 64 old ∧ t.2.numAt l 4 = old + inc.toNat) ∧
    (limit.toNat < old + inc.toNat → t.1 = 0xFFFFFFFF ∧ t.2.pkg.hbm = s.pkg.hbm) ∧
    (∀ m, m < l ∨ l + 4 ≤ m → s.isHbm m = true → t.2.byteAt m = s.byteAt m))

/-- XLATE puts in a handle what the walk gives, or a faulted handle with the walk's cause; XPROBE reads a handle's words, the
physical address only at supervisor level; HREL empties it; HINV revokes handles, of its own context or, at supervisor level, by
a shootdown, for which it waits until no access under the old translations is open. A handle's words: the virtual base, the
physical base, its attributes, cause, size and state, and its ASID and epoch. After a shootdown no handle of any context of the
core that overlaps the range is valid, no translation of the range is cached, and the address space's epoch has risen by one.
SPLNT at supervisor level: its status in rd, and at status 0 a table of smaller pages in the place of the leaf and a shootdown
of the old page. What HINV and SPLNT wait for is the model's reading (log 87). What a faulted handle holds beside its cause is
free (log 16): no clause fixes it. -/
def Obligations.HandleWords : Prop :=
  (∀ (s : State) (a b d : Reg) (h : Fin 16) (w : Fin 4), s.alone .s = true →
    let va := s.ctx.x a
    let k := s.ctx.x b
    (s.unhindered [.x a, .x b, .h h] = true →
      (1 ≤ k.toNat ∧ k.toNat ≤ 3 → ∃ u : HandleReg, exec (.xlate b a h) s = .next ((s.past.launch 24 (.h h u)).drawn) ∧
        u.asid = s.ctx.csrs.asid ∧ u.epoch = s.seen.epoch s.ctx.csrs.asid ∧
        (match s.seen.walk s.ctx.csrs.asid va { r := k.getLsbD 0, w := k.getLsbD 1, x := false } (!s.ctx.csrs.prv) with
          | .ok t => u.state = .valid ∧ u.size = t.size ∧ u.attr = t.attr ∧ u.cause = 0 ∧
              u.vbase.toNat = va.toNat / pageBytes t.size * pageBytes t.size
          | .error c => u.state = .faulted ∧ u.cause = BitVec.ofNat 8 c ∧ u.vbase.toNat = va.toNat / 2 ^ 16 * 2 ^ 16)) ∧
      (k = 0 ∨ 3 < k.toNat → exec (.xlate b a h) s = .next (s.trapNow 0x6B k))) ∧
    (s.unhindered [.h h, .x d] = true → exec (.xprobe w h d) s = .next (s.past.launchX 1 d
      (if w = 1 ∧ s.ctx.csrs.prv = false then 0 else (s.ctx.h h).word w.val))) ∧
    (s.unhindered [.h h] = true → exec (.hrel h) s = .next (s.past.launch 1 (.h h HandleReg.reset))) ∧
    (s.unhindered [.x a, .x b, .x d] = true →
      (k.getLsbD 0 = false → k.extractLsb' 4 48 = 0 → k.getLsbD 1 = false → k.extractLsb' 52 12 = 0 →
        exec (.hinv b a d) s = .next ((s.past.revokeLocal (vRange s.ctx.csrs.asid va (k.extractLsb' 2 2).toNat)).launchX 1 d 0)) ∧
      (k.getLsbD 0 = true → s.ctx.csrs.prv = true → k.extractLsb' 4 48 = 0 → k.getLsbD 1 = false → s.noSegment = true →
        s.seen.oldAccesses false (vRange (k.extractLsb' 52 12) va (k.extractLsb' 2 2).toNat) = false →
        exec (.hinv b a d) s = .next (((s.past.shootdown (vRange (k.extractLsb' 52 12) va (k.extractLsb' 2 2).toNat)).freeFreeze).launchX 1 d 0)) ∧
      (k.getLsbD 0 = true → s.ctx.csrs.prv = true → k.extractLsb' 4 48 = 0 → k.getLsbD 1 = false → s.noSegment = true →
        s.seen.oldAccesses false (vRange (k.extractLsb' 52 12) va (k.extractLsb' 2 2).toNat) = true →
        ∃ t, exec (.hinv b a d) s = .next t ∧ t.sq.hold = some .revoking ∧ t.pkg.epochs = s.pkg.epochs) ∧
      (k.getLsbD 0 = true → s.ctx.csrs.prv = false → exec (.hinv b a d) s = .next (s.trapNow 0x0C s.loneEnv.form)))) ∧
  (∀ h : HandleReg, h.word 0 = h.vbase ∧ h.word 1 = h.pbase ∧
    (h.word 2).extractLsb' 2 10 = h.attr ∧ (h.word 2).extractLsb' 52 8 = h.cause ∧ ((h.word 2).extractLsb' 60 2).toNat = h.size.val ∧
    ((h.word 2).extractLsb' 62 2 = match h.state with | .empty => 0 | .valid => 1 | .revoked => 2 | .faulted => 3) ∧
    (h.word 2).extractLsb' 0 2 = 0 ∧ (h.word 2).extractLsb' 12 40 = 0 ∧
    (h.word 3).extractLsb' 0 12 = h.asid ∧ (h.word 3).extractLsb' 12 20 = 0 ∧ (h.word 3).extractLsb' 32 32 = h.epoch) ∧
  (∀ (s : State) (r : VRange),
    let t := s.shootdown r
    (∀ h b, let c := (t.seqOf h).banks.get b
      (∀ k : HReg, (c.h k).state = .valid → r.meets (c.h k).asid (c.h k).vbase.toNat (pageBytes (c.h k).size) = false) ∧
      (∀ e ∈ c.tlb, r.meets e.asid e.vbase (pageBytes e.size) = false)) ∧
    t.epoch r.asid = s.epoch r.asid + 1 ∧ t.pkg.hbm = s.pkg.hbm ∧
    (∀ h b k, ((s.seqOf h).banks.get b).regs.x.get k = ((t.seqOf h).banks.get b).regs.x.get k)) ∧
  (∀ (s : State) (a b d : Reg), s.alone .s = true → s.ctx.csrs.prv = true → s.unhindered [.x a, .x b, .x d] = true →
    let k := s.ctx.x b
    let va := s.ctx.x a
    let table := (k.extractLsb' 8 32).toNat * 256
    (k.extractLsb' 40 12 = 0 → k.extractLsb' 0 8 = 0 →
      (∀ st, s.seen.splinter (k.extractLsb' 52 12) va table = (st, none) → exec (.splnt b a d) s = .next (s.past.launchX 1 d st)) ∧
      (∀ st t, s.noSegment = true → s.seen.splinter (k.extractLsb' 52 12) va table = (st, some t) →
        s.seen.oldAccesses false (vRange (k.extractLsb' 52 12) va t.size.val) = false → st = 0 ∧
        exec (.splnt b a d) s = .next ((s.past.splinterNow (k.extractLsb' 52 12) va table t).launchX 1 d 0))) ∧
    (k.extractLsb' 40 12 ≠ 0 ∨ k.extractLsb' 0 8 ≠ 0 → exec (.splnt b a d) s = .next (s.trapNow 0x6B k)))

/-- PIN, UNPIN and PREFL2: what each does on a range of this package's HBM that lies in one page, and its result; the results of
UNPIN and PREFL2 where there is nothing to unpin or to fetch; and the traps of a malformed operand and of an address that does
not translate. BMODE answers the bank's old mode and sets the new one, where the bank is its own, lies in no bin and in no open
range; it traps with 0x59 on a malformed operand, 0x52 on a bank of the other half-core, 0x53 at user level on one of the attic,
and 0x58 on one of a bin. The index that a failing PIN writes is the model's choice (log 86). -/
def Obligations.RetentionAndBankModes : Prop :=
  (∀ (s : State) (a b d : Reg), s.alone .s = true → s.unhindered [.x a, .x b, .x d] = true →
    let va := s.ctx.x a
    let k := s.ctx.x b
    let len := (k.extractLsb' 0 32).toNat
    let ways := (k.extractLsb' 32 4).toNat
    let pinOk : Prop := va.toNat % 64 = 0 ∧ 0 < len ∧ len % 64 = 0 ∧ 1 ≤ ways ∧ ways ≤ 12 ∧ k.extractLsb' 36 28 = 0
    let preOk : Prop := 0 < len ∧ len % 64 = 0 ∧ k.extractLsb' 32 2 ≠ 3 ∧ k.extractLsb' 34 30 = 0
    (∀ t : Trans, s.seen.translate AccessKind.read.need va = .ok t →
      let l := t.loc s.seen.die va
      let fits : Prop := va.toNat % pageBytes t.size + len ≤ pageBytes t.size
      let u := s.past.tlbFill va t
      (pinOk → fits → s.seen.region false l = .hbm →
        (∀ st, s.seen.pinPlace (homeDie l) (locOff l) (locOff l + len) ways = .error st →
          exec (.pin b a d) s = .next (u.launchX 1 d (BitVec.ofNat 64 st))) ∧
        (∀ n f, s.seen.pinPlace (homeDie l) (locOff l) (locOff l + len) ways = .ok (n, f) →
          exec (.pin b a d) s = .next ((u.pinNow (homeDie l) n f ways (locOff l) (locOff l + len) l).launchX 1 d
            (BitVec.ofNat 64 (16 * n))))) ∧
      (¬ pinOk ∨ ¬ fits ∨ s.seen.region false l ≠ .hbm → exec (.pin b a d) s = .next (s.trapNow 0x76 k)) ∧
      (preOk → fits →
        (s.seen.region false l = .hbm ∨ s.seen.region false l = .cellar →
          exec (.prefl2 b a d) s = .next ((u.l2Reqs l len (Fin.ofNat 4 (k.extractLsb' 32 2).toNat)).launchX 1 d 0)) ∧
        (s.seen.region false l ≠ .hbm ∧ s.seen.region false l ≠ .cellar → exec (.prefl2 b a d) s = .next (u.launchX 1 d 3))) ∧
      (preOk → ¬ fits → exec (.prefl2 b a d) s = .next (s.trapNow 0x76 k)) ∧
      (let holds (n : Nat) : Prop := s.seen.region false l = .hbm ∧ ∃ w f lo hi as, s.seen.retReg (4 * homeDie l) n = some (w, f, lo, hi, as) ∧
          lo ≤ locOff l / 64 ∧ locOff l / 64 < hi ∧ (s.ctx.csrs.prv = true ∨ as = s.ctx.csrs.asid.toNat);
        ((∀ n < 8, ¬ holds n) → exec (.unpin a d) s = .next (u.launchX 1 d 1)) ∧
        (∀ n < 8, holds n → (∀ m < n, ¬ holds m) → ∃ v : State, exec (.unpin a d) s = .next (v.launchX 1 d 0) ∧
          v = (dieSlices (homeDie l)).foldl (fun s sl => s.setRet sl n 0 0) u ∧ ∀ sl ∈ dieSlices (homeDie l), v.retReg sl n = none))) ∧
    (¬ preOk → exec (.prefl2 b a d) s = .next (s.trapNow 0x76 k)) ∧
    (∀ c, s.seen.translate AccessKind.read.need va = .error c →
      (preOk → exec (.prefl2 b a d) s = .next (s.past.launchX 1 d 2)) ∧
      (s.ctx.csrs.prv = true ∨ s.core.fsw.get (halfIdx s.core.active) = false →
        exec (.pin b a d) s = .next (s.trapNow c va) ∧ exec (.unpin a d) s = .next (s.trapNow c va)))) ∧
  (∀ (s : State) (a b d : Reg), s.alone .s = true → s.noSegment = true → s.unhindered [.x a, .x b, .x d] = true →
    let n := (s.ctx.x a).toNat
    let y := (s.ctx.x b).toNat
    (64 ≤ n ∨ 2 < y → s.seen.foreignBank (n % 64) = false → (s.ctx.csrs.prv = true ∨ s.seen.inAttic (n % 64) = false) →
      s.seen.binBank (n % 64) = false → exec (.bmode b a d) s = .next (s.trapNow 0x59 (s.ctx.x b))) ∧
    (n < 64 → s.seen.foreignBank n = true → exec (.bmode b a d) s = .next (s.trapNow 0x52 (s.ctx.x a))) ∧
    (n < 64 → y ≤ 2 → s.seen.foreignBank n = false → s.ctx.csrs.prv = false → s.seen.inAttic n = true →
      exec (.bmode b a d) s = .next (s.trapNow 0x53 (s.ctx.x a))) ∧
    (n < 64 → y ≤ 2 → s.seen.foreignBank n = false → (s.ctx.csrs.prv = true ∨ s.seen.inAttic n = false) → s.seen.binBank n = true →
      exec (.bmode b a d) s = .next (s.trapNow 0x58 (s.ctx.x a))) ∧
    ∀ bank : Fin 64, n = bank.val → y ≤ 2 →
    s.seen.foreignBank n = false → (s.ctx.csrs.prv = true ∨ s.seen.inAttic n = false) → s.seen.binBank n = false →
    (∀ r ∈ s.core.ranges, r.hi ≤ n * 65536 ∨ (n + 1) * 65536 ≤ r.lo) →
    let u := s.past.setBank bank (BankMode.ofCode y)
    ∃ t, exec (.bmode b a d) s = .next t ∧ (t = u.launchX 1 d (BitVec.ofNat 64 (s.core.bankMode.get bank).code) ∨
      t = u.freeFreeze.launchX 1 d (BitVec.ofNat 64 (s.core.bankMode.get bank).code)) ∧
    t.core.bankMode.get bank = BankMode.ofCode y ∧ (∀ o, o ≠ bank → t.core.bankMode.get o = s.core.bankMode.get o) ∧
    (s.core.bankMode.get bank ≠ BankMode.ofCode y → (s.core.bankMode.get bank = .cache ∨ y = 0) →
      ∀ i < 65536, t.core.sram.get (n * 65536 + i) = 0) ∧
    (∀ i, i / 65536 ≠ n ∨ s.core.bankMode.get bank = BankMode.ofCode y → t.core.sram.get i = s.core.sram.get i))

/-! ## Control, tasks and shelves -/

/-- EVPOST posts its event and writes no register; RDTIME reads the time stamp, the cycle count, the cycles not frozen or the budget
left. -/
def Obligations.EventAndTimeWords : Prop :=
  ∀ (s : State) (a b d : Reg), s.alone .s = true →
    (s.unhindered [.x a, .x b] = true →
      exec (.evpost b a) s = .next (s.past.postEvent ((s.ctx.x a).extractLsb' 0 16) (s.ctx.x b)) ∧
      (s.ctx.seg = none → s.sq.events.length < 64 → ∃ t, exec (.evpost b a) s = .next t ∧ t.ctx.regs = s.ctx.regs ∧
        t.sq.events = s.sq.events ++ [{ stamp := s.atIssue.nowNs, src := s.srcId, cause := 0, code := (s.ctx.x a).extractLsb' 0 16,
                                        p0 := s.ctx.x b, p1 := 0 }]) ∧
      (s.ctx.seg = none → 64 ≤ s.sq.events.length → ∃ t, exec (.evpost b a) s = .next t ∧ t.sq.events = s.sq.events ∧
        t.sq.evdrop = s.sq.evdrop + 1 ∧ t.ctx.pend = s.ctx.pend ||| 0x08)) ∧
    (s.unhindered [.x a, .x d] = true →
      ((s.ctx.x a).extractLsb' 0 2 = 0 → exec (.rdtime a d) s = .next (s.past.launchX 1 d (BitVec.ofNat 64 s.atIssue.nowNs))) ∧
      ((s.ctx.x a).extractLsb' 0 2 = 1 → exec (.rdtime a d) s = .next (s.past.launchX 1 d s.atIssue.sq.cycle)) ∧
      ((s.ctx.x a).extractLsb' 0 2 = 2 → exec (.rdtime a d) s = .next (s.past.launchX 1 d (s.atIssue.sq.cycle - s.atIssue.sq.frzcyc))) ∧
      ((s.ctx.x a).extractLsb' 0 2 = 3 → s.ctx.streamId = none → exec (.rdtime a d) s = .next (s.past.launchX 1 d 0)) ∧
      (∀ k, (s.ctx.x a).extractLsb' 0 2 = 3 → s.atIssue.ctx.task = some k → k.stream.isSome = true →
        exec (.rdtime a d) s = .next (s.past.launchX 1 d (dw k.budget))))

/-- BANKSW at supervisor level: the running bank answers 0, a bank without a context 4; a bank that holds one runs from 32 cycles
later, with 0 in its rd, and neither context keeps a reservation. A context of a gang may make the other half-core's task go on
with it, from the same time. CTXSAVE and CTXLOAD at supervisor level hand an operation on the other bank to the context-save
engine; with one in progress they wait. The engine ends it with a status and leaves the other bank able to run after a whole
load. The layout of the area and whose matrix-side state it holds are the model's (log 17, log 71). -/
def Obligations.BankSwitchAndContextSave : Prop :=
  (∀ (s : State) (a d : Reg) (b : Fin 2), s.alone .s = true → s.noSegment = true → s.ctx.csrs.prv = true → s.sq.engOp = none →
    s.unhindered [.x a, .x d] = true → b.val = (s.ctx.x a).toNat % 2 →
    (b = s.sq.running → exec (.banksw a d) s = .next (s.past.launchX 1 d 0)) ∧
    (b ≠ s.sq.running → s.sq.loadStatus.get b = 0 → (s.sq.banks.get b).status = .free ∨ (s.sq.banks.get b).status = .ended →
      exec (.banksw a d) s = .next (s.past.launchX 1 d 4)) ∧
    (b ≠ s.sq.running → s.sq.loadStatus.get b ≠ 0 →
      exec (.banksw a d) s = .next (s.past.launchX 1 d (BitVec.ofNat 64 (s.sq.loadStatus.get b).val))) ∧
    (b ≠ s.sq.running → s.sq.loadStatus.get b = 0 → (s.sq.banks.get b).status ≠ .free → (s.sq.banks.get b).status ≠ .ended →
      ∃ t, exec (.banksw a d) s = .next t ∧ t.sq.running = b ∧ t.ctx.status = .running ∧ t.ctx.resv = none ∧
        t.ctx.pc = (s.sq.banks.get b).pc ∧ (∀ r, t.ctx.x r = if r = d then 0 else (s.sq.banks.get b).x r) ∧
        (s.core.split = false → t.sq.cycle = s.atIssue.sq.cycle + 32) ∧ t.ctx.rc = t.ctx.nextIssue ∧
        (t.sq.banks.get s.sq.running).status = .standby ∧ (t.sq.banks.get s.sq.running).resv = none ∧
        (t.sq.banks.get s.sq.running).pc = s.past.ctx.pc ∧ (t.sq.banks.get s.sq.running).regs = s.ctx.regs)) ∧
  ((∀ (s : State) (a b : Reg), s.alone .s = true → s.noSegment = true → s.ctx.csrs.prv = true → s.unhindered [.x a, .x b] = true →
    s.holdsMatrix = true ∨ (s.ctx.x b).extractLsb' 3 4 = 0 →
    ∀ load i o, i = (if load then Instr.ctxload b a else Instr.ctxsave b a) →
      o = ({ load := load, area := s.ctx.x a, asid := s.ctx.csrs.asid, parts := (s.ctx.x b).extractLsb' 0 8,
             bank := otherBank s.sq.running, pieces := [], lost := false } : CtxOp) →
      (s.seen.areaRaises o (s.ctx.x b) = [] → s.sq.engOp = none → exec i s = .next (s.past.modSq (fun q => { q with
        engLoad := load, engOp := some { o with pieces := areaPages o.parts.toNat (s.seen.areaData o) } }))) ∧
      (∀ r, lowest (s.seen.areaRaises o (s.ctx.x b)) = some r → r.cause < 0x20 ∨ s.sq.engMatrix = false →
        exec i s = .next (s.trapNow r.cause r.tval)) ∧
      (s.seen.areaRaises o (s.ctx.x b) = [] → s.sq.engOp ≠ none → ∃ t, exec i s = .next t ∧ t.sq.hold = some .engine ∧ t.sq.engOp = s.sq.engOp)) ∧
  (∀ s : State, s.sq.engOp = none → exec .ctxEngineDone s = .next s) ∧
  (∀ (s : State) (o : CtxOp), s.sq.engOp = some o → ∃ t, exec .ctxEngineDone s = .next t ∧ t.sq.engOp = none ∧
    (o.load = true → t.sq.loadStatus.get o.bank = t.sq.engStatus ∧
      (o.parts.getLsbD 0 = true → t.sq.engStatus = 0 → (t.sq.banks.get o.bank).status = .standby))))

/-- YIELD's four answers: where it finds no other work, the next bundle issues at the indirect penalty, six cycles or more. The end
of a task: TASKEND commits and nothing of its context issues after it; the rest of the end takes place once the context's
commands have finished. STRM.ADD at supervisor level answers the id of the stream it admits, or a refusal with bit 63 set;
STRM.DEL marks a stream to leave at the end of its period, or answers 1 where there is none of that id and 2 where the operand
has other bits. A fault in reading the descriptor is taken. YIELD's answer beside a STANDBY context, the results of an ending
task and the choice of a core are the model's (log 64, log 72, log 18). -/
def Obligations.TaskAndStreamWords : Prop :=
  (∀ (s : State) (d : Reg), s.alone .s = true →
    (s.unhindered [.x d] = true →
      (∀ t, s.ctx.task = some t → t.gang = true → 1 < t.size → exec (.yield d) s = .next (s.past.launchX 1 d 2)) ∧
      ((∀ t, s.ctx.task = some t → t.gang = false ∨ t.size ≤ 1) →
        (s.ctx.streamId ≠ none → exec (.yield d) s = .next ((s.past.launchX 1 d 3).endServe)) ∧
        (s.ctx.streamId = none → s.seen.canYield = true → exec (.yield d) s = .next ((s.past.launchX 1 d 1).yieldNow)) ∧
        (s.ctx.streamId = none → s.seen.canYield = false →
          exec (.yield d) s = .next (s.past.launchX 1 d 0).indirectly ∧ (s.past.launchX 1 d 0).indirectly.ctx.pc = s.past.ctx.pc ∧
          s.atIssue.ctx.rc + 7 ≤ (s.past.launchX 1 d 0).indirectly.ctx.nextIssue))) ∧
    (s.ctx.status = .running → s.noSegment = true → ∃ t, (s.atIssue.advance s.core.cur false .own 0).endIssue = t ∧
      t.ctx.status = .ended ∧ t.ctx.regs = s.ctx.regs ∧ t.ctx.flights = s.ctx.flights ∧ exec .taskend s = .next (if t.canEnd then t.endTask else t)) ∧
    (s.ctx.status = .ended → exec .taskend s = .next (if s.canEnd then s.endTask else s.tick 1))) ∧
  (∀ (s : State) (a d : Reg), s.alone .s = true → s.ctx.csrs.prv = true → s.unhindered [.x a, .x d] = true →
    let va := s.ctx.x a
    (s.sq.man.service = none →
      (va.toNat % 64 ≠ 0 → exec (.strmAdd a d) s = .next (s.past.launchX 1 d 0x8000000000000003)) ∧
      (va.toNat % 64 = 0 → ∀ rs eff r, s.seen.readWords s.scopeNow va 8 = (.bad rs, eff) → lowest rs = some r →
        exec (.strmAdd a d) s = .next (s.atIssue.raise r s.core.cur.pc s.core.cur.next)) ∧
      (va.toNat % 64 = 0 → ∀ ws eff, s.seen.readWords s.scopeNow va 8 = (.got ws, eff) →
        (∀ v, s.seen.admission ws = (v, none) → v.getLsbD 63 = true ∧
          exec (.strmAdd a d) s = .next ((eff s.past).launchX 1 d v)) ∧
        (∀ v x, s.seen.admission ws = (v, some x) → v = x.id.zeroExtend 64 ∧ (∀ y ∈ s.pkg.streams, y.id ≠ x.id) ∧
          exec (.strmAdd a d) s = .next (((eff s.past).launchX 1 d v).parkStream x)))) ∧
    (va.toNat < 2 ^ 14 → ∃ (t : State) (v : DWord), exec (.strmDel a d) s = .next (t.launchX 1 d v) ∧
      v = (if s.pkg.streams.any (fun y => y.id.toNat == va.toNat) then 0 else 1) ∧
      t.pkg.streams = s.pkg.streams.map (fun y => if y.id.toNat = va.toNat then { y with leaving := true } else y)) ∧
    (2 ^ 14 ≤ va.toNat → exec (.strmDel a d) s = .next (s.past.launchX 1 d 2)))

/-- SPAWN and SPAWNG post the spawn that their descriptor gives and answer its id; a descriptor that a check refuses raises 0x34
with the lowest reason, and posts nothing; one whose reading faults takes that cause; without room it waits. What the
descriptor's words say of the spawn, and which of them a check refuses. The core among equals and the die of the id are the
model's (log 18, log 69). -/
def Obligations.SpawnWords : Prop :=
  (∀ (s : State) (a d : Reg) (gang : Bool) (i : Instr), i = (if gang then .spawng a d else .spawn a d) → s.alone .s = true →
    s.sq.man.service = none → s.unhindered [.x a, .x d] = true →
    let va := s.ctx.x a
    let v := s.seen
    let refused (r : Nat) : State := s.trapNow 0x34 (BitVec.ofNat 64 (r * 2 ^ 56 + va.toNat % 2 ^ 56));
    (va.toNat % 64 ≠ 0 → exec i s = .next (refused 1)) ∧
    (va.toNat % 64 = 0 → ∀ rs eff r, v.readWords s.scopeNow va 8 = (.bad rs, eff) → lowest rs = some r →
      exec i s = .next (s.atIssue.raise r s.core.cur.pc s.core.cur.next)) ∧
    (va.toNat % 64 = 0 → ∀ ws eff, v.readWords s.scopeNow va 8 = (.got ws, eff) →
      let k := spawnDesc false ws
      (∀ r, leastReason (v.descReasons k) = some r → exec i s = .next (refused r)) ∧
      (leastReason (v.descReasons k) = none →
        ∀ ml me dl de sl se, (if k.level = 7 then v.readWords s.scopeNow k.mask 4 else (.got [], id)) = (.got ml, me) →
          v.readWords s.scopeNow k.deps (2 * k.ndep) = (.got dl, de) → v.readWords s.scopeNow k.stage (2 * k.nstage) = (.got sl, se) →
          (∀ r, leastReason (v.listReasons k ml sl) = some r → exec i s = .next (refused r)) ∧
          (leastReason (v.listReasons k ml sl) = none →
            let id := v.nextSpawnId v.dieFin
            let x := v.makeSpawn k gang s.ctx.csrs.asid id dl sl ml
            (v.spawnRoom x.die.val = false → ∃ t, exec i s = .next t ∧ t.sq.hold = some .spawnRoom ∧ t.pkg.spawns = s.pkg.spawns) ∧
            (v.spawnRoom x.die.val = true →
              ∃ t, t = (me (se (de (eff s.past)))).launchX 1 d (BitVec.ofNat 64 id) ∧
                exec i s = .next ((t.countSpawn t.dieFin).postSpawn x)))))) ∧
  (∀ (s : State) (w0 w1 w2 w3 w4 w5 w6 w7 : DWord) (gang : Bool) (asid : BitVec 12) (id : Nat) (dl sl ml : List Nat),
    let k := spawnDesc false ([w0, w1, w2, w3, w4, w5, w6, w7].map BitVec.toNat)
    let x := s.makeSpawn k gang asid id dl sl ml
    k.level = (w2.extractLsb' 0 3).toNat ∧ k.extent = (w2.extractLsb' 8 9).toNat ∧ k.first = (w2.extractLsb' 17 9).toNat ∧
    x.entry = w0 ∧ x.args = w1 ∧ x.cls.val = (w3.extractLsb' 0 3).toNat ∧ x.sbm = w3.extractLsb' 12 2 ∧ x.done = w6 ∧
    x.deps.length = (w3.extractLsb' 4 3).toNat ∧ x.stage.length = (w3.extractLsb' 8 4).toNat ∧ x.asid = asid ∧ x.gang = gang ∧
    x.state = .posted ∧ x.bound = 0 ∧
    (w0.extractLsb' 0 4 ≠ 0 → leastReason (s.descReasons k) = some 1) ∧
    (w0.extractLsb' 0 4 = 0 → k.extent = 0 → leastReason (s.descReasons k) = some 2) ∧
    (w3.extractLsb' 0 3 = 7 → ∃ r, leastReason (s.descReasons k) = some r ∧ r ≤ 3))

/-- The shelf instructions of a context whose matrix-side state the core holds, with no swap pending and no CPYSH in flight. The
same instructions while a swap is pending: SHSW answers 1, SHCLR 6 and SHWR 6, or 0 where it names no group (log 94); and their
operand checks, whether or not one is: 0x31 with the operand. A swap exchanges the active and the standby shelves of the core's
groups with their class records, and no swap is pending after it; a requested one that waits for its generation is due only once
that is complete. Behind a CPYSH submitted before it, it waits; for a barrier of another package it asks, once. SHWR with GMASK
0 while a swap is pending is the model's choice (log 94). The latency of MLATCH among the checks of an entry is the model's
reading (log 29). -/
def Obligations.ShelfWords : Prop :=
  (∀ (s : State) (a b d : Reg), s.alone .s = true → s.holdsMatrix = true → s.noSegment = true → s.swapPending = none →
    s.shelfFills s.ctx.ident = [] → s.unhindered ([.x a, .x b, .x d] ++ (List.finRange 32).map Res.x) = true →
    let k := s.ctx.x b
    let x := s.ctx.x a
    let gm : Byte := k.extractLsb' 16 8
    let idx := (k.extractLsb' 0 9).toNat
    let word (n : Nat) : DWord := if h : a.val + n < 32 then s.ctx.x ⟨a.val + n, h⟩ else 0
    let ws : List Nat := [k.toNat / 2 ^ 32, (word 0).toNat % 2 ^ 32, (word 0).toNat / 2 ^ 32, (word 1).toNat % 2 ^ 32, (word 1).toNat / 2 ^ 32,
      (word 2).toNat % 2 ^ 32, (word 2).toNat / 2 ^ 32, (word 3).toNat % 2 ^ 32];
    (k.extractLsb' 24 8 = 0 → k.extractLsb' 9 7 = 0 → a.val ≤ 28 → (∀ g : Group, gm.getLsbD g.val = true → s.ownGroup g = true) →
      (gm = 0 → exec (.shwr b a d) s = .next (s.past.launchX 1 d 0)) ∧
      (∀ st, gm ≠ 0 → st = entryStatus (recordAt s.records.standby idx) ws → st ≠ 0 →
        exec (.shwr b a d) s = .next (s.past.launchX 1 d (BitVec.ofNat 64 st))) ∧
      (gm ≠ 0 → entryStatus (recordAt s.records.standby idx) ws = 0 → ∃ t : State, exec (.shwr b a d) s = .next (t.launchX 1 d 0) ∧
        (∀ g : Group, (t.core.mat.standby.get g).entry idx = if gm.getLsbD g.val then ws.map (BitVec.ofNat 32) else (s.core.mat.standby.get g).entry idx) ∧
        t.core.mat.active = s.core.mat.active ∧ t.core.mat.acc = s.core.mat.acc ∧ t.ctx.regs = s.ctx.regs)) ∧
    (∀ g : Group, g.val = (x.extractLsb' 12 3).toNat → x.extractLsb' 16 48 = 0 → s.ownGroup g = true →
      exec (.shrd a d) s = .next (s.past.launchX 2 d ((((if x.getLsbD 15 then s.core.mat.standby.get g else s.core.mat.active.get g).entry
        (x.extractLsb' 0 9).toNat).getD (x.extractLsb' 9 3).toNat 0).zeroExtend 64))) ∧
    (∃ t : State, exec (.shclr d) s = .next (t.launchX 1 d 0) ∧
      (∀ g : Group, t.core.mat.standby.get g = if s.ownGroup g then Shelf.reset else s.core.mat.standby.get g) ∧
      t.records.standby = [] ∧ t.core.mat.active = s.core.mat.active) ∧
    (exec (.shsw b 0 d) s = .next ((s.past.launchX 1 d 0).swapShelves s.recIdx)) ∧
    (∀ y, a ≠ 0 → s.sq.man.service = none → y = s.seen.access x 8 .read false → y.raises = [] → farRegion y.region y.loc = false →
      y.region ≠ .device →
      (genComplete (BitVec.ofNat 64 (s.seen.numAt y.loc 8)) k = true →
        exec (.shsw b a d) s = .next (((s.past.tlbFill x y.trans).launchX 1 d 0).swapShelves s.recIdx)) ∧
      (genComplete (BitVec.ofNat 64 (s.seen.numAt y.loc 8)) k = false →
        exec (.shsw b a d) s = .next (((s.past.tlbFill x y.trans).launchX 1 d 0).armSwap y.loc (some k)))) ∧
    (k.extractLsb' 9 55 = 0 → (∀ g : Group, k.getLsbD g.val = true → s.ownGroup g = true) → ∃ (t : State) (v : DWord), exec (.shtag b a d) s = .next (t.launchX 1 d v) ∧
      (∀ g : Group, k.getLsbD g.val = true → (∀ g' < g, k.getLsbD g'.val = false) →
        v = (if k.getLsbD 8 then s.core.mat.standby.get g else s.core.mat.active.get g).tag.zeroExtend 64) ∧
      (∀ g : Group, (t.core.mat.standby.get g).tag = if a ≠ 0 ∧ k.getLsbD g.val = true then x.extractLsb' 0 32 else (s.core.mat.standby.get g).tag))) ∧
  (∀ (s : State) (a b d : Reg), s.alone .s = true → s.holdsMatrix = true → s.noSegment = true →
    s.unhindered ([.x a, .x b, .x d] ++ (List.finRange 32).map Res.x) = true →
    let k := s.ctx.x b
    let gm : Byte := k.extractLsb' 16 8
    (s.swapPending.isSome = true →
      exec (.shsw b a d) s = .next (s.past.launchX 1 d 1) ∧ exec (.shclr d) s = .next (s.past.launchX 1 d 6) ∧
      (k.extractLsb' 24 8 = 0 → k.extractLsb' 9 7 = 0 → a.val ≤ 28 → (∀ g : Group, gm.getLsbD g.val = true → s.ownGroup g = true) →
        exec (.shwr b a d) s = .next (s.past.launchX 1 d (if gm = 0 then 0 else 6)))) ∧
    (k.extractLsb' 24 8 ≠ 0 ∨ k.extractLsb' 9 7 ≠ 0 ∨ 28 < a.val ∨ (∃ g : Group, gm.getLsbD g.val = true ∧ s.ownGroup g = false) →
      exec (.shwr b a d) s = .next (s.trapNow 0x31 k)) ∧
    ((s.ctx.x a).extractLsb' 16 48 ≠ 0 ∨ (∃ g : Group, g.val = ((s.ctx.x a).extractLsb' 12 3).toNat ∧ s.ownGroup g = false) →
      exec (.shrd a d) s = .next (s.trapNow 0x31 (s.ctx.x a))) ∧
    (k.extractLsb' 9 55 ≠ 0 ∨ (∃ g : Group, k.getLsbD g.val = true ∧ s.ownGroup g = false) →
      exec (.shtag b a d) s = .next (s.trapNow 0x31 k))) ∧
  (∀ (s : State), s.core.split = false →
    let t := s.swapShelves s.recIdx
    t.core.mat.active = s.core.mat.standby ∧ t.core.mat.standby = s.core.mat.active ∧ t.swapPending = none ∧
    t.records = { active := s.records.standby, standby := s.records.active } ∧ t.core.mat.acc = s.core.mat.acc ∧ t.core.mat.lat = s.core.mat.lat ∧
    (s.swapPending = none → exec .shelfSwap s = .next s) ∧
    (∀ w, s.swapPending = some w →
      (w.gen = none → s.swapReady w = true) ∧
      (∀ g, w.gen = some g → w.seen = none → s.away w.loc = false →
        (s.swapReady w = true ↔ genComplete (BitVec.ofNat 64 (s.numAt w.loc 8)) g = true)) ∧
      (∀ g v, w.gen = some g → w.seen = some v → s.away w.loc = true → (s.swapReady w = true ↔ genComplete v g = true)) ∧
      (s.swapReady w = true → s.swapDue = true) ∧
      (s.swapReady w = true → s.fillsBefore w = [] → s.sq.hold = none → exec .shelfSwap s = .next t) ∧
      (s.swapReady w = true → s.fillsBefore w ≠ [] → s.ctx.seg = none → exec .shelfSwap s = .next (s.waitCycle .shelfFill)) ∧
      (s.swapReady w = false → s.away w.loc = true → w.asked = false → ∃ u, exec .shelfSwap s = .next u ∧
        u.swapPending = some { w with asked := true } ∧ u.core.mat.active = s.core.mat.active ∧ u.core.mat.standby = s.core.mat.standby)))

/-! ## The vector slots -/

/-- Integer arithmetic, lane group by lane group, in every active element of the destination: the exact result, wrapped or clamped
to the element; the result keeps the tag of its sources. -/
def Obligations.VectorIntegerResults : Prop :=
  ∀ (s : State) (sl : Slot) (d a b c : Reg) (m : MReg), s.alone sl = true → sl = .v0 ∨ sl = .v1 →
    s.lanesFree (fun g => [.v g d, .v g a, .v g b, .v g c] ++ maskRead g m) = true →
    let tg (g : Group) : Tag := (s.ctx.v g a).tag;
    let raw (g : Group) (v : VData) (i : Nat) : Nat := elem (tg g).width v i;
    let val (g : Group) (v : VData) (i : Nat) : Int := intVal (tg g) (raw g v i);
    let wrap (t : Tag) (z : Int) : FRes := ((z % 2 ^ t.width).toNat, 0);
    let clamp (sg : Bool) (t : Tag) (z : Int) : FRes :=
      let lo : Int := if sg then -2 ^ (t.width - 1) else 0
      let hi : Int := if sg then 2 ^ (t.width - 1) - 1 else 2 ^ t.width - 1
      (wrap t (max lo (min hi z))).1 |> fun r => (r, if z < lo ∨ hi < z then fCSAT else 0);
    let out (f : (g : Group) → Nat → FRes) : State :=
      s.launchV 2 d (fun g => some (elementwise (tg g).width (tg g) (s.ctx.m g m) (f g)));
    let two : List (Instr × (Tag → Int → Int → FRes)) :=
      [(.vadd d a b m, fun t x y => wrap t (x + y)), (.vsub d a b m, fun t x y => wrap t (x - y)), (.vmul d a b m, fun t x y => wrap t (x * y)),
       (.vmulh d a b m, fun t x y => wrap t (x * y / 2 ^ t.width)), (.vaddsat d a b m, fun t x y => clamp t.isSigned t (x + y)),
       (.vsubsat d a b m, fun t x y => clamp t.isSigned t (x - y)), (.vmin d a b m, fun t x y => wrap t (min x y)),
       (.vmax d a b m, fun t x y => wrap t (max x y))];
    let unsigned : List (Instr × (Tag → Nat → Nat → FRes)) :=
      [(.vmulhu d a b m, fun t x y => (x * y / 2 ^ t.width, 0)), (.vaddsatu d a b m, fun t x y => clamp false t ((x : Int) + y)),
       (.vsubsatu d a b m, fun t x y => clamp false t ((x : Int) - y)), (.vminu d a b m, fun _ x y => (min x y, 0)),
       (.vmaxu d a b m, fun _ x y => (max x y, 0))];
    let literal : List (Instr × (Tag → Int → Int → FRes)) :=
      [(.vaddLit d a b m, fun t x y => wrap t (x + y)), (.vsubLit d a b m, fun t x y => wrap t (x - y)),
       (.vmulLit d a b m, fun t x y => wrap t (x * y)), (.vminLit d a b m, fun t x y => wrap t (min x y)),
       (.vmaxLit d a b m, fun t x y => wrap t (max x y))];
    let A (g : Group) : VData := (s.ctx.v g a).data;
    let B (g : Group) : VData := (s.ctx.v g b).data;
    let C (g : Group) : VData := (s.ctx.v g c).data;
    (∀ g ∈ s.laneGroups, (tg g).isInt = true) →
    ((∀ g ∈ s.laneGroups, (s.ctx.v g b).tag = tg g) →
      (∀ p ∈ two, exec p.1 s = .next (out (fun g i => p.2 (tg g) (val g (A g) i) (val g (B g) i)))) ∧
      (∀ p ∈ unsigned, exec p.1 s = .next (out (fun g i => p.2 (tg g) (raw g (A g) i) (raw g (B g) i)))) ∧
      ((∀ g ∈ s.laneGroups, (s.ctx.v g c).tag = tg g) →
        exec (.vmadd d a b c m) s = .next (out (fun g i => wrap (tg g) (val g (A g) i * val g (B g) i + val g (C g) i))))) ∧
    (∀ v, s.loneEnv.scalarSource b false = some v →
      let L : VData := ofLanes (fun _ => v);
      (∀ p ∈ literal, exec p.1 s = .next (out (fun g i => p.2 (tg g) (val g (A g) i) (val g L i)))) ∧
      ((∀ g ∈ s.laneGroups, (s.ctx.v g c).tag = tg g) →
        exec (.vmaddLit d a b c m) s = .next (out (fun g i => wrap (tg g) (val g (A g) i * val g L i + val g (C g) i))))) ∧
    ((∀ g ∈ s.laneGroups, (tg g).isSigned = true) →
      exec (.vabs d a m) s = .next (out (fun g i => clamp true (tg g) ((val g (A g) i).natAbs : Int))) ∧
      exec (.vneg d a m) s = .next (out (fun g i => wrap (tg g) (- val g (A g) i))))

/-- Logic on whole lanes, with the first source's tag, or RAW where the second carries another; shifts and rotations of elements, a
shift by the element's width or more giving zeros or copies of the sign; and the counts of bits. -/
def Obligations.VectorLogicAndShifts : Prop :=
  ∀ (s : State) (sl : Slot) (d a b : Reg) (m : MReg), s.alone sl = true → sl = .v0 ∨ sl = .v1 →
    s.lanesFree (fun g => [.v g d, .v g a, .v g b] ++ maskRead g m) = true →
    let tg (g : Group) : Tag := (s.ctx.v g a).tag;
    let A (g : Group) : VData := (s.ctx.v g a).data;
    let B (g : Group) : VData := (s.ctx.v g b).data;
    let bitwise (t : Group → Tag) (f : Group → VData) : State :=
      s.launchV 2 d (fun g => some { data := f g, bits := activeBits (t g == .fp64) (s.ctx.m g m), tag := t g });
    let each (f : (g : Group) → Nat → Nat) : State :=
      s.launchV 2 d (fun g => some (elementwise (tg g).width (tg g) (s.ctx.m g m) (fun i => (f g i, 0))));
    let mixed (g : Group) : Tag := if (s.ctx.v g b).tag = tg g then tg g else .raw;
    let shifts (w x n : Nat) : List Nat :=
      [if n < w then x * 2 ^ n % 2 ^ w else 0, if n < w then x / 2 ^ n else 0,
       ((sext w x / 2 ^ (min n w)) % 2 ^ w).toNat];
    (∀ g ∈ s.laneGroups, (tg g).isData = true) →
    ((∀ g ∈ s.laneGroups, (s.ctx.v g b).tag.isData = true) →
      exec (.vand d a b m) s = .next (bitwise mixed (fun g => A g &&& B g)) ∧ exec (.vor d a b m) s = .next (bitwise mixed (fun g => A g ||| B g)) ∧
      exec (.vxor d a b m) s = .next (bitwise mixed (fun g => A g ^^^ B g)) ∧
      exec (.vandn d a b m) s = .next (bitwise mixed (fun g => A g &&& ~~~(B g)))) ∧
    exec (.vnot d a m) s = .next (bitwise tg (fun g => ~~~(A g))) ∧
    (∀ K : Group → VData, (∀ g ∈ s.laneGroups, s.loneEnv.scalarLanes b (tg g == .fp64) = (K g, [])) →
      exec (.vandLit d a b m) s = .next (bitwise tg (fun g => A g &&& K g)) ∧ exec (.vorLit d a b m) s = .next (bitwise tg (fun g => A g ||| K g)) ∧
      exec (.vxorLit d a b m) s = .next (bitwise tg (fun g => A g ^^^ K g))) ∧
    ((∀ g ∈ s.laneGroups, shiftTag (tg g) = true) →
      ((∀ g ∈ s.laneGroups, (s.ctx.v g b).tag = tg g) →
        let by_ (n : Nat) (g : Group) (i : Nat) : Nat :=
          (shifts (tg g).width (elem (tg g).width (A g) i) (elem (tg g).width (B g) i)).getD n 0;
        exec (.vshl d a b m) s = .next (each (by_ 0)) ∧ exec (.vshr d a b m) s = .next (each (by_ 1)) ∧
        exec (.vsra d a b m) s = .next (each (by_ 2)) ∧
        exec (.vrol d a b m) s = .next (each (fun g i =>
          let w := (tg g).width; let x := elem w (A g) i; let n := elem w (B g) i % w;
          (x * 2 ^ n + x / 2 ^ (w - n)) % 2 ^ w)) ∧
        exec (.vror d a b m) s = .next (each (fun g i =>
          let w := (tg g).width; let x := elem w (A g) i; let n := elem w (B g) i % w;
          (x / 2 ^ n + x * 2 ^ (w - n)) % 2 ^ w))) ∧
      (∀ v, s.loneEnv.scalarSource b false = some v →
        let by_ (n : Nat) (g : Group) (i : Nat) : Nat :=
          (shifts (tg g).width (elem (tg g).width (A g) i) (elem (tg g).width (ofLanes (fun _ => v)) i)).getD n 0;
        exec (.vshlLit d a b m) s = .next (each (by_ 0)) ∧ exec (.vshrLit d a b m) s = .next (each (by_ 1)) ∧
        exec (.vsraLit d a b m) s = .next (each (by_ 2))) ∧
      exec (.vclz d a m) s = .next (each (fun g i =>
        let x := elem (tg g).width (A g) i; if x = 0 then (tg g).width else (tg g).width - 1 - Nat.log2 x)) ∧
      exec (.vpopc d a m) s = .next (each (fun g i =>
        ((List.range (tg g).width).filter (fun j => (elem (tg g).width (A g) i).testBit j)).length)))

/-- Comparisons write one bit a lane into a mask register, in the active lanes; selection, moves, broadcasts and lane indexes. -/
def Obligations.VectorCompareAndMove : Prop :=
  ∀ (s : State) (sl : Slot) (d a b : Reg) (k : Fin 8) (m : MReg), s.alone sl = true → sl = .v0 ∨ sl = .v1 →
    s.lanesFree (fun g => [.v g d, .v g a, .v g b, .m g k] ++ maskRead g m) = true →
    let tg (g : Group) : Tag := (s.ctx.v g a).tag;
    let A (g : Group) : VData := (s.ctx.v g a).data;
    let B (g : Group) : VData := (s.ctx.v g b).data;
    let holds (c : Fin 8) (x y : Int) : Bool :=
      match c.val with | 0 => x = y | 1 => x ≠ y | 2 => x < y | 3 => x ≤ y | 4 => y < x | _ => y ≤ x;
    let cmp (signed : Bool) (c : Fin 8) (X : Group → VData) : State := s.launchM 2 k (fun g =>
      let v (z : VData) (l : Nat) : Int := if signed then sext 32 (lane z l) else (lane z l : Int)
      (wordOf (fun l => holds c (v (A g) l) (v (X g) l)), s.ctx.m g m, 0));
    let moved (t : Group → Tag) (f : Group → VData) : State :=
      s.launchV 2 d (fun g => some { data := f g, bits := activeBits (t g == .fp64) (s.ctx.m g m), tag := t g });
    ((∀ g ∈ s.laneGroups, laneInt (tg g) = true) → ∀ c : Fin 8,
      ((∀ g ∈ s.laneGroups, laneInt (s.ctx.v g b).tag = true) →
        exec (.vcmp k a b c m) s = .next (cmp true c B) ∧ exec (.vcmpu k a b c m) s = .next (cmp false c B)) ∧
      (∀ v, s.loneEnv.scalarSource b false = some v → exec (.vcmpLit k a b c m) s = .next (cmp true c (fun _ => ofLanes (fun _ => v))))) ∧
    ((∀ g ∈ s.laneGroups, (tg g).isData = true) →
      exec (.vmov d a m) s = .next (moved tg A) ∧
      (∀ t, exec (.vtagset d a t m) s = .next (moved (fun _ => t) A)) ∧
      ((∀ g ∈ s.laneGroups, (s.ctx.v g b).tag = tg g) →
        exec (.vsel d a b m) s = .next (s.launchV 2 d (fun g => some
          { data := blend (activeBits (tg g == .fp64) (s.ctx.m g m)) (A g) (B g), bits := allOnes, tag := tg g })))) ∧
    exec (.vtagrd d a m) s = .next (moved (fun _ => .int32) (fun g => ofLanes (fun _ => (tg g).code))) ∧
    (∀ t v, s.loneEnv.scalarLanes b (t == .fp64) = (v, []) → exec (.vbcast d b t m) s = .next (moved (fun _ => t) (fun _ => v))) ∧
    (∀ i : Fin 4, exec (.vlaneid d m i) s = .next (moved (fun _ => .int32) (fun g => ofLanes (fun l =>
      [l, g.val, 32 * g.val + l, 256 * s.coreId.toNat + 32 * g.val + l].getD i.val 0))))

/-- Floating-point arithmetic in the format of the sources' tag, four cycles; division, square root and the special functions,
twelve; comparison and classification. FP64 is for V0 alone. That the special functions round the exact value is the model's
reading (log 75). -/
def Obligations.VectorFloatResults : Prop :=
  ∀ (s : State) (sl : Slot) (d a b c : Reg) (k : Fin 8) (m : MReg) (r : Rnd), s.alone sl = true → sl = .v0 ∨ sl = .v1 →
    s.lanesFree (fun g => [.v g d, .v g a, .v g b, .v g c, .m g k] ++ maskRead g m) = true →
    let tg (g : Group) : Tag := (s.ctx.v g a).tag;
    let raw (g : Group) (v : VData) (i : Nat) : Nat := elem (tg g).width v i;
    let A (g : Group) : VData := (s.ctx.v g a).data;
    let B (g : Group) : VData := (s.ctx.v g b).data;
    let C (g : Group) : VData := (s.ctx.v g c).data;
    let out (lat : Nat) (f : (g : Group) → Nat → FRes) : State :=
      s.launchV lat d (fun g => some (elementwise (tg g).width (tg g) (s.ctx.m g m) (f g)));
    let op2 (f : Fmt → Machine.Num → Machine.Num → FRes) (k : Fmt) (x y : Nat) : FRes := f k (k.decode x) (k.decode y);
    let op3 (f : Fmt → Machine.Num → Machine.Num → Machine.Num → FRes) (k : Fmt) (x y z : Nat) : FRes := f k (k.decode x) (k.decode y) (k.decode z);
    let two : List (Instr × Nat × (Fmt → Nat → Nat → FRes)) :=
      [(.vfadd d a b m r, 4, op2 (fun k => addN k r.mode)), (.vfsub d a b m r, 4, op2 (fun k x y => addN k r.mode x y.neg)),
       (.vfmul d a b m r, 4, op2 (fun k => mulN k r.mode)), (.vfmin d a b m, 4, fun k => minMaxN k false),
       (.vfmax d a b m, 4, fun k => minMaxN k true), (.vdiv d a b m r, 12, op2 (fun k => divN k r.mode))];
    let literal : List (Instr × (Fmt → Nat → Nat → FRes)) :=
      [(.vfaddLit d a b m r, op2 (fun k => addN k r.mode)), (.vfsubLit d a b m r, op2 (fun k x y => addN k r.mode x y.neg)),
       (.vfmulLit d a b m r, op2 (fun k => mulN k r.mode))];
    let three : List (Instr × (Fmt → Nat → Nat → Nat → FRes)) :=
      [(.vfma d a b c m r, op3 (fun k => fmaN k r.mode)), (.vfms d a b c m r, op3 (fun k x y z => fmaN k r.mode x y z.neg)),
       (.vfnma d a b c m r, op3 (fun k x y z => fmaN k r.mode x.neg y z)),
       (.vfnms d a b c m r, op3 (fun k x y z => fmaN k r.mode x.neg y z.neg))];
    let one : List (Instr × (Fmt → Machine.Num → FRes)) :=
      [(.vrcp d a m r, fun k => divN k r.mode (.fin false 1 0)), (.vrsq d a m r, fun k => rsqN k r.mode), (.vsqrt d a m r, fun k => sqrtN k r.mode),
       (.vexp2 d a m r, fun k => exp2N k r.mode), (.vlog2 d a m r, fun k => log2N k r.mode)];
    let F (g : Group) : Fmt := Fmt.ofTag (tg g);
    let signed (g : Group) (x : Nat) (neg : Bool) : FRes :=
      let n := (F g).decode x
      if n.isNan then ((F g).qnan, nvIf n.isSnan) else (x % 2 ^ ((F g).eb + (F g).mb) + (F g).signBit neg, 0);
    let cmp (c : Fin 8) (X : Group → VData) : State := s.launchM 4 k (fun g =>
      let wide := tg g == .fp64
      let at_ (v : VData) (l : Nat) : Machine.Num := (F g).decode (if wide then elem 64 v (l / 2) else lane v l)
      let act := activeLane wide (s.ctx.m g m)
      (wordOf (fun l => (fpCond c.val (at_ (A g) l) (at_ (X g) l)).1), wordOf act,
        orAll ((List.range 32).map (fun l => (0, if act l then (fpCond c.val (at_ (A g) l) (at_ (X g) l)).2 else 0)))));
    (∀ g ∈ s.laneGroups, tg g = .fp32 ∨ tg g = .bf16 ∨ tg g = .fp16 ∨ (tg g = .fp64 ∧ sl = .v0)) →
    ((∀ g ∈ s.laneGroups, (s.ctx.v g b).tag = tg g) →
      (∀ p ∈ two, exec p.1 s = .next (out p.2.1 (fun g i => p.2.2 (F g) (raw g (A g) i) (raw g (B g) i)))) ∧
      ((∀ g ∈ s.laneGroups, (s.ctx.v g c).tag = tg g) →
        ∀ p ∈ three, exec p.1 s = .next (out 4 (fun g i => p.2 (F g) (raw g (A g) i) (raw g (B g) i) (raw g (C g) i)))) ∧
      ((∀ g ∈ s.laneGroups, tg g = .fp32 ∨ tg g = .fp64) → ∀ c, exec (.vfcmp k a b c m) s = .next (cmp c B))) ∧
    (∀ K : Group → VData, (∀ g ∈ s.laneGroups, s.loneEnv.scalarLanes b (tg g == .fp64) = (K g, [])) →
      (∀ p ∈ literal, exec p.1 s = .next (out 4 (fun g i => p.2 (F g) (raw g (A g) i) (raw g (K g) i)))) ∧
      ((∀ g ∈ s.laneGroups, (s.ctx.v g c).tag = tg g) → exec (.vfmaLit d a b c m r) s =
        .next (out 4 (fun g i => op3 (fun k => fmaN k r.mode) (F g) (raw g (A g) i) (raw g (K g) i) (raw g (C g) i)))) ∧
      ((∀ g ∈ s.laneGroups, tg g = .fp32 ∨ tg g = .fp64) → ∀ c, exec (.vfcmpLit k a b c m) s = .next (cmp c K))) ∧
    (∀ p ∈ one, exec p.1 s = .next (out 12 (fun g i => p.2 (F g) ((F g).decode (raw g (A g) i))))) ∧
    exec (.vfabs d a m) s = .next (out 4 (fun g i => signed g (raw g (A g) i) false)) ∧
    exec (.vfneg d a m) s = .next (out 4 (fun g i => signed g (raw g (A g) i) (!((F g).decode (raw g (A g) i)).isNeg))) ∧
    exec (.vfclass d a m) s = .next (s.launchV 4 d (fun g => some (
      if tg g = .fp64 then { data := ofLanes (fun l => classOf (F g) (elem 64 (A g) (l / 2))), bits := activeBits true (s.ctx.m g m), tag := .int32 }
      else { data := ofElems (tg g).width ((elems (tg g).width (A g)).map (classOf (F g))), bits := activeBits false (s.ctx.m g m),
             tag := if tg g = .fp32 then .int32 else .int16 })))

/-- Reductions fold the active elements of a group in a binary tree and write the result to every element; conversions convert the
part of the elements that the instruction names and write those alone; quantisation makes and opens blocks. Which VA of VQNT4 is
misaligned is the model's reading (log 68). -/
def Obligations.VectorReductionsAndConversions : Prop :=
  ∀ (s : State) (sl : Slot) (d a b : Reg) (m : MReg) (r : Rnd), s.alone sl = true → sl = .v0 ∨ sl = .v1 →
    s.lanesFree (fun g => [.v g d, .v g (nextReg d), .v g b] ++ (List.range 8).map (fun i => .v g (regPlus a i)) ++ maskRead g m) = true →
    let tg (g : Group) : Tag := (s.ctx.v g a).tag;
    let A (g : Group) : VData := (s.ctx.v g a).data;
    let F (t : Tag) : Fmt := Fmt.ofTag t;
    let reduced (lat : Nat) (f : Tag → Nat → Nat → FRes) (idle : Tag → Nat) : State := s.launchV lat d (fun g =>
      let w := (tg g).width
      let leaves := (List.range (1024 / w)).map (fun i => if activeElem w (s.ctx.m g m) i then some (elem w (A g) i, (0 : Byte)) else none)
      let v := (redTree (f (tg g)) (if w = 64 then 4 else 5) leaves).getD (idle (tg g), 0)
      let z := if (tg g = .fp32 ∨ tg g = .fp64) ∧ ((F (tg g)).decode v.1).isNan then (F (tg g)).qnan else v.1
      some { data := ofElems w (List.replicate (1024 / w) z), bits := allOnes, tag := tg g, flags := v.2 });
    ((∀ g ∈ s.laneGroups, tg g = .fp32 ∨ (tg g = .fp64 ∧ sl = .v0)) →
      exec (.vredadd d a m) s = .next (reduced 8 (fun t x y => addN (F t) .rne ((F t).decode x) ((F t).decode y)) (fun _ => 0)) ∧
      exec (.vredmax d a m) s = .next (reduced 8 (fun t => minMaxN (F t) true) (fun t => (F t).inf true)) ∧
      exec (.vredmin d a m) s = .next (reduced 8 (fun t => minMaxN (F t) false) (fun t => (F t).inf false))) ∧
    ((∀ g ∈ s.laneGroups, tg g = .int32) →
      let on (f : Int → Int → Int) (_ : Tag) (x y : Nat) : FRes := ((f (sext 32 x) (sext 32 y) % 2 ^ 32).toNat, 0);
      exec (.vrediadd d a m) s = .next (reduced 6 (on (· + ·)) (fun _ => 0)) ∧
      exec (.vredimax d a m) s = .next (reduced 6 (on max) (fun _ => 0x80000000)) ∧
      exec (.vredimin d a m) s = .next (reduced 6 (on min) (fun _ => 0x7FFFFFFF))) ∧
    (∀ (p : Fin 16) (t : Tag) (sat : Bool), t.isCvt = true →
      (∀ g ∈ s.laneGroups, (tg g).isCvt = true ∧
        (let pair := tg g == .fp64 || t == .fp64
         p.val < max (perUnit pair (tg g) / perUnit pair t) (perUnit pair t / perUnit pair (tg g)))) →
      ∃ o : Group → VOut, exec (if sat then .vcvtsat d a p t m r else .vcvt d a p t m r) s = .next (s.launchV 4 d (fun g => some (o g))) ∧
        ∀ g ∈ s.laneGroups, (o g).tag = t ∧ ∀ j < 1024 / t.width,
          let pair := tg g == .fp64 || t == .fp64
          let na := perUnit pair (tg g)
          let nb := perUnit pair t
          let made (i : Nat) : Prop := elem t.width (o g).bits j = 2 ^ t.width - 1 ∧
            elem t.width (o g).data j = (convert (tg g) t r.mode sat (elem (tg g).width (A g) i)).1 % 2 ^ t.width;
          (activeElem t.width (s.ctx.m g m) j = false → elem t.width (o g).bits j = 0) ∧
          (activeElem t.width (s.ctx.m g m) j = true → nb ≤ na → made (j / nb * na + p.val * nb + j % nb)) ∧
          (activeElem t.width (s.ctx.m g m) j = true → na < nb → j % nb / na = p.val → made (j / nb * na + j % nb % na)) ∧
          (activeElem t.width (s.ctx.m g m) j = true → na < nb → j % nb / na ≠ p.val → elem t.width (o g).bits j = 0)) ∧
    (∀ t : Tag, t = .fp32 ∨ t = .bf16 ∨ t = .fp16 → a.val % (if t = .fp32 then 8 else 4) = 0 → d.val % 2 = 0 →
      (∀ g ∈ s.laneGroups, (s.ctx.v g b).tag = .bf16 ∧ ∀ i < (if t = .fp32 then 8 else 4), (s.ctx.v g (regPlus a i)).tag = t) →
      let q (g : Group) (l : Nat) : Nat × Nat × Byte :=
        if maskBit (s.ctx.m g m) l then quantBlock (quantInputs s g a t l) (Fmt.bf16.decode (elem 16 (s.ctx.v g b).data (2 * l))) else (0, 0, 0);
      exec (.vqnt4 d a b m) s = .next (s.laneGroups.foldl (fun u g =>
        (u.launch 4 (.v g d (ofLanes (fun l => (q g l).1)) (activeBits false (s.ctx.m g m)) .fp4b)
          ((List.range 32).foldl (fun f l => f ||| (q g l).2.2) 0)).launch 4
        (.v g (nextReg d) (ofLanes (fun l => (q g l).2.1 + elem 16 (s.ctx.v g b).data (2 * l) * 2 ^ 16)) (activeBits false (s.ctx.m g m)) .fp4b))
        s.past)) ∧
    (∀ (p : Fin 8) (t : Tag), a.val % 2 = 0 → (∀ g ∈ s.laneGroups, tg g = .fp4b ∧ (s.ctx.v g (nextReg a)).tag = .fp4b) →
      exec (.vdqnt4 d a p t m) s = .next (s.launchV 4 d (fun g => some (elementwise t.width t (s.ctx.m g m) (fun j =>
        let n := 32 / t.width
        dequant (F t) (blockElem (lane (A g) (j / n)) (lane (s.ctx.v g (nextReg a)).data (j / n)) (n * p.val + j % n)))))))

/-- Packs and unpacks, permutes of lanes, the neighbour shift between lane groups, residues, and the mask instructions. -/
def Obligations.VectorPermutesAndMasks : Prop :=
  ∀ (s : State) (sl : Slot) (d a b c : Reg) (k x y : Fin 8) (m : MReg), s.alone sl = true → sl = .v0 ∨ sl = .v1 →
    s.lanesFree (fun g => [.v g d, .v g a, .v g (nextReg a), .v g b, .v g c, .m g k] ++ maskRead g x ++ maskRead g y ++ maskRead g m) = true →
    let tg (g : Group) : Tag := (s.ctx.v g a).tag;
    let A (g : Group) : VData := (s.ctx.v g a).data;
    let B (g : Group) : VData := (s.ctx.v g b).data;
    let C (g : Group) : VData := (s.ctx.v g c).data;
    let lanes (t : Group → Tag) (f : Group → Nat → Nat) : State :=
      s.launchV 2 d (fun g => some { data := ofLanes (f g), bits := activeBits (t g == .fp64) (s.ctx.m g m), tag := t g });
    let each (t : Group → Tag) (f : Group → Nat → Nat) : State :=
      s.launchV 2 d (fun g => some (elementwise (t g).width (t g) (s.ctx.m g m) (fun i => (f g i, 0))));
    let masks (f : Group → Word) : State := s.launchM 2 k (fun g => (f g, 0xFFFFFFFF, 0));
    let same (r : Reg) : Prop := ∀ g ∈ s.laneGroups, (s.ctx.v g r).tag = tg g;
    let data : Prop := ∀ g ∈ s.laneGroups, (tg g).isData = true;
    ((∀ g ∈ s.laneGroups, tg g = .int32 ∨ tg g = .int16 ∨ tg g = .int8) → same b →
      exec (.vpack d a b m) s = .next (each (fun g => if tg g = .int32 then .int16 else if tg g = .int16 then .int8 else .int4) (fun g j =>
        let w := (tg g).width
        let n := 32 / w
        let u := j / (2 * n) * n
        let e := j % (2 * n)
        (if e < n then elem w (A g) (u + e) else elem w (B g) (u + (e - n))) % 2 ^ (w / 2)))) ∧
    ((∀ g ∈ s.laneGroups, tg g = .int16 ∨ tg g = .int8 ∨ tg g = .uint8 ∨ tg g = .int4) →
      let wider (g : Group) : Tag := if tg g = .int16 then .int32 else if tg g = .int4 then .int8 else .int16;
      let half (h : Nat) (g : Group) (j : Nat) : Nat :=
        let n := 32 / (wider g).width
        (intVal (tg g) (elem (tg g).width (A g) (j / n * (2 * n) + j % n + h * n)) % 2 ^ (wider g).width).toNat;
      exec (.vunpacklo d a m) s = .next (each wider (half 0)) ∧ exec (.vunpackhi d a m) s = .next (each wider (half 1))) ∧
    (data →
      ((∀ g ∈ s.laneGroups, laneInt (s.ctx.v g b).tag = true) →
        exec (.vperm d a b m) s = .next (lanes tg (fun g l => lane (A g) (lane (B g) l % 32)))) ∧
      (same b →
        (∀ n : Reg, exec (.vslide d a b n m) s = .next (lanes tg (fun g l => lane (if l + n.val < 32 then A g else B g) ((l + n.val) % 32)))) ∧
        (∀ h : Fin 2, exec (.vzip d a b m h) s = .next (lanes tg (fun g l => lane (if l % 2 = 0 then A g else B g) (16 * h.val + l / 2))) ∧
          exec (.vunzip d a b m h) s = .next (lanes tg (fun g l => lane (if l < 16 then A g else B g) (2 * (l % 16) + h.val))))) ∧
      (same c → ∀ n, s.loneEnv.scalarSource b false = some n →
        exec (.vslideLit d a b c m) s = .next (lanes tg (fun g l => lane (if l + n % 32 < 32 then A g else C g) ((l + n % 32) % 32)))) ∧
      exec (.vmsetNz k a) s = .next (masks (fun g => wordOf (fun l => lane (A g) l != 0)))) ∧
    ((∀ g : Group, s.unhindered [.v g a] = true ∧ (s.ctx.v g a).tag.isData = true) → ∀ v : Fin 4,
      let shifted (ring : Bool) : State := s.launchV 2 d (fun g => (neighbour s.core.split ring v.val g).map (fun n =>
        { data := A n, bits := activeBits (tg n == .fp64) (s.ctx.m g m), tag := tg n }));
      exec (.nsh d a m v) s = .next (shifted false) ∧ exec (.nshr d a m v) s = .next (shifted true)) ∧
    ((∀ g ∈ s.laneGroups, (tg g).isData = true ∧ tg g ≠ .raw ∧ (tg g = .fp4b → a.val % 2 = 0 ∧ (s.ctx.v g (nextReg a)).tag = .fp4b)) →
      let residue (start : Group → Nat × Nat × Nat) : State := s.launchV 4 d (fun g =>
        let q := residues (activeValues (s.ctx.v g a) (s.ctx.v g (nextReg a)) (s.ctx.m g m))
        some { data := residueData ((q.1 + (start g).1) % (2 ^ 61 - 1)) (q.2.1 + (start g).2.1) (q.2.2 + (start g).2.2), bits := allOnes, tag := .raw });
      exec (.vres d a m) s = .next (residue (fun _ => (0, 0, 0))) ∧
      ((∀ g ∈ s.laneGroups, (s.ctx.v g c).tag = .raw) → exec (.vresAcc d a c m) s = .next (residue (fun g =>
        (lane (C g) 0 + lane (C g) 1 % 2 ^ 29 * 2 ^ 32, lane (C g) 2, lane (C g) 3))))) ∧
    (∀ f : Fin 8, exec (.vmsk k x y f) s = .next (masks (fun g =>
      let p := s.ctx.m g x
      let q := s.ctx.m g y
      [p &&& q, p ||| q, p ^^^ q, p &&& ~~~q, p ||| ~~~q, ~~~(p ^^^ q), ~~~p, p].getD f.val 0))) ∧
    exec (.vmpopc d x m) s = .next (lanes (fun _ => .int32) (fun g _ => ((List.range 32).filter (fun i => (s.ctx.m g x).getLsbD i)).length)) ∧
    exec (.vmfirst d x m) s = .next (lanes (fun _ => .int32) (fun g _ =>
      ((List.range 32).find? (fun i => (s.ctx.m g x).getLsbD i)).getD 32)) ∧
    (∀ v, s.loneEnv.scalarSource b false = some v → exec (.vmset k b) s = .next (masks (fun _ => BitVec.ofNat 32 v)))

/-! ## The matrix strip -/

/-- Lane loads and stores of core SRAM, with no command in flight: the address of each lane, the words loaded six cycles later, the
words stored, and every other byte of core SRAM and of memory as it was. The checks of a lane's address: 0x50 where it is not
aligned, 0x51 outside SCRATCH mode, 0x52 in a bank of the other half-core, 0x53 in the attic at user level. The tval of an
address cause is the first failing address (log 56). -/
def Obligations.LaneAccessesToCoreSram : Prop :=
  (∀ (s : State) (sl : Slot) (d a k : Reg) (m : MReg), s.alone sl = true → sl = .v0 ∨ sl = .v1 → s.core.ranges = [] →
    s.lanesFree (fun g => [.v g d, .v g a] ++ maskRead g m) = true → (∀ g ∈ s.laneGroups, laneInt (s.ctx.v g a).tag = true) →
    let A (g : Group) : VData := (s.ctx.v g a).data;
    let unit (g : Group) (l : Nat) : Nat := (lane (A g) 0 + 128 * k.val + 4 * l) % 2 ^ 22;
    let stride (g : Group) (l : Nat) : Nat := (((lane (A g) 0 : Int) + 4 * k.val + l * sext 32 (lane (A g) 1)) % 2 ^ 22).toNat;
    let scatter (g : Group) (l : Nat) : Nat := (lane (A g) l + 4 * k.val) % 2 ^ 22;
    let active (t : Tag) (g : Group) (l : Nat) : Bool := activeLane (t == .fp64) (s.ctx.m g m) l;
    (∀ t i at_, (i, at_) ∈ [(Instr.vld d a k t m, unit), (Instr.vlds d a k t m, stride), (Instr.vldg d a k t m, scatter)] →
      (∀ g ∈ s.laneGroups, ∀ l < 32, active t g l = true → s.seen.sramCauses (at_ g l) = []) →
      exec i s = .next (s.launchV 6 d (fun g => some
        { data := ofLanes (fun l => if active t g l then leNat (s.core.sram.read (at_ g l) 4) else 0), bits := activeBits (t == .fp64) (s.ctx.m g m)
          tag := if (List.range 32).any (fun l => active t g l && s.sramBadWord (at_ g l)) then .poison else t }))) ∧
    (∀ i at_, (i, at_) ∈ [(Instr.vst d a k m, unit), (Instr.vsts d a k m, stride), (Instr.vstsc d a k m, scatter)] →
      (∀ g ∈ s.laneGroups, (s.ctx.v g d).tag.isData = true ∧
        ∀ l < 32, active (s.ctx.v g d).tag g l = true → s.seen.sramCauses (at_ g l) = []) →
      let stores (g : Group) (l : Nat) : Prop := g ∈ s.laneGroups ∧ l < 32 ∧ active (s.ctx.v g d).tag g l = true;
      ∃ t, exec i s = .next t ∧ t.ctx.regs = s.ctx.regs ∧ t.ctx.flights = s.ctx.flights ∧ t.pkg.hbm = s.pkg.hbm ∧
        (∀ x, (∀ g l, stores g l → x < at_ g l ∨ at_ g l + 4 ≤ x) → t.core.sram.get x = s.core.sram.get x) ∧
        (∀ g l, stores g l → (∀ g' l', stores g' l' → at_ g' l' = at_ g l → g' = g ∧ l' = l) →
          t.core.sram.read (at_ g l) 4 = leBytes 4 (lane (s.ctx.v g d).data l)))) ∧
  (∀ (s : State) (x : Nat), x < 2 ^ 22 →
    (0x50 ∈ s.sramCauses x ↔ x % 4 ≠ 0) ∧
    (0x51 ∈ s.sramCauses x ↔ s.core.bankMode.get (bankOf x) ≠ .scratch) ∧
    (0x52 ∈ s.sramCauses x ↔ s.core.split = true ∧ (s.core.active = .a ↔ 2 ^ 21 ≤ x)) ∧
    (0x53 ∈ s.sramCauses x ↔ s.ctx.csrs.prv = false ∧ x / 65536 ∈ s.atticBanks) ∧ (∀ c ∈ s.sramCauses x, 0x50 ≤ c ∧ c ≤ 0x53))

/-- Lane loads, stores and atomics through a handle that allows them: the control word names the handle, the result tag and the
arrival, and each lane's location is the handle's page plus its offset. The checks of a lane's access through a handle: the
state of the handle, the bounds of its page, its rights, and alignment. The order of handle accesses and what counts in the
landing buffer are the model's readings (log 11, log 48). -/
def Obligations.LaneAccessesThroughHandles : Prop :=
  (∀ (s : State) (sl : Slot) (d a b k c : Reg) (m : MReg) (h : Fin 4) (w : Nat), s.alone sl = true → sl = .v0 ∨ sl = .v1 →
    s.sq.man.service = none → s.loneEnv.scalarSource b false = some w → w / 2 ^ 24 = 0 → w / 2 ^ 12 % 16 = 0 →
    let H : HReg := Fin.ofNat 16 (w / 2 ^ 20 % 16)
    let hr : HandleReg := s.ctx.h H
    let arr : Nat := w % 2 ^ 12
    s.lanesFree (fun g => [.v g d, .v g a, .v g c, .h H] ++ maskRead g m) = true → (∀ g ∈ s.laneGroups, laneInt (s.ctx.v g a).tag = true) →
    let A (g : Group) : VData := (s.ctx.v g a).data;
    let unit (g : Group) (l : Nat) : Nat := lane (A g) 0 + 128 * k.val + 4 * l;
    let own (g : Group) (l : Nat) : Nat := lane (A g) l + 4 * k.val;
    let active (t : Tag) (g : Group) : List Nat := (List.range 32).filter (activeLane (t == .fp64) (s.ctx.m g m));
    let hint : Fin 4 := if h = 0 then attrHint hr.attr else if h = 1 then 1 else if h = 2 then 0 else 2;
    (∀ t : Tag, t.code = w / 2 ^ 16 % 16 → t.code ≤ 12 → arr ≠ 0 → s.ctx.flights.filter (fun f => f.w.isLanding) = [] →
      s.landingsHeld + s.laneGroups.length ≤ (if s.core.split then 128 else 256) →
      ∀ i off, (i, off) ∈ [(Instr.vldx d a b k m h, unit), (Instr.vldxg d a b k m h, own)] →
        (∀ g ∈ s.laneGroups, ∀ l ∈ active t g, s.seen.handleRaises hr .read false (off g l) = []) →
        exec i s = .next (s.laneGroups.foldl (fun u g => u.sendLanding s.scopeNow hint arr g d (activeBits (t == .fp64) (s.ctx.m g m)) t
          ((active t g).map (fun l => (l, hr.loc s.die (off g l))))) s.past)) ∧
    (w / 2 ^ 16 % 16 = 0 → arr = 0 → (∀ g ∈ s.laneGroups, (s.ctx.v g d).tag.isData = true) →
      ∀ i off, (i, off) ∈ [(Instr.vstx d a b k m h, unit), (Instr.vstxs d a b k m h, own)] →
        (∀ g ∈ s.laneGroups, ∀ l ∈ active (s.ctx.v g d).tag g, s.seen.handleRaises hr .write false (off g l) = []) →
        exec i s = .next (s.laneGroups.foldl (fun u g =>
          let bytes := (active (s.ctx.v g d).tag g).flatMap (fun l => placed (hr.loc s.die (off g l)) (leBytes 4 (lane (s.ctx.v g d).data l)))
          if bytes = [] then u else u.store { bytes := bytes, scope := s.scopeNow, hint := hint, repl := attrRepl hr.attr }) s.past)) ∧
    (w / 2 ^ 16 % 16 = 0 → arr ≠ 0 → s.noSegment = true → (∀ g ∈ s.laneGroups, (s.ctx.v g c).tag = .int32 ∨ (s.ctx.v g c).tag = .fp32) →
      (∀ g ∈ s.laneGroups, ∀ l ∈ active .int32 g, s.seen.handleRaises hr .atomic true (lane (A g) l) = []) →
      exec (.vamoadd d a b c m) s = .next (s.laneGroups.foldl (fun u g => u.sendAmo s.scopeNow (attrHint hr.attr) arr g d
        (activeBits false (s.ctx.m g m)) (s.ctx.v g c).tag
        ((active .int32 g).map (fun l => (l, hr.loc s.die (lane (A g) l), BitVec.ofNat 32 (lane (s.ctx.v g c).data l))))) s.past))) ∧
  (∀ (s : State) (h : HandleReg) (off : Nat) (k : AccessKind) (at_ : Bool),
    let causes := (s.handleRaises h k at_ off).map (fun r => r.cause)
    (h.state = .empty → 0x63 ∈ causes) ∧ (h.state = .revoked → 0x62 ∈ causes) ∧ (h.state = .faulted → h.cause.toNat ∈ causes) ∧
    (off % 4 ≠ 0 → 0x71 ∈ causes) ∧
    (h.state = .valid → (0x64 ∈ causes ↔ pageBytes h.size < off + 4) ∧
      (0x65 ∈ causes ↔ (k.need.r = true ∧ attrR h.attr = false) ∨ (k.need.w = true ∧ attrW h.attr = false)) ∧
      (0x66 ∈ causes ↔ k.need.w = true ∧ at_ = false ∧ attrSync h.attr = true)) ∧
    ∀ r ∈ s.handleRaises h k at_ off, r.tval = h.vbase + BitVec.ofNat 64 off)

/-- A word that reads a register whose tag it does not accept raises 0x20, and one that reads a POISON register 0x21, with the word,
the operand, the register's place and the tag as detail. -/
def Obligations.TagChecksTrap : Prop :=
  ∀ (s : State) (sl : Slot) (d a b : Reg) (m : MReg) (g : Group), s.alone sl = true → sl = .v0 ∨ sl = .v1 → s.ctx.seg = none →
    s.laneGroups = [g] → s.lanesFree (fun g => [.v g d, .v g a, .v g b] ++ maskRead g m) = true →
    let detail (opnd : Nat) (t : Tag) : DWord := s.loneEnv.form + BitVec.ofNat 64 (g.val * 2 ^ 36 + opnd * 2 ^ 40 + t.code * 2 ^ 44);
    ∀ i ∈ [Instr.vadd d a b m, .vsub d a b m, .vmul d a b m, .vaddsat d a b m, .vmin d a b m],
      (∀ t, (s.ctx.v g a).tag = t → t.isInt = false → (s.ctx.v g b).tag = t →
        exec i s = .next (if t = .poison then s.trapNow 0x21 (detail 0 t) else s.trapNow 0x20 (detail 0 t))) ∧
      (∀ t, (s.ctx.v g a).tag.isInt = true → (s.ctx.v g b).tag = t → t ≠ (s.ctx.v g a).tag →
        exec i s = .next (if t = .poison then s.trapNow 0x21 (detail 1 t) else s.trapNow 0x20 (detail 1 t)))

/-- Beats of the matrix slot on a configured bin: MNOP does nothing; MAC, MACZ and MWIN pop a slice for each lane group unless they
pad, and send its products to their accumulator block four cycles later; MWIN then moves its latch's window. Which banks an FP64
pair names is the model's reading (log 68). -/
def Obligations.MatrixBeats : Prop :=
  ∀ (s : State) (l : Fin 4) (b : Fin 8) (a r : Fin 4) (w : Fin 8) (p : Group → Pairing), s.alone .m = true → s.groupsOn = true →
    exec .mnop s = .next s.past ∧
    (s.holdsMatrix = true → s.core.queues.toList.all (fun q => q.cmds.isEmpty) = true → s.binUsable b = true →
      let lt (g : Group) : Latch := s.core.mat.latch g l;
      let banks (g : Group) : List (Fin 4) := if (p g).acc = .fp64 then pairOf a else [a];
      let blocks (g : Group) : List Res := (banks g).flatMap (fun x => ([0, 1, 2, 3] : List (Fin 4)).map (fun k => .acc g x k));
      s.blocksFree (fun g => (banks g).map (fun x => .acc g x r)) = true →
      (∀ g ∈ s.laneGroups, pairing (s.bin b).tag (lt g).tag = some (p g) ∧ w.val < (p g).nw ∧ ((p g).acc = .fp64 → a.val % 2 = 0) ∧
        ((lt g).tag = .fp4b → l.val % 2 = 0 ∧ (s.core.mat.latch g (nextLatch l)).tag = .fp4b)) →
      let slice := sliceBytes (s.bin b).tag;
      let whole (clear : Bool) (g : Group) : Bool :=
        clear && (banks g).any (fun x => s.seen.tagAt g x (s.seen.ctx.rc + 4) != (p g).acc.tag);
      let send (clear : Bool) (t : State) (g : Group) : State :=
        let x := t.binPop b slice
        x.2.2.launch 4 (.beat g a r (p g).acc clear (whole clear g) false x.2.1
          (beatTerms (s.bin b).tag (lt g).tag (p g).k ((w.val + (lt g).wb.val) % (p g).nw) (leNat x.1) (lt g) (s.core.mat.latch g (nextLatch l))));
      let pad (clear : Bool) (t : State) (g : Group) : State := t.launch 4 (.beat g a r (p g).acc clear (whole clear g) true false []);
      let turn (t : State) (g : Group) : State :=
        t.modMat (fun m => m.modLatch g l (fun x => { x with wb := Fin.ofNat 4 ((x.wb.val + 1) % (p g).nw) }));
      let sums : Prop := ∀ g ∈ s.laneGroups, ∀ x ∈ banks g, (s.core.mat.bank g x).tag = (p g).acc.tag;
      let clears : Prop := s.blocksFree (fun g => if whole true g then blocks g else []) = true;
      (slice * s.laneGroups.length ≤ (s.bin b).occ →
        (clears → exec (.macz l b a r w false) s = .next (s.laneGroups.foldl (send true) s.past)) ∧
        (sums → exec (.mac l b a r w false) s = .next (s.laneGroups.foldl (send false) s.past) ∧
          exec (.mwin l b a r w false) s = .next (s.laneGroups.foldl turn (s.laneGroups.foldl (send false) s.past)))) ∧
      (clears → exec (.macz l b a r w true) s = .next (s.laneGroups.foldl (pad true) s.past)) ∧
      (sums → exec (.mac l b a r w true) s = .next (s.laneGroups.foldl (pad false) s.past) ∧
        exec (.mwin l b a r w true) s = .next (s.laneGroups.foldl turn (s.laneGroups.foldl (pad false) s.past))))

/-- What a beat does when it lands: in INT32 each element of its eight rows adds the exact sum of its products modulo 2^32, and the
overflow flag tells that one left the range; a clearing beat starts from zero; the other banks stay. -/
def Obligations.BeatLands : Prop :=
  ∀ (m : Matrix) (g : Group) (bank blk : Fin 4) (ts : List Terms) (clear : Bool), ts.length = 256 → (∀ t ∈ ts, t.sum.e = 0) →
    (clear = false → (m.bank g bank).tag = .int32) →
    let n := m.beat g bank blk .int32 clear false false ts
    (∀ i < 8, ∀ j < 32,
      lane ((n.bank g bank).row (8 * blk.val + i)) j =
        (((if clear then 0 else (lane ((m.bank g bank).row (8 * blk.val + i)) j : Int)) + (ts.getD (32 * i + j) noTerms).sum.m) % 2 ^ 32).toNat) ∧
    (∀ i < 32, i / 8 ≠ blk.val → (m.bank g bank).tag = .int32 → (n.bank g bank).row i = (m.bank g bank).row i) ∧
    (n.bank g bank).tag = .int32 ∧
    (∀ g' b', (g', b') ≠ (g, bank) → n.bank g' b' = m.bank g' b') ∧ n.lat = m.lat ∧ n.bins = m.bins

/-- Drains write converted accumulator elements to a vector register six cycles later, MDRAINZ also zeros; MLATCH writes a row of a
latch and MZERO clears banks, each four cycles later. The drain of an FP64 bank whose partner bears another tag is the model's
choice (log 91). -/
def Obligations.MatrixDrainsAndClears : Prop :=
  ∀ (s : State) (q : Fin 2) (p : Fin 8) (a r : Fin 4) (v : Reg) (c : Fin 8) (z : Bool) (l : Fin 4) (w : Fin 8), s.alone .m = true →
    s.holdsMatrix = true → s.core.queues.toList.all (fun q => q.cmds.isEmpty) = true →
    let all (x : Fin 4) (g : Group) : List Res := ([0, 1, 2, 3] : List (Fin 4)).map (fun k => .acc g x k);
    let b : Fin 4 := Fin.ofNat 4 (a.val + 1)
    s.lanesFree (fun g => [.v g v, .v g (nextReg v)] ++ all a g ++ all b g) = true → s.blocksFree (fun g => all a g ++ all b g) = true →
    (∀ (k t : Tag) (parts rows : Nat), (∀ g ∈ s.laneGroups, (s.core.mat.bank g a).tag = k) →
      (k = .fp64 → a.val % 2 = 0 ∧ ∀ g ∈ s.laneGroups, (s.core.mat.bank g b).tag = .fp64) →
      drainTarget k c.val = some (t, parts, rows) → (q = 0 ∨ t = .fp64) → 8 * q.val + p.val < parts →
      (z = true → t = .bf16 ∨ t = .fp16 ∨ t = .e4m3 ∨ t = .e5m2 ∨ (k = .fp64 ∧ t = .fp32)) →
      let part := 8 * q.val + p.val
      let at_ (g : Group) (row col : Nat) : Nat :=
        lane ((s.core.mat.bank g a).row row) col + (if k = .fp64 then 2 ^ 32 * lane ((s.core.mat.bank g b).row row) col else 0)
      let out (g : Group) : List FRes :=
        if t = .fp64 then (List.range 16).map (fun i => convert k t .rne z (at_ g (8 * r.val + part / 2) (16 * (part % 2) + i)))
        else (List.range (32 * rows)).map (fun i => convert k t .rne z (at_ g (8 * r.val + rows * part + i % rows) (i / rows)));
      let gone : List (Nat × VData × VData) :=
        if t = .fp64 then [(8 * r.val + part / 2, 0, laneBits (fun j => j / 16 == part % 2))]
        else (List.range rows).map (fun i => (8 * r.val + rows * part + i, 0, allOnes));
      let zeroed (t' : State) (g : Group) : State :=
        (if k = .fp64 then [a, b] else [a]).foldl (fun u x => u.launch 6 (.accRows g x r gone)) t';
      let drained (t' : State) (g : Group) : State := t'.launch 6 (.v g v (ofElems t.width ((out g).map (·.1))) allOnes t) (orAll (out g));
      exec (.mdrain q p a r v c z) s = .next (s.laneGroups.foldl drained s.past) ∧
      exec (.mdrainz q p a r v c z) s = .next (s.laneGroups.foldl (fun t' g => zeroed (drained t' g) g) s.past)) ∧
    ((∀ g ∈ s.laneGroups, ((s.ctx.v g v).tag.isData = true ∧ (s.ctx.v g v).tag ≠ .fp4b)) →
      ∃ t, exec (.mlatch l w v) s = .next t ∧ t.ctx.regs = s.ctx.regs ∧ (∀ g, (t.core.mat.latch g l).rows = (s.core.mat.latch g l).rows) ∧
        (∀ g ∈ s.laneGroups, (t.core.mat.latch g l).wb = 0) ∧
        t.ctx.flights = (s.laneGroups.foldl (fun u g => u.launch 4 (.latchRow g l w (s.ctx.v g v).data (s.ctx.v g v).tag)) s.past).ctx.flights) ∧
    (l.val % 2 = 0 → v.val % 2 = 0 → (∀ g ∈ s.laneGroups, (s.ctx.v g v).tag = .fp4b ∧ (s.ctx.v g (nextReg v)).tag = .fp4b ∧
        (s.core.mat.latch g (nextLatch l)).tag = .fp4b) →
      ∃ t, exec (.mlatch l w v) s = .next t ∧ t.ctx.regs = s.ctx.regs ∧ (∀ g ∈ s.laneGroups, (t.core.mat.latch g l).wb = 0) ∧
        t.ctx.flights = (s.laneGroups.foldl (fun u g => (u.launch 4 (.latchRow g l w (s.ctx.v g v).data .fp4b)).launch 4
          (.latchRow g (nextLatch l) w (s.ctx.v g (nextReg v)).data .fp4b)) s.past).ctx.flights) ∧
    (c.val ≤ 1 → exec (.mzero a c) s = .next (s.laneGroups.foldl (fun t g =>
      t.launch 4 (.accZero g a (if c = 0 then .fp32 else .int32))) s.past)) ∧
    (c = 2 → a.val % 2 = 0 → exec (.mzero a c) s = .next (s.laneGroups.foldl (fun t g =>
      (t.launch 4 (.accZero g a .fp64)).launch 4 (.accZero g b .fp64)) s.past))

/-- The vector slots' access to accumulators, three cycles, and to bins: a push puts a register's bytes behind the tail, a pop takes
the oldest, six cycles. -/
def Obligations.AccumulatorRowsAndBins : Prop :=
  ∀ (s : State) (sl : Slot) (d a : Reg) (c : Fin 4) (h : Fin 2) (b : Fin 8) (m : MReg), s.alone sl = true → sl = .v0 ∨ sl = .v1 →
    s.holdsMatrix = true →
    let blk : Fin 4 := Fin.ofNat 4 (a.val / 8)
    s.lanesFree (fun g => [.v g d, .acc g (evenOf c) blk, .acc g (oddOf c) blk] ++ maskRead g m) = true →
    let free : Prop := s.blocksFree (fun g => [.acc g (evenOf c) blk, .acc g (oddOf c) blk]) = true
    let K (g : Group) (x : Fin 4) : AccBank := s.core.mat.bank g x;
    let mask (f64 : Bool) (g : Group) : VData := activeBits f64 (s.ctx.m g m);
    exec (.vacrSt d c m) s = .next (s.launchV 3 d (fun g => some
      { data := ofLanes (fun _ => (K g c).tag.code + (if (K g c).ovf then 256 else 0)), bits := mask false g, tag := .int32 })) ∧
    ((∀ g ∈ s.laneGroups, (K g c).tag ≠ .poison) →
      exec (.vacr d a c m) s = .next (s.launchV 3 d (fun g => some
        { data := (K g c).row a.val, bits := mask ((K g c).tag == .fp64) g, tag := (K g c).tag })) ∧
      (free → (∀ g ∈ s.laneGroups, (s.ctx.v g d).tag = (K g c).tag ∧ ((K g c).tag = .fp32 ∨ (K g c).tag = .int32)) →
        exec (.vacw d a c m) s = .next (s.laneGroups.foldl (fun t g => t.launch 3 (.accRows g c blk [(a.val, (s.ctx.v g d).data, mask false g)]))
          s.past))) ∧
    (c.val % 2 = 0 → (∀ g ∈ s.laneGroups, (K g c).tag = .fp64 ∧ (K g (oddOf c)).tag = .fp64) →
      exec (.vacrD d a h c m) s = .next (s.launchV 3 d (fun g => some
        { data := ofPairs (fun i => lane ((K g c).row a.val) (16 * h.val + i) + 2 ^ 32 * lane ((K g (oddOf c)).row a.val) (16 * h.val + i)),
          bits := mask true g, tag := .fp64 })) ∧
      (free → (∀ g ∈ s.laneGroups, (s.ctx.v g d).tag = .fp64) →
        let half (g : Group) (o : Nat) : VData := ofLanes (fun j => lane (s.ctx.v g d).data (2 * (j % 16) + o));
        let bits (g : Group) : VData := laneBits (fun j => j / 16 == h.val && maskBit (s.ctx.m g m) (2 * (j % 16)));
        exec (.vacwD d a h c m) s = .next (s.laneGroups.foldl (fun t g => (t.launch 3 (.accRows g c blk [(a.val, half g 0, bits g)])).launch 3
          (.accRows g (oddOf c) blk [(a.val, half g 1, bits g)])) s.past))) ∧
    (s.binUsable b = true → s.ctx.seg = none →
      ((∀ g ∈ s.laneGroups, (s.ctx.v g d).tag.isData = true ∧ ((s.bin b).tag = .raw ∨ (s.ctx.v g d).tag = (s.bin b).tag)) →
        (s.bin b).occ + 128 * s.laneGroups.length ≤ (s.bin b).nbank * 65536 →
        exec (.vpush d b) s = .next (s.laneGroups.foldl (fun t g => t.binPush b (leBytes 128 (s.ctx.v g d).data.toNat)) s.past)) ∧
      (128 * s.laneGroups.length ≤ (s.bin b).occ →
        exec (.vpop d b) s = .next (s.laneGroups.foldl (fun t g =>
          let x := t.binPop b 128
          x.2.2.launch 6 (.v g d (BitVec.ofNat 1024 (leNat x.1)) allOnes (if x.2.1 then .poison else (s.bin b).tag))) s.past)))

/-- BINSET answers its status and, at status 0, configures the bin or gives it up; BINQ reads a bin's fields. A bin is a queue: what
is pushed is popped again after what it held before; its occupancy and high-water mark count the bytes. -/
def Obligations.BinWords : Prop :=
  (∀ (s : State) (a b d : Reg), s.alone .s = true → s.holdsMatrix = true → s.noSegment = true → s.unhindered [.x a, .x b, .x d] = true →
    s.core.queues.toList.all (fun q => q.cmds.isEmpty) = true →
    let x := s.ctx.x a
    let y := s.ctx.x b
    ∀ k : MReg, k.val = (x.extractLsb' 0 3).toNat → k ∈ s.ownBins →
    (x.extractLsb' 3 3 = 0 → x.extractLsb' 19 1 = 0 → x.extractLsb' 24 39 = 0 → y.extractLsb' 32 32 = 0 →
      let base := (x.extractLsb' 6 6).toNat
      let n := (x.extractLsb' 12 7).toNat
      let tag := (x.extractLsb' 20 4).toNat
      let st := s.binsetStatus k base n tag y.toNat (x.getLsbD 63)
      (st ≠ 0 → exec (.binset b a d) s = .next (s.past.launchX 1 d (BitVec.ofNat 64 st))) ∧
      (st = 0 → exec (.binset b a d) s = .next ((s.past.modBin k (fun _ => if n = 0 then Bin.reset else
        { Bin.reset with base := base, nbank := n, tag := Tag.ofCode tag, decl := y.toNat })).launchX 1 d 0))) ∧
    (x.extractLsb' 3 1 = 0 → x.extractLsb' 6 2 = 0 → x.extractLsb' 9 55 = 0 →
      let q := s.bin k
      let v : Nat := [q.occ + (if q.ovdecl then 2 ^ 32 else 0), q.hwm, q.base + q.nbank * 2 ^ 6 + q.tag.code * 2 ^ 16 + q.decl * 2 ^ 32,
        q.head + q.tail * 2 ^ 32].getD (x.extractLsb' 4 2).toNat 0
      exec (.binq a d) s = .next ((if x.getLsbD 8 then s.past.modBin k (fun q => { q with hwm := q.occ, ovdecl := false }) else s.past).launchX 1 d
        (BitVec.ofNat 64 v)))) ∧
  (∀ (s : State) (b : MReg) (bs : List Byte),
    let k := s.bin b
    0 < bs.length → k.occ + bs.length ≤ k.nbank * 65536 → k.base + k.nbank ≤ 64 → k.tail = (k.head + k.occ) % (k.nbank * 65536) →
    let t := s.binPush b bs
    (t.bin b).occ = k.occ + bs.length ∧ (t.bin b).hwm = max k.hwm (k.occ + bs.length) ∧ (t.bin b).head = k.head ∧
    (t.bin b).tail = ((t.bin b).head + (t.bin b).occ) % (k.nbank * 65536) ∧
    (t.binPop b (k.occ + bs.length)).1 = (s.binPop b k.occ).1 ++ bs ∧
    (∀ x, (∀ i < bs.length, k.base * 65536 + (k.tail + i) % (k.nbank * 65536) ≠ x) → t.core.sram.get x = s.core.sram.get x))

/-! ## Commands -/

/-- The ticketed commands of the copy slots enter their queue (R337, R374, R375): with the next number, their job and items, their
completion part, and the core SRAM ranges of their sides; a full queue or range list is no case of it. The order of the details
of 0x90 is the model's reading (log 30). -/
def Obligations.CommandsEnterQueue : Prop :=
  ∀ (s : State) (sl : Slot) (f : Compl), s.alone sl = true → sl = .c0 ∨ sl = .c1 → s.sq.man.service = none →
    let q := s.queueOf sl;
    (s.core.queues.get q).cmds.length < 32 →
    let X (r : Reg) : DWord := s.ctx.x r;
    let H (h : HReg) : HandleReg := s.ctx.h h;
    let lo (r : Reg) : Nat := (X r).toNat % 2 ^ 32;
    let hi (r : Reg) : Nat := (X r).toNat / 2 ^ 32;
    let cmd (job : Job) (items : Nat) : Cmd :=
      { num := 0, active := false, job := job, items := items, next := 0, recs := [], arr := [], orig := [], scope := s.scopeNow, acq := f.acq,
        rel := f.rel, report := (s.seen.completion f items).report, bar := if f.xb = 0 then none else some (X f.xb), user := !s.ctx.csrs.prv, gen := if f.xg = 0 then none else some (X f.xg),
        half := .a, owner := 0, asid := 0, held := false, inSeg := false, revoked := false, result := 0, fin := 0, arv := 0, moved := 0, asked := none, far := [],
        reply := none, lost := false, refused := false, forming := [] };
    let enters (i : Instr) (rs : List Reg) (hs : List HReg) (job : Job) (items : Nat) (spans : List (Nat × Nat × Bool)) (outside : Bool) : Prop :=
      s.unhindered ((rs ++ [f.xr, f.xb, f.xg]).map Res.x ++ hs.map Res.h) = true → (s.seen.completion f items).raises = [] →
      s.ownRanges.length + spans.length ≤ (if s.core.split then 32 else 64) → (∀ x y, spans = [x, y] → x.2.1 ≤ y.1 ∨ y.2.1 ≤ x.1) →
      exec i s = .next (State.submit q (cmd job items) spans outside ((s.seen.completion f items).fill s.past));
    let regs (x : Side) : List HReg := match x with | .handle h => [h] | .sram => [];
    (∀ (src dst : Side) (rs rd rn : Reg) (h : Fin 4) (t : Tag) (sel : Bool),
      let n := lo rn + (if sel then 16 else 0);
      hi rn = 0 → 0 < lo rn → lo rn ≤ 2 ^ 30 → lo rn % (if sel then 8 else 4) = 0 → (X rs).toNat % 4 = 0 → (X rd).toNat % 4 = 0 →
      (if sel then t.code ≤ 11 else t = .raw) → s.seen.sideOk src (X rs) 0 n .read = true → s.seen.sideOk dst (X rd) 0 n .write = true →
      enters (.cpy { src := src, dst := dst, xs := rs, xd := rd, xn := rn, hint := h, f := f } t sel) [rs, rd, rn] (regs src ++ regs dst)
        (.copy (s.sidePlace src (X rs)) (s.sidePlace dst (X rd)) 1 (lo rn) 0 0 h (if sel then some t else none))
        (if sel then 1 else (lo rn + 4095) / 4096) (sideSpan src (X rs) 0 n false ++ sideSpan dst (X rd) 0 n true) (dst != .sram)) ∧
    (∀ (src dst : Side) (rs rd rn rk : Reg) (h : Fin 4), rk.val = rn.val + 1 →
      let ss := sext 32 (lo rk);
      let ds := sext 32 (hi rk);
      let first (d : Int) : Int := min 0 ((hi rn - 1 : Int) * d);
      let last (d : Int) : Int := max 0 ((hi rn - 1 : Int) * d) + lo rn;
      0 < hi rn → 0 < lo rn → hi rn * lo rn ≤ 2 ^ 30 → lo rn % 4 = 0 → ss % 4 = 0 → ds % 4 = 0 → (X rs).toNat % 4 = 0 → (X rd).toNat % 4 = 0 →
      s.seen.sideOk src (X rs) (first ss) (last ss) .read = true → s.seen.sideOk dst (X rd) (first ds) (last ds) .write = true →
      enters (.cpy2d { src := src, dst := dst, xs := rs, xd := rd, xn := rn, hint := h, f := f }) [rs, rd, rn, rk] (regs src ++ regs dst)
        (.copy (s.sidePlace src (X rs)) (s.sidePlace dst (X rd)) (hi rn) (lo rn) ss ds h none) ((hi rn * lo rn + 4095) / 4096)
        (sideSpan src (X rs) (first ss) (last ss) false ++ sideSpan dst (X rd) (first ds) (last ds) true) (dst != .sram)) ∧
    (∀ (g : HReg) (rs rd rn : Reg) (h : Fin 4),
      let tab : DWord := BitVec.ofNat 64 (lo rn);
      let count := hi rn % 2 ^ 16;
      let rw := hi rn / 2 ^ 16;
      lo rn < 2 ^ 22 → 0 < count → 0 < rw → rw < 2 ^ 14 → s.seen.sideOk .sram tab 0 (4 * count : Nat) .read = true →
      (s.seen.sideOk (.handle g) 0 0 0 .read = true → s.seen.sideOk .sram (X rd) 0 (count * 4 * rw : Nat) .write = true →
        enters (.cpyg g rs rd rn h f) [rs, rd, rn] [g] (.gather (.page (H g) (X rs).toNat) (lo rn) count rw (X rd).toNat h) count
          [((X rd).toNat, (X rd).toNat + count * 4 * rw, true), (lo rn, lo rn + 4 * count, false)] false) ∧
      (s.seen.sideOk (.handle g) 0 0 0 .write = true → s.seen.sideOk .sram (X rs) 0 (count * 4 * rw : Nat) .read = true →
        enters (.cpys g rs rd rn h f) [rs, rd, rn] [g] (.scatter (.page (H g) (X rd).toNat) (lo rn) count rw (X rs).toNat h) count
          [((X rs).toNat, (X rs).toNat + count * 4 * rw, false), (lo rn, lo rn + 4 * count, false)] true)) ∧
    (s.holdsMatrix = true →
      (∀ (src : Side) (rs : Reg) (l : Fin 4) (gm : Byte) (t : Tag), gm ≠ 0 → (∀ g : Group, gm.getLsbD g.val = true → s.ownGroup g = true) →
        let n : Nat := 1024 * ((List.range 8).filter (fun g => gm.getLsbD g)).length;
        (X rs).toNat % 128 = 0 → t.code ≤ 12 → s.seen.sideOk src (X rs) 0 n .read = true →
        enters (.cpyl src rs l gm t f) [rs] (regs src) (.latch (s.sidePlace src (X rs)) l gm t) 1 (sideSpan src (X rs) 0 n false) false) ∧
      (∀ (g : HReg) (rs rd rn : Reg) (gm : Byte) (g0 g1 : Group), (∀ g : Group, gm.getLsbD g.val = true → s.ownGroup g = true ∧ g0 ≤ g ∧ g ≤ g1) →
        gm.getLsbD g0.val = true → gm.getLsbD g1.val = true →
        let first := (X rn).toNat % 2 ^ 9;
        let count := (X rn).toNat / 2 ^ 16;
        (X rn).toNat / 2 ^ 9 % 2 ^ 7 = 0 → 0 < count → first + count ≤ 512 → hi rd = 0 → (X rs).toNat % 32 = 0 →
        s.seen.sideOk (.handle g) (X rs) (16384 * g0.val + 32 * first : Nat) (16384 * g1.val + 32 * (first + count) : Nat) .read = true →
        enters (.cpysh g rs rd rn gm f) [rs, rd, rn] [g] (.shelf (.page (H g) (X rs).toNat) gm first count (BitVec.ofNat 32 (lo rd))) 1 [] false) ∧
      (∀ (src : Side) (rs rn : Reg) (b : MReg), s.seen.binUsable b = true → hi rn = 0 → 0 < lo rn → lo rn % 128 = 0 →
        s.seen.sideOk src (X rs) 0 (lo rn) .read = true →
        enters (.cpybin src rs rn b f) [rs, rn] (regs src) (.bin (s.sidePlace src (X rs)) b (lo rn)) 1 (sideSpan src (X rs) 0 (lo rn) false) false)) ∧
    (∀ (g k : HReg) (rs rd rn : Reg) (t : Tag), hi rn = 0 → 0 < lo rn → lo rn % max (t.width / 8) 1 = 0 → (X rd).toNat % 8 = 0 → t.code ≤ 11 →
      s.seen.sideOk (.handle g) (X rs) 0 (lo rn) .read = true → s.seen.sideOk (.handle k) (X rd) 0 16 .write = true →
      enters (.sealgen { hs := g, hd := k, xs := rs, xd := rd, xn := rn, f := f } t) [rs, rd, rn] [g, k]
        (.sealgen (.page (H g) (X rs).toNat) (.page (H k) (X rd).toNat) (lo rn) t) 1 [] true) ∧
    (∀ (rs : Reg) (e : Fin 4096), (X rs).toNat = e.val →
      enters (.exfetch rs f) [rs] [] (.exfetch e) 1 [] true ∧
      (∀ pin, s.ctx.csrs.prv = true → enters (.expin rs pin f) [rs] [] (.expin e pin) 1 [] true)) ∧
    (∀ (g : HReg) (rs : Reg), (X rs).toNat % 64 = 0 → s.seen.sideOk (.handle g) (X rs) 0 64 .read = true →
      enters (.exrel g rs f) [rs] [g] (.exrel (.page (H g) (X rs).toNat)) 1 [] true)

/-- The commands with a descriptor read its 64 bytes as scalar loads and enter their queue with it: routing, combining, and the
collectives, whose item count is the number of their chunks. The order of the details of 0x90 is the model's reading (log 30). -/
def Obligations.DescriptorCommandsEnterQueue : Prop :=
  ∀ (s : State) (sl : Slot) (a : EngArgs) (bs : List Byte) (hit : Bool) (x : Access), s.alone sl = true → sl = .c0 ∨ sl = .c1 →
    s.sq.man.service = none → (s.core.queues.get (s.queueOf sl)).cmds.length < 32 →
    let va := s.ctx.x a.xn;
    let H (h : HReg) : HandleReg := s.ctx.h h;
    va.toNat % 64 = 0 → s.seen.readDesc s.scopeNow va = (.bytes bs hit, x) →
    let w (i lo n : Nat) : Nat := leNat ((bs.drop (8 * i)).take 8) / 2 ^ lo % 2 ^ n;
    let src : Place := .page (H a.hs) (s.ctx.x a.xs).toNat;
    let dst : Place := .page (H a.hd) (s.ctx.x a.xd).toNat;
    let side (h : HReg) (off : DWord) (n : Nat) (k : AccessKind) : Prop := s.seen.sideOk (.handle h) off 0 n k = true;
    let named (lo : Nat) : HReg := Fin.ofNat 16 (w 1 lo 4);
    let enters (i : Instr) (hs : List HReg) (job : Job) (items : Nat) : Prop :=
      s.unhindered ([a.xs, a.xd, a.xn, a.f.xr, a.f.xb, a.f.xg].map Res.x ++ (a.hs :: a.hd :: hs).map Res.h) = true →
      (s.seen.completion a.f items).raises = [] →
      ∃ (t : State) (c : Cmd), exec i s = .next t ∧ t.ctx.regs = s.ctx.regs ∧ t.ctx.flights = s.ctx.flights ∧ t.core.ranges = s.core.ranges ∧
        (t.core.queues.get (s.queueOf sl)).cmds = (s.core.queues.get (s.queueOf sl)).cmds ++ [c] ∧ (t.core.queues.get (s.queueOf sl)).count = c.num ∧
        c.num = (if (s.core.queues.get (s.queueOf sl)).count = 0xFFFFFFFF then 1 else (s.core.queues.get (s.queueOf sl)).count + 1) ∧
        c.job = job ∧ c.items = items ∧ c.next = 0 ∧ c.active = false ∧ c.recs = [] ∧ c.scope = s.scopeNow ∧ c.acq = a.f.acq ∧ c.rel = a.f.rel ∧
        c.owner = s.ctx.ident ∧ c.asid = s.ctx.csrs.asid ∧ c.half = s.core.active ∧ c.report = (s.seen.completion a.f items).report ∧
        c.bar = (if a.f.xb = 0 then none else some (s.ctx.x a.f.xb)) ∧ c.user = !s.ctx.csrs.prv ∧ c.gen = (if a.f.xg = 0 then none else some (s.ctx.x a.f.xg));
    (let t := Tag.ofCode (w 1 16 4);
      w 0 55 9 = 0 → (∀ i ∈ [4, 5, 6, 7], w i 0 64 = 0) → 0 < w 0 32 16 → 1 ≤ w 0 48 3 → w 0 48 3 ≤ 4 → 2 ≤ w 0 51 4 → w 0 48 3 ≤ w 0 51 4 → w 0 51 4 ≤ 8 →
      t = .fp32 ∨ t = .bf16 ∨ t = .fp16 ∨ t = .e4m3 → w 1 20 4 ≤ 9 →
      side a.hs (s.ctx.x a.xs) (w 0 32 16 * (128 * 2 ^ w 1 20 4)) .read → side a.hd (s.ctx.x a.xd) (64 * w 0 32 16) .write →
      side (named 24) (BitVec.ofNat 64 (w 2 0 64)) (64 * w 0 32 16) .read → side (named 28) 0 0 .read →
      enters (.route a) [named 24, named 28] (.route src dst bs (H (named 24)) (H (named 28))) (8 * w 0 32 16)) ∧
    (let fp (t : Tag) : Prop := t = .fp32 ∨ t = .bf16 ∨ t = .fp16;
      let rt := Tag.ofCode (w 1 16 4);
      let dt := Tag.ofCode (w 1 20 4);
      w 0 0 32 = 0 → (∀ i ∈ [5, 6, 7], w i 0 64 = 0) → 0 < w 0 32 16 → 0 < w 1 0 16 → fp rt → fp dt →
      side a.hs (s.ctx.x a.xs) (64 * w 0 32 16) .read → side a.hd (s.ctx.x a.xd) (w 0 32 16 * (w 1 0 16 * (dt.width / 8))) .write →
      side a.hd (BitVec.ofNat 64 (w 4 0 64)) (w 0 32 16 * (w 1 0 16 * (rt.width / 8))) .read →
      side (named 24) (BitVec.ofNat 64 (w 2 0 64)) (64 * w 0 32 16) .read → side (named 28) 0 0 .read →
      enters (.routec a) [named 24, named 28] (.routec src dst bs (H (named 24)) (H (named 28))) (w 0 32 16)) ∧
    (let tag := Tag.ofCode (w 0 40 4);
      let nch := w 1 32 7;
      let last := w 1 40 13;
      let arr := w 2 0 64 + w 3 0 64 * 2 ^ 64;
      let ext : Nat := 4096 * (nch - 1) + last;
      w 0 60 4 = 0 → w 1 39 1 = 0 → w 1 53 11 = 0 → w 5 20 44 = 0 → 0 < w 0 52 8 → 0 < nch → nch ≤ 64 → 0 < last → last ≤ 4096 →
      last % max (tag.width / 8) 1 = 0 → arr < 2 ^ (2 * nch) → w 4 0 64 < 2 ^ nch → tag.code ≤ 11 →
      ∀ seals : Bool, (seals = true → w 6 0 64 % 8 = 0 ∧ w 7 0 64 % 8 = 0) →
      let reads : Prop := side a.hs (s.ctx.x a.xs) ext .read ∧ (seals = true → side a.hs (BitVec.ofNat 64 (w 6 0 64)) (16 * nch) .read);
      let writes : Prop := side a.hd (s.ctx.x a.xd) ext .write ∧ (seals = true → side a.hd (BitVec.ofNat 64 (w 7 0 64)) (16 * nch) .write);
      (tag = .fp64 ∨ tag = .fp32 ∨ tag = .bf16 ∨ tag = .fp16 → 0 < w 0 44 8 → w 0 44 8 ≤ w 0 52 8 → reads → (arr ≠ 0 → writes) →
        enters (.red a seals) [] (.coll 0 src dst bs seals) nch) ∧
      (w 0 44 8 = 0 → (w 4 0 64 ≠ 0 → reads) →
        ((arr ≠ 0 → writes) → enters (.bcast a seals) [] (.coll 1 src dst bs seals) nch) ∧
        ((arr ≠ 0 ∨ w 4 0 64 ≠ 0 → writes) → enters (.agath a seals) [] (.coll 2 src dst bs seals) nch)))

/-- The commands that act at issue: SEALCK compares seals and traps where they differ, EXBIND and YARDDRAIN answer in their register
three cycles later, CWAIT and CSTAT answer a ticket's status, CWAIT and CFENCE waiting for commands that have not finished. What
leaves to another package's expert and the refreshed lines are the model's (log 62, log 63, log 32). -/
def Obligations.ImmediateCommands : Prop :=
  ∀ (s : State) (sl : Slot) (rs rd rn : Reg), s.alone sl = true → sl = .c0 ∨ sl = .c1 → s.sq.man.service = none →
    let X (r : Reg) : DWord := s.ctx.x r;
    let at_ (h : HReg) (r : Reg) : Nat := (s.ctx.h h).loc s.die (X r).toNat;
    let start (acq : Bool) : State := if acq then s.past.acquireOrder s.scopeNow else s.past;
    (∀ (g k : HReg) (t : Tag) (mode : Bool), s.unhindered [.x rs, .x rd, .x rn, .h g, .h k] = true →
      let n := (X rn).toNat;
      let m := if mode then 2 else 1;
      0 < n → n * m ≤ 65536 → n % max (t.width / 8) 1 = 0 → t.code ≤ 11 → s.seen.sideOk (.handle g) (X rs) 0 (n * m : Nat) .read = true →
      s.seen.sideOk (.handle k) (X rd) 0 (16 * m : Nat) .read = true → s.away (at_ g rs) = false → s.away (at_ k rd) = false →
      s.badRange (at_ g rs) (n * m) = false → s.badRange (at_ k rd) (16 * m) = false →
      let pay := s.bytesAt (at_ g rs) (n * m);
      let given := s.bytesAt (at_ k rd) (16 * m);
      let same : Prop := if mode then
          ((sealOf t (pay.take n)).res.toNat + (sealOf t (pay.drop n)).res.toNat) % (2 ^ 61 - 1) =
            ((sealRead given).res.toNat + (sealRead (given.drop 16)).res.toNat) % (2 ^ 61 - 1)
        else sealOf t pay = sealRead given;
      (same → ∃ u, exec (.sealck g k rs rd rn t mode) s = .next u ∧ u.ctx.pc = s.past.ctx.pc ∧ u.ctx.regs = s.ctx.regs ∧ u.ctx.flights = s.ctx.flights ∧
        u.pkg.hbm = s.pkg.hbm) ∧
      (¬ same → s.ctx.seg = none → exec (.sealck g k rs rd rn t mode) s = .next (s.trapNow (if mode then 0xA5 else 0xA4) ((s.ctx.h k).vbase + X rd)))) ∧
    (∀ (g : HReg) (y : Option ExpertDesc) (acq : Bool), s.unhindered [.x rs, .x rd, .h g] = true → (X rs).toNat % 64 = 0 →
      s.seen.sideOk (.handle g) (X rs) 0 64 .read = true → s.away (at_ g rs) = false → s.badRange (at_ g rs) 64 = false →
      expertDesc (s.bytesAt (at_ g rs) 64) = y → (∀ e, y = some e → e.hpkg = s.pkgId) →
      let r := ((start acq).engCount (at_ g rs) 64 0).bind y;
      exec (.exbind g rs rd acq) s = .next (r.2.freeFreeze.launchX 3 rd r.1)) ∧
    (∀ (a n : Nat) (acq : Bool), s.unhindered [.x rs, .x rd, .x rn] = true → X rn = BitVec.ofNat 64 (a + n * 2 ^ 32) → (X rs).toNat < 2 ^ 16 → 0 < n → n ≤ 1024 →
      a < 2 ^ 22 → a % 16 = 0 → s.seen.sideOk .sram (BitVec.ofNat 64 a) 0 (16 * n : Nat) .write = true → s.core.ranges = [] →
      let r := (start acq).drainYard (X rs).toNat n;
      exec (.yarddrain rs rd rn acq) s = .next ((r.2.2.sramWrite a r.1).freeFreeze.launchX 3 rd (BitVec.ofNat 64 r.2.1))) ∧
    (s.unhindered [.x rs, .x rd] = true → (X rs).toNat < 2 ^ 33 → (s.core.split = true → (X rs).getLsbD 32 = decide (s.core.active = .b)) →
      (∀ c, s.ticketCmd (X rs) = some (.inl c) → c.held = false → ∃ u, exec (.cwait rs rd) s = .next u ∧ u.sq.hold = some .ticket ∧ u.ctx.pc = s.ctx.pc) ∧
      ((∀ c, s.ticketCmd (X rs) ≠ some (.inl c)) → exec (.cwait rs rd) s = .next (s.past.refreshCache.launchX 1 rd (s.ticketStatus (X rs)))) ∧
      exec (.cstat rs rd 0) s = .next (s.past.launchX 1 rd (s.ticketStatus (X rs))) ∧
      (∀ k : Fin 4, k = 1 ∨ k = 2 → ∃ v, exec (.cstat rs rd k) s = .next (s.past.launchX 1 rd v) ∧
        (∀ d, s.ticketCmd (X rs) = some (.inr d) → v = if k = 2 then d.result else (d.recs.head?.map (·.2)).getD 0))) ∧
    (s.unhindered [.x rs, .x rd] = true →
      let q : Fin 2 := Fin.ofNat 2 ((X rs).toNat / 2 ^ 32 % 2);
      let n := (s.core.queues.get q).count;
      exec (.cstat rs rd 3) s = .next (s.past.launchX 1 rd (if n = 0 then 0 else BitVec.ofNat 64 (q.val * 2 ^ 32 + n.toNat)))) ∧
    (∀ q : Fin 4,
      let mine : List Cmd := ([0, 1] : List (Fin 2)).flatMap (fun k =>
        if q = 0 ∨ q.val.testBit k.val then (s.core.queues.get k).cmds.filter (fun c => c.owner == s.ctx.ident) else []);
      (mine = [] → exec (.cfence q) s = .next s.past.refreshCache) ∧
      (mine ≠ [] → (∀ c ∈ mine, c.held = false) → ∃ u, exec (.cfence q) s = .next u ∧ u.sq.hold = some .cfence ∧ u.ctx.pc = s.ctx.pc))

/-! ## The steps that are no words -/

/-- Steps of the issue stage: a bundle, direct or indexed, whose issue nothing hinders commits all its parts, planned from one
state; an idle core lets a cycle pass; a result lands in its register with its flags, and nothing else changes; a rendezvous
lets the waiting bundle issue; and the watchdogs end a wait with their trap. The order of the agents and of a rendezvous, and
the faults that a step brings, are the model's (log 2, log 102, log 80). -/
def Obligations.IssueStageSteps : Prop :=
  ∀ s : State,
    (s.ctx.status = .running → s.bundleClear = true → s.meets s.core.cur = false →
      (s.core.cur.hdr.indexed = false → exec (.bundleIssue none) s = .next (s.bundleStart.commit s.core.cur s.bundleParts false)) ∧
      (s.core.cur.hdr.indexed = true → exec (.indexedBundleIssue none) s = .next (s.bundleStart.commit s.core.cur s.bundleParts false))) ∧
    (s.ctx.status = .running → s.bundleClear = true → s.core.cur.hdr.indexed = false → s.ctx.seg = none → s.core.split = false →
      exec (.bundleIssue (some .signature)) s = .next (s.trapNow 0xA0 (wordForm .header none s.core.cur.hword))) ∧
    (s.ctx.status ≠ .running → ∃ t, exec (.bundleIssue none) s = .next t ∧ t.sq.cycle = s.sq.cycle + 1 ∧ t.ctx.regs = s.ctx.regs ∧ t.pkg = s.pkg) ∧
    (s.ctx.flights = [] → exec (.resultLanding none) s = .next s) ∧
    (∀ f, firstFlight s.ctx.flights = some f → f.late = false → ∃ t, exec (.resultLanding none) s = .next t ∧
      t.ctx.regs = s.ctx.regs.apply f.w ∧ t.ctx.flights = dropFlight f s.ctx.flights ∧ (s.holdsMat = true → t.core.mat = s.core.mat.apply f.w) ∧
      (s.holdsMat = false → t.core.mat = s.core.mat ∧ ∀ x, s.core.matSaved.find? s.ownSaved = some x → t.myMat = x.2.2.mat.apply f.w) ∧
      t.ctx.csrs = s.ctx.csrs.orFlags f.vflags f.fflags ∧ t.ctx.pc = s.ctx.pc ∧ t.ctx.rc = max s.ctx.rc f.land ∧ t.pkg.hbm = s.pkg.hbm ∧
      t.core.sram = s.core.sram ∧ t.core.cache = s.core.cache) ∧
    (∀ (f : Flight) (g : Group) (r : Reg) (d m : VData) (k : Tag), firstFlight s.ctx.flights = some f → f.w = .v g r d m k →
      ∃ t, exec (.resultLanding (some 0)) s = .next t ∧ (t.ctx.v g r).tag = .poison ∧ (t.ctx.v g r).data = blend m d (s.ctx.v g r).data) ∧
    (s.sq.hold ≠ some .rendezvous → exec .rendezvous s = .next s ∧ exec .rdvWatchdogExpiry s = .next s) ∧
    (s.sq.hold = some .rendezvous → s.bundleClear = true → s.mate = .none →
      exec .rendezvous s = .next (s.bundleStart.commit s.core.cur s.bundleParts (s.meets s.core.cur))) ∧
    (s.sq.hold = some .rendezvous → s.bundleClear = true → s.mate = .waits → exec .rendezvous s = .next
      ((s.bundleStart.commit s.core.cur s.bundleParts (s.meets s.core.cur)).asHalf (otherHalf s.core.active) (fun u => u.fetchCur.issueAll true none))) ∧
    (s.mate = .soon ∨ s.mate = .toCome → exec .rendezvous s = .next s) ∧
    (s.sq.hold = some .rendezvous → s.sq.binwd ≠ 0 → s.sq.binwd.toNat ≤ s.sq.waited →
      exec .rdvWatchdogExpiry s = .next (s.trapNow 0x83 (s.ctx.csrs.rdvCount.zeroExtend 64))) ∧
    ((∀ p, s.sq.hold ≠ some (.bins p)) → exec .binWatchdogExpiry s = .next s) ∧
    (∀ (sl : Slot) (d : Reg) (b : MReg) (w : Nat), sl = .v0 ∨ sl = .v1 → s.alone sl = true → s.sq.binwd ≠ 0 → s.sq.binwd.toNat ≤ s.sq.waited →
      s.laneGroups ≠ [] → s.binUsable b = true →
      let need := 128 * s.laneGroups.length;
      (s.core.cur.slots = [(sl, w, .vpop d b)] → s.sq.hold = some (.bins true) → (s.bin b).occ < need → s.core.cur.odd = [] → s.holdsMatrix = true →
        exec .binWatchdogExpiry s = .next (s.takeTrap 0x54 (BitVec.ofNat 64 (b.val + (need - (s.bin b).occ) * 2 ^ 8)) s.core.cur.pc s.core.cur.next)) ∧
      (s.core.cur.slots = [(sl, w, .vpush d b)] → s.sq.hold = some (.bins false) → s.core.cur.odd = [] → s.holdsMatrix = true → s.ctx.seg = none →
        (s.bin b).nbank * 65536 < (s.bin b).occ + need →
        exec .binWatchdogExpiry s = .next (s.takeTrap 0x55 (BitVec.ofNat 64
          (b.val + ((s.bin b).occ + need - (s.bin b).nbank * 65536) % 2 ^ 24 * 2 ^ 8)) s.core.cur.pc s.core.cur.next)))

/-- Steps at a bundle boundary: an asynchronous cause that is taken, a rewind, the matrix-side state that is switched, a change of
the core's mode, and a shelf swap. The order at a boundary (log 101), the nesting of asynchronous causes, whose matrix-side
state is held, and the release numbers after a change of mode are the model's readings (log 25, log 71, log 23). -/
def Obligations.BoundarySteps : Prop :=
  ∀ s : State,
    (s.ctx.asyncCause = none → s.rousable = false → exec .asyncCauseTaken s = .next s) ∧
    (s.ctx.asyncCause = none → (s.sq.banks.get (otherBank s.sq.running)).roused = true → ∃ t, exec .asyncCauseTaken s = .next t ∧ t.ctx = s.ctx ∧
      (t.sq.banks.get (otherBank s.sq.running)).status = .standby) ∧
    (∀ i < 8, s.ctx.status = .running ∨ s.ctx.status = .halted → s.ctx.csrs.ie = true → (s.ctx.pend &&& s.ctx.en).getLsbD i = true →
      (∀ j < i, (s.ctx.pend &&& s.ctx.en).getLsbD j = false) → s.ctx.parked.length < 4 → s.ctx.seg = none →
      ∃ t, exec .asyncCauseTaken s = .next t ∧ t.ctx.csrs.tcause = BitVec.ofNat 8 (0xB8 + i) ∧ t.ctx.csrs.tepc = s.ctx.pc &&& ~~~(0xF : DWord) ∧
        t.ctx.csrs.tnext = s.ctx.pc ∧ t.ctx.csrs.intrap = true ∧ t.ctx.csrs.ie = false ∧ t.ctx.csrs.prv = true ∧ t.ctx.csrs.pprv = s.ctx.csrs.prv ∧
        t.ctx.csrs.pie = true ∧ t.ctx.status = .running ∧ t.ctx.regs = s.ctx.regs ∧ t.ctx.flights = [] ∧
        t.ctx.parked = s.ctx.parked ++ [{ t0 := s.atIssue.ctx.rc, writes := s.ctx.flights, loops := s.ctx.loops, arrived := s.ctx.arrived }] ∧
        t.ctx.loops = [] ∧ t.ctx.pc = s.ctx.csrs.handler (0xB8 + i)) ∧
    (∀ bad, (∀ c, s.sq.hold ≠ some (.rewind c)) → exec (.rewind bad) s = .next s) ∧
    (∀ (c : Nat) (g : Segment), s.sq.hold = some (.rewind c) → s.ctx.seg = some g → s.segBusy = false →
      (∃ t, exec (.rewind false) s = .next t ∧ t.ctx.pc = g.markPc ∧ t.ctx.rc = g.markRc ∧ t.ctx.nextIssue = g.markRc ∧ t.ctx.seg = none ∧
        t.ctx.resv = none ∧ t.ctx.loops = g.loops ∧ (s.holdsMat = true → ∀ b : Fin 8, (t.core.mat.bins.get b).head = (g.bins.get b).head ∧ (t.core.mat.bins.get b).tail = (g.bins.get b).tail ∧
          (t.core.mat.bins.get b).occ = (g.bins.get b).occ ∧ (t.core.mat.bins.get b).hwm = (s.core.mat.bins.get b).hwm) ∧ t.ctx.csrs.fflags = g.csrs.fflags ∧ t.ctx.csrs.prv = g.csrs.prv ∧
        (g.log = [] → t.ctx.regs = s.ctx.regs) ∧ (∀ r v, g.log = [.x r v] → r ≠ 0 → t.ctx.x r = v ∧ ∀ q, q ≠ r → t.ctx.x q = s.ctx.x q)) ∧
      (s.ctx.csrs.intrap = false → s.ctx.parked.length < 4 → ∃ t, exec (.rewind true) s = .next t ∧ t.ctx.csrs.tcause = 0xA8 ∧
        t.ctx.csrs.tval = BitVec.ofNat 64 (c + 0x300) ∧ t.ctx.seg = none ∧ t.ctx.regs = s.ctx.regs)) ∧
    (s.matHeldByOther = false → exec .matrixStateSwitch s = .next s) ∧
    (s.matHeldByOther = true → ∃ t, exec .matrixStateSwitch s = .next t ∧ t.core.matHolder.get (halfIdx s.core.active) = some s.sq.running ∧
      t.ctx.matrixSide = true ∧ t.ctx.regs = s.ctx.regs ∧ t.pkg.hbm = s.pkg.hbm ∧
      (∀ o, s.core.matHolder.get (halfIdx s.core.active) = some o → (s.sq.banks.get o).matrixSide = true →
        ∃ x ∈ t.core.matSaved, x.1 = s.core.active ∧ x.2.1 = o ∧ x.2.2.mat = s.core.mat) ∧
      (s.core.split = false → ∀ x, s.core.matSaved.find? (fun x => x.1 == s.core.active && x.2.1 == s.sq.running) = some x →
        t.core.mat = { x.2.2.mat with swap := t.core.mat.swap })) ∧
    (s.core.splitPend = false ∨ s.coreBound = true → exec .modeChangeInForce s = .next s) ∧
    (s.core.splitPend = true → s.core.queues.toList.all (fun q => q.cmds.isEmpty) = true → s.coreBound = false →
      ∃ t, exec .modeChangeInForce s = .next t ∧ t.core.split = !s.core.split ∧ t.core.splitPend = false ∧ t.core.cache = [] ∧ t.core.ranges = [] ∧
        t.core.a.man.live = [] ∧ t.core.b.man.live = [] ∧ (∀ b, t.core.mat.bins.get b = Bin.reset) ∧ t.core.mat.active = Matrix.reset.active ∧
        t.core.mat.standby = Matrix.reset.standby) ∧
    (s.swapPending = none → exec .shelfSwap s = .next s) ∧
    (∀ w, s.swapPending = some w →
      (s.swapReady w = true → s.fillsBefore w ≠ [] → ∃ t, exec .shelfSwap s = .next t ∧ t.sq.hold = some .shelfFill ∧ t.ctx.regs = s.ctx.regs) ∧
      (s.swapReady w = false → s.swapAsks w = false → exec .shelfSwap s = .next s)) ∧
    (∀ w, s.core.split = false → s.swapPending = some w → s.swapReady w = true → s.fillsBefore w = [] → ∃ t, exec .shelfSwap s = .next t ∧
      t.core.mat.active = s.core.mat.standby ∧ t.core.mat.standby = s.core.mat.active ∧ t.swapPending = none ∧
      t.records = { active := s.records.standby, standby := s.records.active } ∧ t.core.mat.acc = s.core.mat.acc ∧ t.core.mat.lat = s.core.mat.lat ∧
      t.ctx.regs = s.ctx.regs)

/-- Which context a core runs, and what makes a halted or waiting one go on: stops of issue, quanta, periods and budgets of streams,
the resumption of a context, the answers to page faults, wakes, and the bits of pending causes. The order in time, the retry of
an unanswered page fault and the parking place are the model's (log 77, log 26, log 99). -/
def Obligations.ContextSteps : Prop :=
  ∀ s : State,
    let h := s.core.active;
    let other := s.sq.banks.get (otherBank s.sq.running);
    let parks (i : Instr) : Prop := ∃ t, exec i s = .next t ∧ (t.sq.banks.get s.sq.running).status = .free ∧
      ∃ p, t.pkg.parkedCtx = s.pkg.parkedCtx ++ [p] ∧ p.half = h ∧ p.bank = s.sq.running ∧ p.ctx.status = .standby ∧ p.ctx.resv = none ∧
        p.ctx.regs = s.ctx.regs ∧ p.ctx.pc = s.ctx.pc ∧ p.ctx.flights = s.ctx.flights ∧ p.ctx.csrs = s.ctx.csrs ∧ p.ctx.loops = s.ctx.loops;
    let runsOther (t : State) : Prop := t.sq.running = otherBank s.sq.running ∧ t.ctx.status = .running ∧ t.ctx.pc = other.pc ∧ t.ctx.regs = other.regs;
    (s.readyStreams h = [] →
      (s.ctx.status = .running → exec (.contextResume h) s = .next s) ∧
      (s.canRun s.sq.running = true → ∃ t, exec (.contextResume h) s = .next t ∧ t.ctx.status = .running ∧ t.ctx.pc = s.ctx.pc ∧
        t.ctx.regs = s.ctx.regs ∧ t.sq.running = s.sq.running) ∧
      (s.ctx.status = .halted → s.canRun (otherBank s.sq.running) = true → ∃ t, exec (.contextResume h) s = .next t ∧ runsOther t) ∧
      (s.ctx.status = .running → other.status ≠ .standby → s.mateBank s.ctx = none →
        parks (.stopOfIssue h .park) ∧ (s.quantumOver = true → parks (.quantumExpiry h)))) ∧
    (s.ctx.status ≠ .running → ∀ why, exec (.stopOfIssue h why) s = .next s) ∧
    (s.ctx.status = .running → s.canRun (otherBank s.sq.running) = true → ∃ t, exec (.stopOfIssue h .preempt) s = .next t ∧ runsOther t) ∧
    (s.ctx.status = .running → s.canRun (otherBank s.sq.running) = false → ∃ t, exec (.stopOfIssue h .preempt) s = .next t ∧ t.ctx.status = .standby ∧
      t.ctx.regs = s.ctx.regs ∧ t.ctx.pc = s.ctx.pc) ∧
    (s.quantumOver = false → exec (.quantumExpiry h) s = .next s) ∧
    (s.budgetOver = false → exec (.streamBudgetExhausted h) s = .next s) ∧
    (∀ (id : BitVec 14) (x : Stream), s.budgetOver = true → s.ctx.streamId = some id → s.pkg.streams.find? (fun y => y.id == id) = some x →
      x.leaving = false → (∀ y ∈ s.pkg.streams, y.ready = true → y.id = id) → ∃ t, exec (.streamBudgetExhausted h) s = .next t ∧
        (∀ y ∈ t.pkg.streams, y.id = id → y.ready = false) ∧
        ∃ p ∈ t.pkg.parkedCtx, p.ctx.streamId = some id ∧ p.ctx.regs = s.ctx.regs ∧ p.ctx.pc = s.ctx.pc ∧ p.ctx.status = .standby) ∧
    (∀ (id : BitVec 14) (x : Stream), s.endedStream id = none → s.pkg.streams.find? (fun y => y.id == id) = some x →
      let now := if x.core = s.coreId then (s.seqOf x.half).now / unitNs else s.timeNs;
      (now < x.next → exec (.streamPeriodStart id) s = .next s) ∧
      (x.next ≤ now → ∃ t, exec (.streamPeriodStart id) s = .next t ∧ t.pkg.streams =
        if x.leaving then s.pkg.streams.filter (fun y => y.id ≠ id)
        else s.pkg.streams.map (fun y => if y.id = id then { y with ready := decide (x.core = s.coreId), next := y.next + y.period } else y))) ∧
    (∀ (k : Half) (b : Fin 2),
      let c := (s.seqOf k).banks.get b;
      (c.pfValid = false → exec (.pfackRetry k b) s = .next s ∧ exec (.pfackDeliver k b) s = .next s) ∧
      (c.pfValid = true → ∃ t, exec (.pfackRetry k b) s = .next t ∧ ((t.seqOf k).banks.get b).pfValid = false ∧
        ((t.seqOf k).banks.get b).pc = c.pc ∧ ((t.seqOf k).banks.get b).csrs = c.csrs ∧ ((t.seqOf k).banks.get b).regs = c.regs) ∧
      (c.pfValid = true → c.csrs.intrap = false → c.parked.length < 4 → ∃ t, exec (.pfackDeliver k b) s = .next t ∧
        ((t.seqOf k).banks.get b).pfValid = false ∧ ((t.seqOf k).banks.get b).csrs.tcause = c.pfCause ∧
        ((t.seqOf k).banks.get b).csrs.tval = c.pfva ∧ ((t.seqOf k).banks.get b).csrs.tepc = c.pc &&& ~~~(0xF : DWord) ∧
        ((t.seqOf k).banks.get b).csrs.prv = true ∧ ((t.seqOf k).banks.get b).pc = c.csrs.handler c.pfCause.toNat ∧
        ((t.seqOf k).banks.get b).regs = c.regs)) ∧
    (∀ core : Fin 128,
      (core.val ≠ s.coreId.toNat → exec (.wake core) s = .next (s.emit (.wake core.val .a))) ∧
      (core.val = s.coreId.toNat →
        (s.core.a.ctx.status = .halted → ∃ t, exec (.wake core) s = .next t ∧ t.core.a.ctx.status = .running ∧ t.core.a.ctx.regs = s.core.a.ctx.regs ∧
          t.core.a.ctx.pc = s.core.a.ctx.pc ∧ s.core.a.ctx.rc + 7 ≤ t.core.a.ctx.nextIssue) ∧
        (s.core.a.ctx.status = .running → exec (.wake core) s = .next s) ∧
        (s.core.split = false → exec (.wakeb core) s = .next s) ∧
        (s.core.split = true → s.core.b.ctx.status = .halted → ∃ t, exec (.wakeb core) s = .next t ∧ t.core.b.ctx.status = .running ∧
          t.core.b.ctx.pc = s.core.b.ctx.pc))) ∧
    (∀ (core : Fin 128) (b : Fin 2) (v : Byte) (host : Bool),
      let c := s.core.a.banks.get b;
      (core.val ≠ s.coreId.toNat → exec (.asyncSet core .a b v host) s = .next s ∧ exec (.asyncPendClear core .a b v) s = .next s) ∧
      (core.val = s.coreId.toNat → (∃ t, exec (.asyncSet core .a b v host) s = .next t ∧ (t.core.a.banks.get b).en = c.en ∧
          (t.core.a.banks.get b).pend = c.pend ||| (if host then v &&& 1 else v &&& 2)) ∧
        (∃ t, exec (.asyncPendClear core .a b v) s = .next t ∧ (t.core.a.banks.get b).pend = c.pend &&& ~~~v ∧ (t.core.a.banks.get b).en = c.en)))

/-- The scheduler's steps: the host queue's launch records, a spawn whose dependences are complete, the choice of what a bank takes,
and the start of a task, in the state that a task begins with. The choice among equals and the values that a task starts with
where R194 gives none are the model's (log 18, log 3). -/
def Obligations.SchedulerSteps : Prop :=
  ∀ s : State,
    let head := (s.dev (devSched 0 0x10)).toNat % 2 ^ 32;
    let tail := (s.dev (devSched 0 0x18)).toNat % 2 ^ 32;
    let base := s.dev (devSched 0 0);
    (∀ v, ∃ t, exec (.hqtailWrite v) s = .next t ∧ (∀ o, t.dev o = if o = devSched 0 0x18 then v.zeroExtend 64 else s.dev o) ∧ t.core = s.core) ∧
    (base.getLsbD 0 = false ∨ head = tail → exec .hostQueueConsume s = .next s) ∧
    (base.getLsbD 0 = true → head ≠ tail →
      let at_ := (base.extractLsb' 12 48).toNat * 2 ^ 12 + 64 * (head % 2 ^ ((s.dev (devSched 0 8)).toNat % 32));
      s.region true at_ = .hbm → s.badLine at_ = false →
      let d := spawnDesc true ((List.range 8).map (fun i => s.numAt (at_ + 8 * i) 8));
      (∀ r, leastReason (s.descReasons d) = some r → ∃ t, exec .hostQueueConsume s = .next t ∧ t.pkg.spawns = s.pkg.spawns ∧
        t.dev (devSched 0 0x10) = BitVec.ofNat 64 ((head + 1) % 2 ^ 32) ∧
        t.dev (devSched 0 0x20) = BitVec.ofNat 64 (r * 2 ^ 56 + ((s.dev (devSched 0 0x20)).toNat % 2 ^ 32 + 1) % 2 ^ 32)) ∧
      (∀ bs : List Byte, leastReason (s.descReasons d) = none → s.asidValid d.asid = true → s.launchLists d.asid d.lists = .got bs →
        let ws := (pieces 8 (bs.length / 8) bs).map leNat;
        let stage := (ws.drop (2 * d.ndep)).take (2 * d.nstage);
        let mask := ws.drop (2 * d.ndep + 2 * d.nstage);
        leastReason (s.listReasons d mask stage) = none → s.spawnRoom (s.holdingDie d (s.maskCores mask).1) = true →
        ∃ t x, exec .hostQueueConsume s = .next t ∧ t.pkg.spawns = s.pkg.spawns ++ [x] ∧ t.dev (devSched 0 0x10) = BitVec.ofNat 64 ((head + 1) % 2 ^ 32) ∧
          x.state = .posted ∧ x.entry = d.entry ∧ x.args = d.args ∧ x.asid = d.asid ∧ x.gang = d.gang ∧ x.done = d.done ∧ x.cls.val = d.cls % 8)) ∧
    (∀ (die : Fin 8) (id : Nat) (x : Spawn), s.findSpawn die id = some x →
      (x.state ≠ .posted → exec (.spawnReady die id) s = .next s) ∧ (x.state ≠ .placing → exec (.taskStart die id) s = .next s) ∧
      (x.state = .posted → (∀ d ∈ x.deps, s.depState x.asid d = .complete) → ∃ t, exec (.spawnReady die id) s = .next t ∧
        t.findSpawn die id = some { x with state := .ready, readyAt := s.timeNs }) ∧
      (x.state = .posted → (∃ d ∈ x.deps, s.depState x.asid d = .unreadable) → ∃ t, exec (.spawnReady die id) s = .next t ∧ t.findSpawn die id = none) ∧
      (x.state = .placing → x.stage = [] →
        (x.gang = true ∨ x.cores.length ≤ x.bound + 1 → ∃ t, exec (.taskStart die id) s = .next t ∧ t.findSpawn die id = none) ∧
        (∀ (h : Half) (b : Fin 2), x.gang = false → x.cores[x.bound]? = some (s.coreId.toNat, h) → s.freeBank h = some b →
          ∃ t, exec (.taskStart die id) s = .next t ∧
            (let c := (t.seqOf h).banks.get b;
              c.pc = x.entry &&& ~~~(0xF : DWord) ∧ c.x 10 = x.args ∧ c.x 11 = BitVec.ofNat 64 x.bound ∧ c.x 12 = BitVec.ofNat 64 x.cores.length ∧
              (∀ r : Reg, r ≠ 10 → r ≠ 11 → r ≠ 12 → c.x r = 0) ∧ c.csrs.asid = x.asid ∧ c.csrs.prv = false ∧ c.csrs.ie = true ∧
              c.csrs.sbmode = x.sbm ∧ c.csrs.rdvSize = 1 ∧ c.loops = [] ∧ c.flights = [] ∧ c.resv = none ∧
              (c.status = .standby ∨ c.status = .running) ∧
              (s.core.split = false → ((s.seqOf h).ctx.status = .running → c.status = .standby) ∧
                ((s.seqOf h).ctx.status ≠ .running → b = (s.seqOf h).running → c.status = .running)))))) ∧
    (∀ die : Fin 8,
      (s.choiceCore die = none → exec (.schedulerChoice die) s = .next s) ∧
      (∀ k x, s.choiceCore die = some k → (s.choose die k none).1 = some (.spawn x) → ∃ t, exec (.schedulerChoice die) s = .next t ∧
        t.pkg.spawns = s.pkg.spawns.map (fun y => if y.die = x.die ∧ y.id = x.id then { y with state := .placing } else y)) ∧
      (∀ k p, s.choiceCore die = some k → (s.choose die k none).1 = some (.parked p) → ∃ t, exec (.schedulerChoice die) s = .next t ∧
        t.pkg.parkedCtx = s.pkg.parkedCtx.filter (fun q =>
          q.order ≠ p.order ∧ ∀ x ∈ s.pkg.parkedCtx, p.ctx.gangWith x.ctx = true → q.order ≠ x.order)))

/-! ## /root/docs/ob/10.lean -/

/-- The steps of the engines: a command starts in the order of its queue, its items are handled one after another, and it finishes
with its records; chunks and routed rows that arrive; and the fetch of an expert's weights. When an engine acts, void chunks and
the counts of ROUTE are the model's (log 2, log 37, log 35). -/
def Obligations.EngineSteps : Prop :=
  ∀ (s : State) (q : Fin 2),
    let cmds := (s.core.queues.get q).cmds;
    (s.startable q = none → s.startAsks q = false → exec (.commandStart q) s = .next s) ∧
    (∀ c, s.startable q = some c → c.active = false ∧ c.held = false ∧ (cmds.filter (fun d => d.active)).length < 8 ∧
      ∃ t, exec (.commandStart q) s = .next t ∧ (∀ d ∈ (t.core.queues.get q).cmds, d.num = c.num → d.active = true) ∧ t.ctx.regs = s.ctx.regs) ∧
    (∀ n, s.liveCmd q n = none → exec (.commandItem q n) s = .next s ∧ exec (.commandFinish q n) s = .next s) ∧
    (∀ (n : Word) (c : Cmd) (b len : Nat) (h : Fin 4) (src : Place), s.liveCmd q n = some c → c.job = .copy src (.sram b) 1 len 0 0 h none →
      c.active = true → c.revoked = false → c.asked = none → c.items = (len + 4095) / 4096 → c.next < c.items → b + len ≤ 2 ^ 22 →
      s.core.sramBad = [] → s.ctx.seg = none →
      let lo := 4096 * c.next;
      let hi := min (lo + 4096) len;
      let source (k : Nat) : Byte := match src with
        | .sram a => s.core.sram.get (a + k)
        | .page r o => s.byteAt (r.loc s.die (o + lo) + (k - lo));
      (match src with
        | .sram a => a + len ≤ 2 ^ 22
        | .page r o => s.away (r.loc s.die (o + lo)) = false ∧ s.badRange (r.loc s.die (o + lo)) (hi - lo) = false ∧ s.cutOff c = false) →
      ∃ t, exec (.commandItem q n) s = .next t ∧
        (t.core.queues.get q).cmds = cmds.map (fun d => if d.num = n then
          { c with next := c.next + 1, recs := tset 0 c.recs c.next 0, far := [], lost := false, refused := false, reply := none } else d) ∧
        (∀ k, lo ≤ k → k < hi → t.core.sram.get (b + k) = source k) ∧
        (∀ x, x < b + lo ∨ b + hi ≤ x → t.core.sram.get x = s.core.sram.get x) ∧ t.pkg.hbm = s.pkg.hbm ∧ t.ctx.regs = s.ctx.regs) ∧
    (∀ (n : Word) (c : Cmd), s.liveCmd q n = some c →
      (c.active = false ∨ c.complete = false → exec (.commandFinish q n) s = .next s) ∧
      (c.active = true → c.complete = true → c.asked = none → c.bar = none → c.fin = 0 → c.ordersFar = false → s.cmdOpen q n = false →
        (s.writeReport q c c.recs).cmdOpen q n = false → (c.rel = true → (s.writeReport q c c.recs).unackedAt c.scope c.half = false) → ∃ t, exec (.commandFinish q n) s = .next t ∧
        (t.core.queues.get q).cmds = cmds.filter (fun d => d.num ≠ n) ∧ t.core.ranges = s.core.ranges.filter (fun r => !(r.q == q && r.num == n)) ∧
        t.ctx.regs = s.ctx.regs ∧ ∃ l, (t.core.queues.get q).done = l ++ [{ num := n, arv := 0, recs := c.recs, result := c.result }])) ∧
    (∀ (die : Fin 8) (tag : Nat) (ch : Chunk),
      let who : Agent := { pkg := ch.spkg, core := 0, half := .a };
      (∀ a, s.answeredBefore who tag = some a → exec (.chunkArrival die ⟨tag, ch⟩) s = .next (s.emit (.respond who tag a))) ∧
      (s.answeredBefore who tag = none → die ≠ s.dieFin ∨ (s.staleChunk ch = false ∧ s.liveColls = []) →
        ∃ t, exec (.chunkArrival die ⟨tag, ch⟩) s = .next t ∧
        (if (s.pkg.store.get die).length < 256 then t.pkg.store.get die = s.pkg.store.get die ++ [ch] else t.pkg.wire = s.pkg.wire ++ [(die, ch)])) ∧
      (s.answeredBefore who tag = none → die = s.dieFin → s.staleChunk ch = true → ∃ t, exec (.chunkArrival die ⟨tag, ch⟩) s = .next t ∧ t.dev (devColl s.die) = s.dev (devColl s.die) + 1 ∧
        t.pkg.store = s.pkg.store)) ∧
    (∀ (die : Fin 8) (tag : Nat) (w : RoutedRow) (l : Loc),
      s.pkg.rows.contains (die, w) = true ∨ s.answeredBefore { pkg := w.spkg, core := 0, half := .a } tag = none → s.pkg.bound.contains (BitVec.ofNat 12 w.entry.val, w.layer.toNat) = false →
      s.rowLoc w.plist w.rowBytes w.slot.val = some l → w.row.length = w.rowBytes →
      (residues (rowElems w.tag w.row)).1 = w.res.toNat → (residues (rowElems w.tag w.row)).2.2 = w.nnf.toNat →
      (∀ k < w.rowBytes, s.isHbm (l + k) = true) → s.isHbm (w.map + w.slot.val / 8) = true →
      let bit := BitVec.ofNat 8 (2 ^ (w.slot.val % 8));
      ∃ t, exec (.routedRowArrival die ⟨tag, w⟩) s = .next t ∧
        (∃ r, t.pkg.landed = s.pkg.landed.filter (fun x =>
            !(x.layer == w.layer.toNat && x.expert == w.expert.toNat && x.slot == w.slot.val)) ++ [r] ∧
          r.slot = w.slot.val ∧ r.token = w.token.toNat) ∧
        (∀ k < w.rowBytes, l + k ≠ w.map + w.slot.val / 8 → t.byteAt (l + k) = w.row.getD k 0) ∧
        t.byteAt (w.map + w.slot.val / 8) &&& bit = bit) ∧
    (∀ e : Fin 4096,
      (s.fetchReady e = false → exec (.expertFetchStart e) s = .next s) ∧
      (s.fetchReady e = true → ∃ t, exec (.expertFetchStart e) s = .next t ∧
        t.pkg.fetches = s.pkg.fetches.map (fun f => if f.entry = e then { f with started := true } else f)) ∧
      (∀ bs, s.pkg.fetches.all (fun f => f.entry != e || !f.started) = true → exec (.expertFetchEnd e bs) s = .next s) ∧
      (∀ (l : Loc) (bs : List Byte), s.pkg.fetches.any (fun f => f.entry == e && f.started) = true → s.ertAt e = some l → (s.ert l).flash = true →
        ∃ t, exec (.expertFetchEnd e (some bs)) s = .next t ∧ t.pkg.fetches = s.pkg.fetches.filter (fun f => f.entry ≠ e) ∧
          (s.flashUp (s.ert l) = true → (t.ert l).state = 2) ∧
          (s.flashUp (s.ert l) = false → (t.ert l).state = 0 ∧ (t.ert l).fault = true)))

/-- What arrives: requests and atomics of other agents at their home, of which one that comes again with its tag gets its first
answer again; acquires and promotions; and at the core the answers, the data, the code lines and the translations that it waits
for. When an answer comes is the agenda's (log 2); remote accesses have two phases (log 40). -/
def Obligations.ArrivalSteps : Prop :=
  ∀ s : State,
    (∀ r : LineReq, s.homed (lineOf r.pa) = false → exec (.homeRequest r) s = .next s) ∧
    (∀ (r : LineReq) (a : HomeResp), s.homed (lineOf r.pa) = true → s.answeredBefore r.who r.tag = some a →
      exec (.homeRequest r) s = .next (s.emit (.respond r.who r.tag a))) ∧
    (∀ r : LineReq, s.isHbm (lineOf r.pa) = true → s.answeredBefore r.who r.tag = none →
      (r.write = [] → ∃ t, exec (.homeRequest r) s = .next t ∧ t.pkg.hbm = s.pkg.hbm ∧
        t.out = s.out ++ [.respond r.who r.tag (.data (s.bytesAt (lineOf r.pa) 64) (s.badLine (lineOf r.pa)))]) ∧
      ((∀ p ∈ r.write, lineOf p.1 = lineOf r.pa) → (r.write.map (fun p => p.1)).Nodup → r.write ≠ [] → ∃ t, exec (.homeRequest r) s = .next t ∧
        t.out = s.out ++ [.respond r.who r.tag .ack] ∧
        (∀ p ∈ r.write, t.byteAt p.1 = p.2) ∧ (∀ m, s.isHbm m = true → (∀ p ∈ r.write, p.1 ≠ m) → t.byteAt m = s.byteAt m) ∧
        t.relRec (lineOf r.pa) = none)) ∧
    (∀ (who : Agent) (tag : Nat) (op : HomeOp) (pa : Nat) (sc : Scope) (rel : Option Word), s.homed pa = true →
      let u := s.l2Req (lineOf pa) 0;
      (∀ a, s.answeredBefore who tag = some a → exec (.homeAtomic ⟨tag, who⟩ op pa sc rel) s = .next (s.emit (.respond who tag a))) ∧
      (s.answeredBefore who tag = none → homeReads op = true → s.badLine pa = true →
        ∃ t, exec (.homeAtomic ⟨tag, who⟩ op pa sc rel) s = .next t ∧ t.pkg.hbm = s.pkg.hbm ∧ t.out = s.out ++ [.respond who tag .uncorrectable]) ∧
      (s.answeredBefore who tag = none → s.badLine pa = false →
        let r := match op with
          | .claim cap d plist rb => u.claimAt cap d plist rb pa
          | .expert what desc => u.expertAsked what desc
          | _ => u.homeDo none op pa (rel.map (fun q => { who := who, q := q, scope := sc }));
        ∃ t, exec (.homeAtomic ⟨tag, who⟩ op pa sc rel) s = .next t ∧ t.out = r.2.out ++ [.respond who tag (.value r.1)] ∧
          t.pkg.hbm = r.2.pkg.hbm)) ∧
    (∀ (who : Agent) (tag : Nat) (pa : Nat) (sc : Scope), s.homed pa = true → s.badLine (lineOf pa) = false → s.answeredBefore who tag = none →
      (s.acqpRequest who sc (lineOf pa) = none → ∃ t, exec (.acqpHomeResolve ⟨tag, who⟩ pa sc) s = .next t ∧
        t.out = s.out ++ [.respond who tag (.value (BitVec.ofNat 64 (s.numAt pa 8)))] ∧ t.pkg.hbm = s.pkg.hbm) ∧
      (∀ r, s.acqpRequest who sc (lineOf pa) = some r → r.who.core ≠ s.coreId → ∃ t, exec (.acqpHomeResolve ⟨tag, who⟩ pa sc) s = .next t ∧
        (r.who.pkg = s.self.pkg → t.out = s.out ++ [.promote r.who (lineOf pa) r.q sc]) ∧
        t.pkg.acqps = s.pkg.acqps ++
          [{ who := who, tag := tag, line := lineOf pa, q := r.q, scope := sc, v := BitVec.ofNat 64 (s.numAt pa 8) }])) ∧
    (∀ (line : Nat) (q : Word) (sc : Scope), s.core.active = .a → s.sq.man.service = none →
      (∀ e, s.sq.man.live.find? (fun e => e.seq == q) = some e → e.prom.code < sc.code → ∃ t, exec (.promotionRequest .a line q sc) s = .next t ∧
        t.sq.man.service = some { line := lineOf line, q := q, scope := sc, answer := true }) ∧
      (s.sq.man.live.find? (fun e => e.seq == q) = none → sc ≠ .fabric → ∃ t, exec (.promotionRequest .a line q sc) s = .next t ∧
        t.dev (devCore s.coreId.toNat 0x48) = s.dev (devCore s.coreId.toNat 0x48) + 1 ∧ t.sq.man = s.sq.man)) ∧
    (∀ r, s.sq.man.service = some r → s.sq.man.queued = [] →
      (r.scope ≠ .fabric ∨ s.unacked s.core.active = false → ∃ t, exec .promotionServiceEnd s = .next t ∧ t.sq.man.service = none ∧
        t.sq.man.live = s.sq.man.live.map (fun e => if seqLe e.seq r.q && decide (e.prom.code < r.scope.code) then { e with prom := r.scope } else e)) ∧
      (r.scope = .fabric → s.unacked s.core.active = true → (∀ h : Half, h ≠ s.core.active → (s.seqOf h).man.service = none) →
        exec .promotionServiceEnd s = .next s)) ∧
    (s.core.a.man.service = none → s.core.b.man.service = none → exec .promotionServiceEnd s = .next s) ∧
    (∀ (line : Nat) (q : Word) (sc : Scope) (r : RelRec), s.pkg.barred = [] → s.relRec (lineOf line) = some r →
      ∃ t, exec (.promotionAnswer line ⟨q, sc⟩) s = .next t ∧
        t.relRec (lineOf line) = some (if r.q = q ∧ r.scope.code < sc.code then { r with scope := sc } else r)) ∧
    (∀ tag, s.request? tag = none → (∀ a, exec (.homeResponseArrival ⟨tag, a⟩) s = .next s) ∧
      (∀ bs bad, exec (.scalarMissFill ⟨tag, bs⟩ bad) s = .next s ∧ exec (.landingDataArrival tag bs bad) s = .next s) ∧
      exec (.remoteTimeout tag) s = .next s) ∧
    (∀ (tag : Nat) (r : Request), s.request? tag = some r → s.pkg.barred = [] →
      let got (a : HomeResp) (x : Remote) : Remote := if x.tag = tag ∧ x.answer = none then { x with answer := some a } else x;
      (∀ h, r.who = .store h → exec (.homeResponseArrival ⟨tag, .ack⟩) s = .next (s.dropReq tag) ∧
        (∀ l b ws sc bad, r.what = .write ((l, b) :: ws) sc bad → (s.pkg.revents.get s.dieFin).length < 256 →
          ∃ t e, exec (.remoteTimeout tag) s = .next t ∧ t.pkg.revents.get s.dieFin = s.pkg.revents.get s.dieFin ++ [e] ∧ e.cause = 0xAE ∧
            e.p0 = BitVec.ofNat 64 l ∧ t.core = s.core ∧ t.pkg.requests = s.pkg.requests.filter (fun x => x.tag ≠ tag))) ∧
      (r.who = .context s.ctx.ident →
        (∀ v, ∃ t, exec (.homeResponseArrival ⟨tag, .value v⟩) s = .next t ∧ t.ctx.remote = s.ctx.remote.map (got (.value v)) ∧
          t.pkg.requests = s.pkg.requests.filter (fun x => x.tag ≠ tag)) ∧
        (∀ l bs bad, r.what = .read l bs.length → ∃ t, exec (.scalarMissFill ⟨tag, bs⟩ bad) s = .next t ∧
          t.ctx.remote = s.ctx.remote.map (got (.data bs bad)) ∧ t.ctx.regs = s.ctx.regs) ∧
        (∀ l n, r.what = .read l n → ∃ t, exec (.remoteTimeout tag) s = .next t ∧
          t.ctx.remote = s.ctx.remote.map (fun x => if x.tag = tag then { x with lost := true } else x))) ∧
      (∀ id h l bs bad, r.who = .landing id h → r.what = .read l bs.length → ∃ t, exec (.landingDataArrival tag bs bad) s = .next t ∧
        t.ctx.regs = s.ctx.regs ∧ t.ctx.flights = s.ctx.flights.map (Flight.modLanes (fun _ k =>
          if k.tag = tag ∧ k.got = none then
            { k with got := some (BitVec.ofNat 32 (leNat ((bs.drop (k.loc % 64)).take 4)), if bad then 0xA1 else 0) } else k)))) ∧
    (∀ (va : DWord) (alt l1Bad midBad : Bool),
      (∀ c, s.codeLoc va = .error c → exec (.fetchLineArrival va ⟨alt, l1Bad, midBad⟩) s = .next s) ∧
      (∀ (l : Loc) (g : CodeGot), s.codeLoc va = .ok l →
        let half := if alt then otherPath s.sq.ibuf.path else s.sq.ibuf.path;
        let u := if l1Bad then s.dropL1i (lineOf l) else s;
        (if midBad then u.dropMid (lineOf l) else u).codeLine (lineOf l) = some g →
        (s.sq.ibuf.lines.filter (fun x => x.half == half)).length < 8 →
        ∃ t, exec (.fetchLineArrival va ⟨alt, l1Bad, midBad⟩) s = .next t ∧
          (∃ x ∈ t.sq.ibuf.lines, x.half = half ∧ x.line = lineOf l ∧ x.bytes = g.bytes ∧ x.bad = g.bad) ∧
          t.ctx.regs = s.ctx.regs ∧ t.pkg.hbm = s.pkg.hbm)) ∧
    (∀ (va : DWord) (k : AccessKind),
      (∀ c, s.walk s.ctx.csrs.asid va k.need (!s.ctx.csrs.prv) = .error c → exec (.pageTableWalk va k) s = .next s) ∧
      (∀ x, s.walk s.ctx.csrs.asid va k.need (!s.ctx.csrs.prv) = .ok x → ∃ t, exec (.pageTableWalk va k) s = .next t ∧
        (t.ctx.tlbHit va).isSome = true ∧ t.ctx.regs = s.ctx.regs ∧ t.ctx.pc = s.ctx.pc ∧ t.pkg.hbm = s.pkg.hbm)) ∧
    (∀ (d : Fin 8) (l : Nat),
      let copy (x : L2Line) : Bool := x.slice.val == guestSlice d (lineOf l) && x.line == lineOf l && x.guest.isSome;
      ∃ t, exec (.incomingWriteOrInvalidation (.invalidate d l)) s = .next t ∧ t.core = s.core ∧ t.pkg.hbm = s.pkg.hbm ∧
        t.pkg.l2 = s.pkg.l2.filter (fun x => !copy x)) ∧
    (∀ (d : Fin 8) (l : Nat) (bs : List (Loc × Byte)) (old : List Byte), s.guestIn d (lineOf l) = some old →
      ∃ t, exec (.incomingWriteOrInvalidation (.guest d l bs)) s = .next t ∧ t.pkg.hbm = s.pkg.hbm ∧
        t.guestIn d (lineOf l) = some (patched (lineOf l) old (bs.filter (fun p => lineOf p.1 == lineOf l)))) ∧
    (∀ d : Fin 8, ∃ t, exec (.incomingWriteOrInvalidation (.replica d)) s = .next t ∧
      t.pkg.replicas = s.pkg.replicas.filter (fun p => p.1 ≠ 0 ∧ p.1 ≠ d) ∧
      (∀ m, s.isHbm m = true → (∀ e ∈ s.pkg.replicas, locOff e.2.1 ≠ locOff m) → t.byteAt m = s.byteAt m) ∧
      (∀ l b, s.isHbm l = true → (0, l, b) ∈ s.pkg.replicas → (∀ e ∈ s.pkg.replicas, locOff e.2.1 = locOff l → e = (0, l, b)) → t.byteAt l = b) ∧
      (∀ l b, d ≠ 0 → s.isHbm l = true → s.isHbm (l - d.val * 2 ^ 37) = true → (d, l, b) ∈ s.pkg.replicas →
        (∀ e ∈ s.pkg.replicas, (locOff e.2.1 = locOff l → e.1 = d ∧ e.2.1 = l) ∧
          (e.1 ≠ 0 → locOff e.2.1 ≠ locOff (l - d.val * 2 ^ 37))) →
        t.byteAt l = t.byteAt (l - d.val * 2 ^ 37)))

/-! ## Device registers, ports, host and reliability -/

/-- Writes to device registers, and the steps of the package's own units: masked and half writes, registers that a bound context
guards, the mode and attic of a core, Wayline and root ports, the page pool, power, capture units, the event ring, security and
reset. The port among several with one PEER (log 82), a withdrawn change of mode (log 96), what RESET keeps, the effect of
ATTICCFG, the order in ASYNC, the keys and the grants are the model's (log 21, log 22, log 24, log 13, log 14). -/
def Obligations.DeviceAndPortSteps : Prop :=
  ∀ s : State,
    (∀ (v : DWord) (host : Bool), bitsOf (s.dev (devSec 0)) 0 4 = 0 →
      (∃ t, exec (.deviceRegisterWrite 0x028 true v host) s = .next t ∧ t.core = s.core ∧
        ∀ o, t.dev o = if o = 0x028 then (s.dev o &&& 0xFFFFFFFF00000000) ||| (v &&& 0xFFFFFFFF) else s.dev o) ∧
      (∀ d : Fin 8, ∃ t u, exec (.deviceRegisterWrite (devSched d 0x28) false v host) s = .next t ∧
        exec (.deviceRegisterWrite (devSched d 0x28 + 4) false v host) s = .next u ∧
        (∀ o, t.dev o = if o = devSched d 0x28 then (s.dev o &&& 0xFFFFFFFF0000003F) ||| (v &&& 0xFFFFFFC0) else s.dev o) ∧
        (∀ o, u.dev o = if o = devSched d 0x28 then (s.dev o &&& 0xF0000000FFFFFFFF) ||| (v <<< 32 &&& 0x0FFFFFFF00000000) else s.dev o)) ∧
      (∀ wide, ∃ t, exec (.deviceRegisterWrite 0 wide v host) s = .next t ∧ (∀ o, t.dev o = s.dev o) ∧ t.core = s.core) ∧
      (∀ o ∈ ([0x008, 0x010, 0x018, 0x020, 0x030] : List Nat), s.coreBound = true → exec (.deviceRegisterWrite o true v host) s = .next s)) ∧
    (∀ (off : Nat) (wide : Bool) (v : DWord) (host : Bool), bitsOf (s.dev (devSec 0)) 0 4 ≠ 0 → isEcam off = false →
      ¬ (devSec 0 ≤ off ∧ off < devSec 0x10000) → exec (.deviceRegisterWrite off wide v host) s = .next s) ∧
    (∀ (core : Fin 128) (v : Word), core.val = s.coreId.toNat →
      (v.getLsbD 0 = (s.core.split != s.core.splitPend) → v.getLsbD 8 = false → exec (.cmodeWrite core v) s = .next s) ∧
      (v.getLsbD 0 ≠ (s.core.split != s.core.splitPend) → s.coreBound = true ∨ (v.getLsbD 0 = true ∧ s.atticFits = false) →
        ∃ t, exec (.cmodeWrite core v) s = .next t ∧ t.core.splitErr = true ∧ t.core.split = s.core.split ∧ t.core.splitPend = s.core.splitPend) ∧
      (v.getLsbD 0 ≠ (s.core.split != s.core.splitPend) → s.coreBound = false → (v.getLsbD 0 = true → s.atticFits = true) →
        ∃ t, exec (.cmodeWrite core v) s = .next t ∧ t.core.split = s.core.split ∧ (t.core.split != t.core.splitPend) = v.getLsbD 0) ∧
      (s.coreBound = true → exec (.atticcfgWrite core v) s = .next s) ∧
      (s.coreBound = false → ∃ t, exec (.atticcfgWrite core v) s = .next t ∧ t.core.atticcfg = v &&& 0x0FFE0FFF ∧
        ∀ b : Fin 64, fld v.toNat 0 6 ≤ b.val ∧ b.val < fld v.toNat 0 6 + fld v.toNat 6 6 → t.core.bankMode.get b = .scratch)) ∧
    (∀ (core : Fin 128) (v : Word), core.val ≠ s.coreId.toNat → ∃ t u, exec (.cmodeWrite core v) s = .next t ∧
      exec (.atticcfgWrite core v) s = .next u ∧ t.core = s.core ∧ u.core = s.core ∧
      t.dev (devSched (core.val / 16) (0x100 + 8 * (core.val % 16))) = BitVec.ofNat 64 (v.toNat % 2) ∧
      u.dev (devCore core.val 0x40) = (v &&& 0x0FFE0FFF).zeroExtend 64) ∧
    (∀ p : Fin 128, exec (.waylineFlit p true) s = .next s ∧
      (∃ t, exec (.waylineFlit p false) s = .next t ∧ ∀ o, t.dev o = if o = devPort p 8 then s.dev o + 1 else s.dev o) ∧
      ((∀ r ∈ s.pkg.requests, ∀ n b, r.who ≠ .done n b) → ∃ t, exec (.portDown p) s = .next t ∧
        (∀ o, t.dev o = if o = devPort p 0 then s.dev o &&& 0x7FFFFFFFFFFFFFFF else s.dev o) ∧
        (s.portUsable p = true → (s.pkg.requests.map (fun r => r.tag)).Nodup → ∀ r d, r ∈ s.pkg.requests → r.port = some p → r.dest = some d →
          r.what.isAtomic = false → ∃ k ∈ t.pkg.requests, k.tag = r.tag ∧ k.what = r.what ∧ k.port ≠ some p)) ∧
      (∀ (peer : BitVec 17) (atom : Bool), ∃ t, exec (.portUp p peer atom) s = .next t ∧
        (let r := t.dev (devPort p 0);
          r.getLsbD 63 = true ∧ r.getLsbD 62 = atom ∧ r.getLsbD 61 = (s.dev (devPort p 0)).getLsbD 61 ∧
          bitsOf r 0 17 = if (s.dev 0x030).getLsbD 0 then peer.toNat else 0x1FFFF))) ∧
    (∀ p : Fin 3,
      let r := portReg (p.val + 1);
      let mode := (s.dev r).toNat % 4;
      (∃ t, exec (.portRetrain p) s = .next t ∧ t.dev (r + 8) = 0 ∧ t.out = s.out ++ [.link (p.val + 1)]) ∧
      (∃ t, exec (.rootPortLinkDown p) s = .next t ∧ t.dev (r + 8) = 0 ∧ t.pkg.portMode = s.pkg.portMode) ∧
      (∀ (speed : Fin 7) (width : Fin 17), ∃ t, exec (.rootPortLinkTrained p speed width) s = .next t ∧
        (mode = 0 ∨ mode = 3 → t.dev (r + 8) = 0 ∧ t.pkg.portMode.get p = 0) ∧
        (mode = 1 ∨ mode = 2 → t.dev (r + 8) = BitVec.ofNat 64 (2 ^ 63 + speed.val * 2 ^ 8 + width.val) ∧ (t.pkg.portMode.get p).val = mode))) ∧
    (∀ (d : Fin 8) (v : DWord), ∃ t, exec (.poollimWrite d v) s = .next t ∧ t.dev (devRouting d 8) = v &&& 0xFFFFF ∧
      t.dev (devRouting d 0x10) = v &&& 0xFFFFF ∧ t.core = s.core) ∧
    (∀ (grant : Vector (BitVec 16) 8) (step : Vector (Fin 11) 8),
      let sum := (grant.toList.map (fun g => g.toNat)).sum;
      let budget := min ((s.dev (devPower 0)).toNat % 2 ^ 13) 5000;
      (budget < sum → exec (.powerGrant grant step) s = .next s) ∧
      (sum ≤ budget → ∃ t, exec (.powerGrant grant step) s = .next t ∧ t.ctx.regs = s.ctx.regs ∧
        ∀ d : Fin 8, (t.dev (devPower (8 + 8 * d))).toNat % 2 ^ 16 = (grant.get d).toNat ∧ t.mhz d ≤ 2500 - 125 * (step.get d).val ∧
          (d ∉ s.gangDies → t.mhz d = 2500 - 125 * (step.get d).val) ∧
          (d ∈ s.gangDies → (∃ e ∈ s.gangDies, t.mhz d = 2500 - 125 * (step.get e).val) ∧ ∀ e ∈ s.gangDies, t.mhz e = t.mhz d))) ∧
    (∀ (d : Fin 8) (u : Fin 32), ∃ t, exec (.captureClear d u) s = .next t ∧ t.core = s.core ∧ t.dev (devCapture d u 0) = s.dev (devCapture d u 0) ∧
      t.dev (devCapture d u 8) = 0xFFFFFFFFFFFFFFFF ∧ ∀ o ∈ ([0x10, 0x18, 0x20, 0x28, 0x30, 0x38] : List Nat), t.dev (devCapture d u o) = 0) ∧
    (s.ringFull = true → ∀ src, exec (.eventDelivery src) s = .next s) ∧
    (s.ringFull = false → ∀ (d : Fin 8) (e : Event) (rest : List Event), s.pkg.revents.get d = e :: rest →
      let tail := (s.dev (devRing 0x18)).toNat % 2 ^ 32;
      let l := (s.dev (devRing 0)).toNat / 2 ^ 12 % 2 ^ 48 * 2 ^ 12 + 32 * (tail % 2 ^ ((s.dev (devRing 8)).toNat % 32));
      s.isHbm l = true →
      ∃ t, exec (.eventDelivery (.die d)) s = .next t ∧ t.pkg.revents.get d = rest ∧ t.dev (devRing 0x18) = BitVec.ofNat 64 ((tail + 1) % 2 ^ 32) ∧
        t.bytesAt l 32 = e.bytes ∧ t.out = s.out ++ (if (s.dev (devRing 0x10)).toNat % 2 ^ 32 = tail then [.msix 0] else [])) ∧
    (∀ v : Word,
      let fused := (s.dev (devSec 8)).toNat % 2 ^ 32;
      exec (.svraise v false) s = .next s ∧ (v.toNat ≤ fused → exec (.svraise v true) s = .next s) ∧
      (fused < v.toNat → ∃ t, exec (.svraise v true) s = .next t ∧ ∀ o, t.dev o = if o = devSec 8 then v.zeroExtend 64 else s.dev o) ∧
      (∀ signed : Bool, ∃ t, exec (.reset signed v) s = .next t ∧ t.dev (devSec 8) = s.dev (devSec 8) ∧ t.core = State.reset.core ∧ t.pkg.hbm = [] ∧
        t.pkg.cellar = s.pkg.cellar ∧ t.coreId = s.coreId ∧
        t.dev (devSec 0) = (if signed = false then 1 else if v.toNat < fused then 2 else 0) ∧
        (signed = true → fused ≤ v.toNat → t.pkgId = s.pkgId ∧ (t.dev 8).toNat = s.pkgId))) ∧
    (∀ w : DWord, ∃ t, exec (.attestationRequest w) s = .next t ∧
      t.dev (devSec 0x40) = 0x8000000000000000 ||| (s.dev (devSec 0x40) &&& 0xFFFFFFFF) ∧ t.core = s.core) ∧
    ((s.dev (devSec 0x40)).getLsbD 63 = false → exec .attestationReportDone s = .next s) ∧
    ((s.dev (devSec 0x40)).getLsbD 63 = true → s.pkg.nonce.length = 64 →
      let n := ((s.dev (devSec 0x40)).toNat + 1) % 2 ^ 32;
      ∃ t, exec .attestationReportDone s = .next t ∧ t.dev (devSec 0x40) = BitVec.ofNat 64 (2 ^ 62 + n) ∧
        t.dev (devSec 0x40C0) = BitVec.ofNat 64 (s.pkgId + (s.dev (devSec 8)).toNat % 2 ^ 32 * 2 ^ 32) ∧
        t.dev (devSec 0x40E8) = BitVec.ofNat 64 n ∧ t.dev (devSec 0x40F0) = 0 ∧ t.dev (devSec 0x40F8) = 0)

/-- The host's reads and writes of HBM, corrected errors, the patrol scrubbers, and migrations. The bytes outside BAR2, the
scrubbers' channels and when these units act are the model's (log 79, log 19, log 78). -/
def Obligations.HostAndReliabilitySteps : Prop :=
  ∀ s : State,
    (∀ (off : Nat) (bs : List Byte),
      let l := s.pkgId * 2 ^ 43 + off;
      (2 ^ 40 < off + bs.length → exec (.hostWrite off bs) s = .fault .outsideMemory) ∧
      (off + bs.length ≤ 2 ^ 40 → ∃ t, exec (.hostWrite off bs) s = .next t ∧ t.bytesAt l bs.length = bs ∧ t.core.cache = s.core.cache ∧
        ∀ m, s.isHbm m = true → m < l ∨ l + bs.length ≤ m → t.byteAt m = s.byteAt m)) ∧
    (∀ off n : Nat,
      (2 ^ 40 < off + n → exec (.hostRead off n) s = .fault .outsideMemory) ∧
      (off + n ≤ 2 ^ 40 → exec (.hostRead off n) s = .next (s.emit (.hostData (s.bytesAt (s.pkgId * 2 ^ 43 + off) n))))) ∧
    (∀ a : Fin 16, ∃ t, exec (.errorThreshold (.core a)) s = .next t ∧ t.ctx.regs = s.ctx.regs ∧
      (∀ b : Fin 2, (t.core.a.banks.get b).pend.getLsbD 6 = true ∧
        ((s.core.a.banks.get b).pend.getLsbD 6 = false → (t.core.a.banks.get b).detail.get 2 = BitVec.ofNat 64 a.val) ∧
        (s.core.split = true → (t.core.b.banks.get b).pend.getLsbD 6 = true)) ∧
      ((s.pkg.revents.get s.dieFin).length < 256 → ∃ e, t.pkg.revents.get s.dieFin = s.pkg.revents.get s.dieFin ++ [e] ∧ e.cause = 0xAC ∧
        e.p0 = BitVec.ofNat 64 s.coreId.toNat ∧ e.p1 = BitVec.ofNat 64 a.val)) ∧
    (∀ c : Fin 16, ∃ t, exec (.errorThreshold (.channel c)) s = .next t ∧ t.core = s.core ∧
      ((s.pkg.revents.get (Fin.ofNat 8 (c.val / 2))).length < 256 → ∃ e,
        t.pkg.revents.get (Fin.ofNat 8 (c.val / 2)) = s.pkg.revents.get (Fin.ofNat 8 (c.val / 2)) ++ [e] ∧ e.cause = 0xAC ∧ e.p0 = BitVec.ofNat 64 c.val)) ∧
    (∀ (ch : Fin 16) (find : ScrubFind),
      let d : Fin 8 := Fin.ofNat 8 (ch.val / 2);
      let l := s.scrubLine ch;
      ((s.dev (devRel d 0)).getLsbD 63 = false → exec (.patrolScrubRead ch find) s = .next s) ∧
      ((s.dev (devRel d 0)).getLsbD 63 = true → ∃ t, exec (.patrolScrubRead ch find) s = .next t ∧ t.pkg.hbm = s.pkg.hbm ∧ t.core = s.core ∧
        t.pkg.scrub.get ch = s.pkg.scrub.get ch + 1 ∧
        (s.badLine l = false → find = .clean → t.dev (devRel d 8) = s.dev (devRel d 8) ∧ t.dev (devRel d 0x10) = s.dev (devRel d 0x10) ∧
          t.pkg.poison = s.pkg.poison ∧ t.pkg.revents = s.pkg.revents) ∧
        (∀ raced, s.badLine l = false → find = .corrected raced → t.dev (devRel d 8) = s.dev (devRel d 8) + (if raced then 0 else 1) ∧
          t.dev (devRel d 0x10) = s.dev (devRel d 0x10) ∧ t.pkg.poison = s.pkg.poison) ∧
        (s.badLine l = true ∨ find = .uncorrectable → t.dev (devRel d 8) = s.dev (devRel d 8) ∧
          t.dev (devRel d 0x10) = s.dev (devRel d 0x10) + 1 ∧ l ∈ t.pkg.poison ∧
          ((s.pkg.revents.get d).length < 256 → ∃ e, t.pkg.revents.get d = s.pkg.revents.get d ++ [e] ∧ e.cause = 0xAB ∧ e.p0 = BitVec.ofNat 64 l)))) ∧
    (∀ (asid : BitVec 12) (va : DWord),
      (s.leafOf asid va = none → exec (.migrationRequest asid va) s = .next (s.emit (.migration asid va false)) ∧
        exec (.migrationHoldoffExpiry asid va) s = .next s ∧ ∀ w, exec (.migrationComplete asid va w) s = .next s) ∧
      (∀ leaf sz, s.leafOf asid va = some (leaf, sz) →
        let e := s.numAt leaf 8;
        let was := s.migrationOf asid (pageOf va sz);
        let begun (t : State) : Prop := t.numAt leaf 8 = e + 2 ^ 12 ∧ t.out = s.out ++ [.migration asid va true] ∧
          ∃ m, t.migrationOf asid (pageOf va sz) = some m ∧ m.moving = true ∧ m.held = false ∧ m.leaf = leaf;
        (e.testBit 12 = true → exec (.migrationRequest asid va) s = .next (s.emit (.migration asid va false))) ∧
        (e.testBit 12 = false → (∀ m, was = some m → s.heldOff m = false) → ∃ t, exec (.migrationRequest asid va) s = .next t ∧ begun t) ∧
        (e.testBit 12 = false → ∀ m, was = some m → s.heldOff m = true → ∃ t, exec (.migrationRequest asid va) s = .next t ∧
          t.migrationOf asid (pageOf va sz) = some { m with held := true } ∧ t.pkg.hbm = s.pkg.hbm ∧ t.core = s.core) ∧
        (e.testBit 12 = false → ∀ m, was = some m → m.held = true → s.heldOff m = false →
          ∃ t, exec (.migrationHoldoffExpiry asid va) s = .next t ∧ begun t) ∧
        ((∀ m, was = some m → m.held = false ∨ s.heldOff m = true) → exec (.migrationHoldoffExpiry asid va) s = .next s) ∧
        (∀ w : DWord, (∀ m, was = some m → m.moving = false) → exec (.migrationComplete asid va w) s = .next s) ∧
        (∀ (w : DWord) m, was = some m → m.moving = true → s.oldAccesses true (vRange asid va sz.val) = true →
          ∃ t, exec (.migrationComplete asid va w) s = .next t ∧ t.migrationOf asid (pageOf va sz) = some { m with leafWord := some w } ∧
            t.pkg.hbm = s.pkg.hbm ∧ t.core = s.core) ∧
        (∀ (w : DWord) m, was = some m → m.moving = true → s.oldAccesses true (vRange asid va sz.val) = false →
          (∀ x ∈ s.allBanks, x.2.2.pfValid = false) →
          ∃ t, exec (.migrationComplete asid va w) s = .next t ∧ t.numAt leaf 8 = w.toNat - (if w.toNat.testBit 12 then 2 ^ 12 else 0) ∧
            t.migrationOf asid (pageOf va sz) = some { m with leaf := leaf, moving := false, held := false, doneAt := some s.timeNs, leafWord := none } ∧
            tget 0 t.pkg.epochs asid.toNat = tget 0 s.pkg.epochs asid.toNat + 1 ∧
              ∀ x ∈ t.ctx.tlb, x.asid = asid → x.vbase + pageBytes x.size ≤ pageOf va sz ∨ pageOf va sz + pageBytes sz ≤ x.vbase)))

/-! ## What words leave as it was -/

/-- Words that name registers alone, scalar and vector, whatever comes of their issue (a commit, a trap or a wait): no register
changes but by a result that lands later, in the destination; of the control and status registers only those of a trap and the
two counts; memory, core SRAM, the core cache, the matrix-side state and the command queues stay. A result that lands changes
its own destination. -/
def Obligations.RegisterWordsFrame : Prop :=
  (∀ (s t : State) (sl : Slot) (i : Instr) (ds : List Res) (d a b c : Reg) (m q k : MReg) (r : Rnd) (o : Fin 8) (alu : AluInstr) (mo : MulOp)
      (dv : DivOp) (br : BranchCond) (i12 : BitVec 12) (i20 : BitVec 20) (tag : Tag) (p : Fin 16) (n : Fin 4),
    s.alone sl = true → s.ctx.seg = none →
    let lanes : List Res := s.laneGroups.map (fun g => .v g d);
    let masks : List Res := s.laneGroups.map (fun g => .m g q);
    let rows : List (Instr × List Res) :=
      [(.scalarAlu alu, [.x (aluDest alu)]), (.scalarMul mo d a b, [.x d]), (.scalarDiv dv d a b, [.x d]), (.branch br a b i12, []),
       (.jal d i20, [.x d]), (.jalr d a i12, [.x d]), (.wait i12 a, []), (.loop i12 a, [])] ++
      ([Instr.vadd, .vaddLit, .vsub, .vsubLit, .vmul, .vmulLit, .vmulh, .vmulhu, .vaddsat, .vsubsat, .vaddsatu, .vsubsatu, .vmin, .vminLit, .vmax,
        .vmaxLit, .vminu, .vmaxu, .vand, .vandLit, .vor, .vorLit, .vxor, .vxorLit, .vandn, .vshl, .vshlLit, .vshr, .vshrLit, .vsra, .vsraLit, .vrol,
        .vror, .vsel, .vfmin, .vfmax, .vpack, .vperm].map (fun f => (f d a b m, lanes))) ++
      ([Instr.vabs, .vneg, .vnot, .vclz, .vpopc, .vmov, .vfabs, .vfneg, .vfclass, .vredadd, .vredmax, .vredmin, .vrediadd, .vredimax, .vredimin,
        .vunpacklo, .vunpackhi, .vtagrd].map (fun f => (f d a m, lanes))) ++
      ([Instr.vfadd, .vfaddLit, .vfsub, .vfsubLit, .vfmul, .vfmulLit, .vdiv].map (fun f => (f d a b m r, lanes))) ++
      ([Instr.vfma, .vfmaLit, .vfms, .vfnma, .vfnms].map (fun f => (f d a b c m r, lanes))) ++
      ([Instr.vrcp, .vrsq, .vsqrt, .vexp2, .vlog2].map (fun f => (f d a m r, lanes))) ++
      [(.vmadd d a b c m, lanes), (.vmaddLit d a b c m, lanes), (.vbcast d b tag m, lanes), (.vlaneid d m n, lanes), (.vcvt d a p tag m r, lanes),
       (.vcvtsat d a p tag m r, lanes), (.vdqnt4 d a o tag m, lanes),
        (.vqnt4 d a b m, lanes ++ s.laneGroups.map (fun g => .v g (nextReg d))), (.vslide d a b c m, lanes), (.vtagset d a tag m, lanes),
       (.vmpopc d k m, lanes), (.vmfirst d k m, lanes), (.vcmp q a b o m, masks), (.vcmpLit q a b o m, masks), (.vcmpu q a b o m, masks),
       (.vfcmp q a b o m, masks), (.vfcmpLit q a b o m, masks), (.vmsk q k m o, masks), (.vmset q b, masks), (.vmsetNz q a, masks)];
    (i, ds) ∈ rows → exec i s = .next t →
      t.ctx.regs = s.ctx.regs ∧ (∀ f ∈ t.ctx.flights, f ∈ s.ctx.flights ∨ ∀ x ∈ f.w.res, x ∈ ds) ∧
      (let k := t.ctx.csrs;
        k = { s.ctx.csrs with instret := k.instret, ilkcyc := k.ilkcyc, tcause := k.tcause, tepc := k.tepc, tnext := k.tnext, tval := k.tval
                              pprv := k.pprv, pie := k.pie, sbm := k.sbm, intrap := k.intrap, ie := k.ie, prv := k.prv, sbmode := k.sbmode
                              tcause2 := k.tcause2 }) ∧
      t.pkg.hbm = s.pkg.hbm ∧ t.pkg.cellar = s.pkg.cellar ∧ t.core.sram = s.core.sram ∧ t.core.cache = s.core.cache ∧ t.core.mat = s.core.mat ∧
      t.core.queues = s.core.queues) ∧
  (∀ (g : Regs) (w : Write),
    (∀ r, .x r ∉ w.res → (g.apply w).x.get r = g.x.get r) ∧ (∀ r, .f r ∉ w.res → (g.apply w).f.get r = g.f.get r) ∧
    (∀ k r, .v k r ∉ w.res → ((g.apply w).v.get k).get r = (g.v.get k).get r) ∧
    (∀ k r, .m k r ∉ w.res → ((g.apply w).m.get k).get r = (g.m.get k).get r) ∧ (∀ r, .h r ∉ w.res → (g.apply w).h.get r = g.h.get r))

/-- Words that store, whatever comes of their issue: no register changes; a scalar store changes no byte, as a read at core scope
finds it, outside those of its location, where the clean bytes of the cache and of a guest copy are those of the home; and a
lane store of core SRAM changes no byte of it outside the words of its active lanes, and no byte of memory. -/
def Obligations.StoringWordsFrame : Prop :=
  (∀ (s t : State) (w : StoreOp) (a b : Reg) (i : BitVec 12), s.alone .s = true → (∀ y ∈ s.allBanks, y.2.2.seg = none) →
    exec (.scalarStore w a b i) s = .next t →
    let n := StoreOp.bytes w;
    let x := s.seen.access (s.ctx.x a + i.signExtend 64) n .write false;
    (t.sq.banks.get s.sq.running).regs = s.ctx.regs ∧ t.core.sram = s.core.sram ∧ t.core.mat = s.core.mat ∧
    (∀ f ∈ (t.sq.banks.get s.sq.running).flights, f ∈ s.ctx.flights) ∧
    ((∀ y ∈ s.core.cache, y.line % 64 = 0 ∧ y.bytes.length = 64) → (s.core.cache.map (fun y => (y.half, y.line))).Nodup →
      ∀ m, m < x.loc ∨ x.loc + n ≤ m → s.isHbm m = true → s.badLine (lineOf m) = false →
        (∀ y ∈ s.core.cache, y.half = s.cacheHalf → y.line = lineOf m →
          ∀ j < 64, y.dirty.getLsbD j = false → y.bytes.getD j 0 = s.byteAt (y.line + j)) →
        (∀ g, s.guestOf (lineOf m) = some g → ∀ j < 64, g[j]? = some (s.byteAt (lineOf m + j))) →
        (t.peek .core m 1).map (fun r => r.bytes) = (s.peek .core m 1).map (fun r => r.bytes))) ∧
  (∀ (s t : State) (sl : Slot) (d a k : Reg) (m : MReg), s.alone sl = true → s.ctx.seg = none →
    let A (g : Group) : VData := (s.ctx.v g a).data;
    let unit (g : Group) (l : Nat) : Nat := (lane (A g) 0 + 128 * k.val + 4 * l) % 2 ^ 22;
    let stride (g : Group) (l : Nat) : Nat := (((lane (A g) 0 : Int) + 4 * k.val + l * sext 32 (lane (A g) 1)) % 2 ^ 22).toNat;
    let scatter (g : Group) (l : Nat) : Nat := (lane (A g) l + 4 * k.val) % 2 ^ 22;
    ∀ i at_, (i, at_) ∈ [(Instr.vst d a k m, unit), (Instr.vsts d a k m, stride), (Instr.vstsc d a k m, scatter)] → exec i s = .next t →
      t.ctx.regs = s.ctx.regs ∧ t.pkg.hbm = s.pkg.hbm ∧ t.pkg.cellar = s.pkg.cellar ∧ t.core.cache = s.core.cache ∧ t.core.mat = s.core.mat ∧
      (∀ f ∈ t.ctx.flights, f ∈ s.ctx.flights) ∧
      ∀ x, (∀ g ∈ s.laneGroups, ∀ l < 32, activeLane ((s.ctx.v g d).tag == .fp64) (s.ctx.m g m) l = true → x < at_ g l ∨ at_ g l + 4 ≤ x) →
        t.core.sram.get x = s.core.sram.get x)

/-- Every step keeps memory in canonical form: HBM, cellar memory and core SRAM list addresses in rising order, and no byte that is
zero. That an unlisted byte reads 0 is the model's for core SRAM and cellar (log 4). -/
def Obligations.EveryStepKeepsMemoryForm : Prop :=
  ∀ s t : State, s.memWf = true → step s = .next t → t.memWf = true

/-- What reset leaves, as the spec gives it: every core in protected mode with no context bound and every bank in CACHE mode,
nothing in the queues, memory zero in canonical form, and the device registers at their reset values. That no bin is configured
at reset is the model's (log 3). -/
def Obligations.ResetState : Prop :=
  State.reset.memWf = true ∧ State.reset.pkg.hbm = [] ∧ State.reset.core.split = false ∧
  (∀ (h : Half) (b : Fin 2), ((State.reset.seqOf h).banks.get b).status = .free) ∧ (∀ b : Fin 64, State.reset.core.bankMode.get b = .cache) ∧
  (∀ q : Fin 2, (State.reset.core.queues.get q).cmds = []) ∧ (∀ b : Fin 8, State.reset.core.mat.bins.get b = Bin.reset) ∧
  State.reset.cmode = 0 ∧ State.reset.core.atticcfg = 0 ∧
  State.reset.dev 0x010 = 1 ∧ State.reset.dev 0x018 = 0 ∧ State.reset.dev 0x028 = 100 ∧ State.reset.dev (devSched 0 8) = 6 ∧
  State.reset.dev (devPower 0) = 5000 ∧ State.reset.mhz 0 = 2500 ∧ State.reset.dev (devRing 8) = 8 ∧
  State.reset.dev (devCapture 0 0 0) = 0xFFFF00 ∧ State.reset.dev (devCapture 0 0 8) = 0xFFFFFFFFFFFFFFFF ∧
  State.reset.dev (devRel 0 0x20) = 50 ∧ (State.reset.dev (devRel 0 0)).toNat = 2 ^ 63 + 1000 ∧
  (State.reset.dev (devPort 0 0)).getLsbD 61 = true ∧ bitsOf (State.reset.dev (devPort 0 0)) 0 17 = 0x1FFFF
end

