-- ==== Sys2Proof/Laws/State.lean ====
section
/-! SUPPORT. What each update of the state leaves and gives, field by field: no later proof unfolds a record update. -/

namespace Sys2Proof.Machine

/-! ## Updates of a sequencer -/

theorem vget_eq {α : Type} {n : Nat} (v : Vector α n) (i : Fin n) : v.get i = v[i.val] := rfl

@[simp] theorem State.modSeq_core_active (h : Half) (g : Seq → Seq) (s : State) : (s.modSeq h g).core.active = s.core.active := by cases h <;> rfl
@[simp] theorem State.modSeq_core_split (h : Half) (g : Seq → Seq) (s : State) : (s.modSeq h g).core.split = s.core.split := by cases h <;> rfl
@[simp] theorem State.modSeq_core_splitPend (h : Half) (g : Seq → Seq) (s : State) : (s.modSeq h g).core.splitPend = s.core.splitPend := by cases h <;> rfl
@[simp] theorem State.modSeq_core_splitErr (h : Half) (g : Seq → Seq) (s : State) : (s.modSeq h g).core.splitErr = s.core.splitErr := by cases h <;> rfl
@[simp] theorem State.modSeq_core_atticcfg (h : Half) (g : Seq → Seq) (s : State) : (s.modSeq h g).core.atticcfg = s.core.atticcfg := by cases h <;> rfl
@[simp] theorem State.modSeq_core_mat (h : Half) (g : Seq → Seq) (s : State) : (s.modSeq h g).core.mat = s.core.mat := by cases h <;> rfl
@[simp] theorem State.modSeq_core_matHolder (h : Half) (g : Seq → Seq) (s : State) : (s.modSeq h g).core.matHolder = s.core.matHolder := by cases h <;> rfl
@[simp] theorem State.modSeq_core_matSaved (h : Half) (g : Seq → Seq) (s : State) : (s.modSeq h g).core.matSaved = s.core.matSaved := by cases h <;> rfl
@[simp] theorem State.modSeq_core_sram (h : Half) (g : Seq → Seq) (s : State) : (s.modSeq h g).core.sram = s.core.sram := by cases h <;> rfl
@[simp] theorem State.modSeq_core_sramBad (h : Half) (g : Seq → Seq) (s : State) : (s.modSeq h g).core.sramBad = s.core.sramBad := by cases h <;> rfl
@[simp] theorem State.modSeq_core_bankMode (h : Half) (g : Seq → Seq) (s : State) : (s.modSeq h g).core.bankMode = s.core.bankMode := by cases h <;> rfl
@[simp] theorem State.modSeq_core_cache (h : Half) (g : Seq → Seq) (s : State) : (s.modSeq h g).core.cache = s.core.cache := by cases h <;> rfl
@[simp] theorem State.modSeq_core_ranges (h : Half) (g : Seq → Seq) (s : State) : (s.modSeq h g).core.ranges = s.core.ranges := by cases h <;> rfl
@[simp] theorem State.modSeq_core_queues (h : Half) (g : Seq → Seq) (s : State) : (s.modSeq h g).core.queues = s.core.queues := by cases h <;> rfl
@[simp] theorem State.modSeq_core_l1i (h : Half) (g : Seq → Seq) (s : State) : (s.modSeq h g).core.l1i = s.core.l1i := by cases h <;> rfl
@[simp] theorem State.modSeq_core_fsw (h : Half) (g : Seq → Seq) (s : State) : (s.modSeq h g).core.fsw = s.core.fsw := by cases h <;> rfl
@[simp] theorem State.modSeq_core_images (h : Half) (g : Seq → Seq) (s : State) : (s.modSeq h g).core.images = s.core.images := by cases h <;> rfl
@[simp] theorem State.modSeq_core_idents (h : Half) (g : Seq → Seq) (s : State) : (s.modSeq h g).core.idents = s.core.idents := by cases h <;> rfl
@[simp] theorem State.modSeq_core_cur (h : Half) (g : Seq → Seq) (s : State) : (s.modSeq h g).core.cur = s.core.cur := by cases h <;> rfl
@[simp] theorem State.modSeq_pkg (h : Half) (g : Seq → Seq) (s : State) : (s.modSeq h g).pkg = s.pkg := by cases h <;> rfl
@[simp] theorem State.modSeq_coreId (h : Half) (g : Seq → Seq) (s : State) : (s.modSeq h g).coreId = s.coreId := by cases h <;> rfl
@[simp] theorem State.modSeq_agenda (h : Half) (g : Seq → Seq) (s : State) : (s.modSeq h g).agenda = s.agenda := by cases h <;> rfl
@[simp] theorem State.modSeq_out (h : Half) (g : Seq → Seq) (s : State) : (s.modSeq h g).out = s.out := by cases h <;> rfl
@[simp] theorem State.modSeq_fresh (h : Half) (g : Seq → Seq) (s : State) : (s.modSeq h g).fresh = s.fresh := by cases h <;> rfl
@[simp] theorem State.modSeq_turn (h : Half) (g : Seq → Seq) (s : State) : (s.modSeq h g).turn = s.turn := by cases h <;> rfl
@[simp] theorem State.modSeq_seqOf (h : Half) (g : Seq → Seq) (s : State) : (s.modSeq h g).seqOf h = g (s.seqOf h) := by cases h <;> rfl
theorem State.modSeq_other (h k : Half) (g : Seq → Seq) (s : State) (e : h ≠ k) : (s.modSeq h g).seqOf k = s.seqOf k := by
  cases h <;> cases k <;> first | rfl | exact absurd rfl e

/-! ## Updates of the active sequencer, of its running context and of that context's registers -/

@[simp] theorem State.modSq_core_active (g : Seq → Seq) (s : State) : (s.modSq g).core.active = s.core.active := by simp [State.modSq]
@[simp] theorem State.modSq_core_split (g : Seq → Seq) (s : State) : (s.modSq g).core.split = s.core.split := by simp [State.modSq]
@[simp] theorem State.modSq_core_splitPend (g : Seq → Seq) (s : State) : (s.modSq g).core.splitPend = s.core.splitPend := by simp [State.modSq]
@[simp] theorem State.modSq_core_splitErr (g : Seq → Seq) (s : State) : (s.modSq g).core.splitErr = s.core.splitErr := by simp [State.modSq]
@[simp] theorem State.modSq_core_atticcfg (g : Seq → Seq) (s : State) : (s.modSq g).core.atticcfg = s.core.atticcfg := by simp [State.modSq]
@[simp] theorem State.modSq_core_mat (g : Seq → Seq) (s : State) : (s.modSq g).core.mat = s.core.mat := by simp [State.modSq]
@[simp] theorem State.modSq_core_matHolder (g : Seq → Seq) (s : State) : (s.modSq g).core.matHolder = s.core.matHolder := by simp [State.modSq]
@[simp] theorem State.modSq_core_matSaved (g : Seq → Seq) (s : State) : (s.modSq g).core.matSaved = s.core.matSaved := by simp [State.modSq]
@[simp] theorem State.modSq_core_sram (g : Seq → Seq) (s : State) : (s.modSq g).core.sram = s.core.sram := by simp [State.modSq]
@[simp] theorem State.modSq_core_sramBad (g : Seq → Seq) (s : State) : (s.modSq g).core.sramBad = s.core.sramBad := by simp [State.modSq]
@[simp] theorem State.modSq_core_bankMode (g : Seq → Seq) (s : State) : (s.modSq g).core.bankMode = s.core.bankMode := by simp [State.modSq]
@[simp] theorem State.modSq_core_cache (g : Seq → Seq) (s : State) : (s.modSq g).core.cache = s.core.cache := by simp [State.modSq]
@[simp] theorem State.modSq_core_ranges (g : Seq → Seq) (s : State) : (s.modSq g).core.ranges = s.core.ranges := by simp [State.modSq]
@[simp] theorem State.modSq_core_queues (g : Seq → Seq) (s : State) : (s.modSq g).core.queues = s.core.queues := by simp [State.modSq]
@[simp] theorem State.modSq_core_l1i (g : Seq → Seq) (s : State) : (s.modSq g).core.l1i = s.core.l1i := by simp [State.modSq]
@[simp] theorem State.modSq_core_fsw (g : Seq → Seq) (s : State) : (s.modSq g).core.fsw = s.core.fsw := by simp [State.modSq]
@[simp] theorem State.modSq_core_images (g : Seq → Seq) (s : State) : (s.modSq g).core.images = s.core.images := by simp [State.modSq]
@[simp] theorem State.modSq_core_idents (g : Seq → Seq) (s : State) : (s.modSq g).core.idents = s.core.idents := by simp [State.modSq]
@[simp] theorem State.modSq_core_cur (g : Seq → Seq) (s : State) : (s.modSq g).core.cur = s.core.cur := by simp [State.modSq]
@[simp] theorem State.modSq_pkg (g : Seq → Seq) (s : State) : (s.modSq g).pkg = s.pkg := by simp [State.modSq]
@[simp] theorem State.modSq_coreId (g : Seq → Seq) (s : State) : (s.modSq g).coreId = s.coreId := by simp [State.modSq]
@[simp] theorem State.modSq_agenda (g : Seq → Seq) (s : State) : (s.modSq g).agenda = s.agenda := by simp [State.modSq]
@[simp] theorem State.modSq_out (g : Seq → Seq) (s : State) : (s.modSq g).out = s.out := by simp [State.modSq]
@[simp] theorem State.modSq_fresh (g : Seq → Seq) (s : State) : (s.modSq g).fresh = s.fresh := by simp [State.modSq]
@[simp] theorem State.modSq_turn (g : Seq → Seq) (s : State) : (s.modSq g).turn = s.turn := by simp [State.modSq]
@[simp] theorem State.modCtx_core_active (g : Ctx → Ctx) (s : State) : (s.modCtx g).core.active = s.core.active := by simp [State.modCtx]
@[simp] theorem State.modCtx_core_split (g : Ctx → Ctx) (s : State) : (s.modCtx g).core.split = s.core.split := by simp [State.modCtx]
@[simp] theorem State.modCtx_core_splitPend (g : Ctx → Ctx) (s : State) : (s.modCtx g).core.splitPend = s.core.splitPend := by simp [State.modCtx]
@[simp] theorem State.modCtx_core_splitErr (g : Ctx → Ctx) (s : State) : (s.modCtx g).core.splitErr = s.core.splitErr := by simp [State.modCtx]
@[simp] theorem State.modCtx_core_atticcfg (g : Ctx → Ctx) (s : State) : (s.modCtx g).core.atticcfg = s.core.atticcfg := by simp [State.modCtx]
@[simp] theorem State.modCtx_core_mat (g : Ctx → Ctx) (s : State) : (s.modCtx g).core.mat = s.core.mat := by simp [State.modCtx]
@[simp] theorem State.modCtx_core_matHolder (g : Ctx → Ctx) (s : State) : (s.modCtx g).core.matHolder = s.core.matHolder := by simp [State.modCtx]
@[simp] theorem State.modCtx_core_matSaved (g : Ctx → Ctx) (s : State) : (s.modCtx g).core.matSaved = s.core.matSaved := by simp [State.modCtx]
@[simp] theorem State.modCtx_core_sram (g : Ctx → Ctx) (s : State) : (s.modCtx g).core.sram = s.core.sram := by simp [State.modCtx]
@[simp] theorem State.modCtx_core_sramBad (g : Ctx → Ctx) (s : State) : (s.modCtx g).core.sramBad = s.core.sramBad := by simp [State.modCtx]
@[simp] theorem State.modCtx_core_bankMode (g : Ctx → Ctx) (s : State) : (s.modCtx g).core.bankMode = s.core.bankMode := by simp [State.modCtx]
@[simp] theorem State.modCtx_core_cache (g : Ctx → Ctx) (s : State) : (s.modCtx g).core.cache = s.core.cache := by simp [State.modCtx]
@[simp] theorem State.modCtx_core_ranges (g : Ctx → Ctx) (s : State) : (s.modCtx g).core.ranges = s.core.ranges := by simp [State.modCtx]
@[simp] theorem State.modCtx_core_queues (g : Ctx → Ctx) (s : State) : (s.modCtx g).core.queues = s.core.queues := by simp [State.modCtx]
@[simp] theorem State.modCtx_core_l1i (g : Ctx → Ctx) (s : State) : (s.modCtx g).core.l1i = s.core.l1i := by simp [State.modCtx]
@[simp] theorem State.modCtx_core_fsw (g : Ctx → Ctx) (s : State) : (s.modCtx g).core.fsw = s.core.fsw := by simp [State.modCtx]
@[simp] theorem State.modCtx_core_images (g : Ctx → Ctx) (s : State) : (s.modCtx g).core.images = s.core.images := by simp [State.modCtx]
@[simp] theorem State.modCtx_core_idents (g : Ctx → Ctx) (s : State) : (s.modCtx g).core.idents = s.core.idents := by simp [State.modCtx]
@[simp] theorem State.modCtx_core_cur (g : Ctx → Ctx) (s : State) : (s.modCtx g).core.cur = s.core.cur := by simp [State.modCtx]
@[simp] theorem State.modCtx_pkg (g : Ctx → Ctx) (s : State) : (s.modCtx g).pkg = s.pkg := by simp [State.modCtx]
@[simp] theorem State.modCtx_coreId (g : Ctx → Ctx) (s : State) : (s.modCtx g).coreId = s.coreId := by simp [State.modCtx]
@[simp] theorem State.modCtx_agenda (g : Ctx → Ctx) (s : State) : (s.modCtx g).agenda = s.agenda := by simp [State.modCtx]
@[simp] theorem State.modCtx_out (g : Ctx → Ctx) (s : State) : (s.modCtx g).out = s.out := by simp [State.modCtx]
@[simp] theorem State.modCtx_fresh (g : Ctx → Ctx) (s : State) : (s.modCtx g).fresh = s.fresh := by simp [State.modCtx]
@[simp] theorem State.modCtx_turn (g : Ctx → Ctx) (s : State) : (s.modCtx g).turn = s.turn := by simp [State.modCtx]
@[simp] theorem State.modCsrs_core_active (g : Csrs → Csrs) (s : State) : (s.modCsrs g).core.active = s.core.active := by simp [State.modCsrs]
@[simp] theorem State.modCsrs_core_split (g : Csrs → Csrs) (s : State) : (s.modCsrs g).core.split = s.core.split := by simp [State.modCsrs]
@[simp] theorem State.modCsrs_core_splitPend (g : Csrs → Csrs) (s : State) : (s.modCsrs g).core.splitPend = s.core.splitPend := by simp [State.modCsrs]
@[simp] theorem State.modCsrs_core_splitErr (g : Csrs → Csrs) (s : State) : (s.modCsrs g).core.splitErr = s.core.splitErr := by simp [State.modCsrs]
@[simp] theorem State.modCsrs_core_atticcfg (g : Csrs → Csrs) (s : State) : (s.modCsrs g).core.atticcfg = s.core.atticcfg := by simp [State.modCsrs]
@[simp] theorem State.modCsrs_core_mat (g : Csrs → Csrs) (s : State) : (s.modCsrs g).core.mat = s.core.mat := by simp [State.modCsrs]
@[simp] theorem State.modCsrs_core_matHolder (g : Csrs → Csrs) (s : State) : (s.modCsrs g).core.matHolder = s.core.matHolder := by simp [State.modCsrs]
@[simp] theorem State.modCsrs_core_matSaved (g : Csrs → Csrs) (s : State) : (s.modCsrs g).core.matSaved = s.core.matSaved := by simp [State.modCsrs]
@[simp] theorem State.modCsrs_core_sram (g : Csrs → Csrs) (s : State) : (s.modCsrs g).core.sram = s.core.sram := by simp [State.modCsrs]
@[simp] theorem State.modCsrs_core_sramBad (g : Csrs → Csrs) (s : State) : (s.modCsrs g).core.sramBad = s.core.sramBad := by simp [State.modCsrs]
@[simp] theorem State.modCsrs_core_bankMode (g : Csrs → Csrs) (s : State) : (s.modCsrs g).core.bankMode = s.core.bankMode := by simp [State.modCsrs]
@[simp] theorem State.modCsrs_core_cache (g : Csrs → Csrs) (s : State) : (s.modCsrs g).core.cache = s.core.cache := by simp [State.modCsrs]
@[simp] theorem State.modCsrs_core_ranges (g : Csrs → Csrs) (s : State) : (s.modCsrs g).core.ranges = s.core.ranges := by simp [State.modCsrs]
@[simp] theorem State.modCsrs_core_queues (g : Csrs → Csrs) (s : State) : (s.modCsrs g).core.queues = s.core.queues := by simp [State.modCsrs]
@[simp] theorem State.modCsrs_core_l1i (g : Csrs → Csrs) (s : State) : (s.modCsrs g).core.l1i = s.core.l1i := by simp [State.modCsrs]
@[simp] theorem State.modCsrs_core_fsw (g : Csrs → Csrs) (s : State) : (s.modCsrs g).core.fsw = s.core.fsw := by simp [State.modCsrs]
@[simp] theorem State.modCsrs_core_images (g : Csrs → Csrs) (s : State) : (s.modCsrs g).core.images = s.core.images := by simp [State.modCsrs]
@[simp] theorem State.modCsrs_core_idents (g : Csrs → Csrs) (s : State) : (s.modCsrs g).core.idents = s.core.idents := by simp [State.modCsrs]
@[simp] theorem State.modCsrs_core_cur (g : Csrs → Csrs) (s : State) : (s.modCsrs g).core.cur = s.core.cur := by simp [State.modCsrs]
@[simp] theorem State.modCsrs_pkg (g : Csrs → Csrs) (s : State) : (s.modCsrs g).pkg = s.pkg := by simp [State.modCsrs]
@[simp] theorem State.modCsrs_coreId (g : Csrs → Csrs) (s : State) : (s.modCsrs g).coreId = s.coreId := by simp [State.modCsrs]
@[simp] theorem State.modCsrs_agenda (g : Csrs → Csrs) (s : State) : (s.modCsrs g).agenda = s.agenda := by simp [State.modCsrs]
@[simp] theorem State.modCsrs_out (g : Csrs → Csrs) (s : State) : (s.modCsrs g).out = s.out := by simp [State.modCsrs]
@[simp] theorem State.modCsrs_fresh (g : Csrs → Csrs) (s : State) : (s.modCsrs g).fresh = s.fresh := by simp [State.modCsrs]
@[simp] theorem State.modCsrs_turn (g : Csrs → Csrs) (s : State) : (s.modCsrs g).turn = s.turn := by simp [State.modCsrs]
@[simp] theorem State.modRegs_core_active (g : Regs → Regs) (s : State) : (s.modRegs g).core.active = s.core.active := by simp [State.modRegs]
@[simp] theorem State.modRegs_core_split (g : Regs → Regs) (s : State) : (s.modRegs g).core.split = s.core.split := by simp [State.modRegs]
@[simp] theorem State.modRegs_core_splitPend (g : Regs → Regs) (s : State) : (s.modRegs g).core.splitPend = s.core.splitPend := by simp [State.modRegs]
@[simp] theorem State.modRegs_core_splitErr (g : Regs → Regs) (s : State) : (s.modRegs g).core.splitErr = s.core.splitErr := by simp [State.modRegs]
@[simp] theorem State.modRegs_core_atticcfg (g : Regs → Regs) (s : State) : (s.modRegs g).core.atticcfg = s.core.atticcfg := by simp [State.modRegs]
@[simp] theorem State.modRegs_core_mat (g : Regs → Regs) (s : State) : (s.modRegs g).core.mat = s.core.mat := by simp [State.modRegs]
@[simp] theorem State.modRegs_core_matHolder (g : Regs → Regs) (s : State) : (s.modRegs g).core.matHolder = s.core.matHolder := by simp [State.modRegs]
@[simp] theorem State.modRegs_core_matSaved (g : Regs → Regs) (s : State) : (s.modRegs g).core.matSaved = s.core.matSaved := by simp [State.modRegs]
@[simp] theorem State.modRegs_core_sram (g : Regs → Regs) (s : State) : (s.modRegs g).core.sram = s.core.sram := by simp [State.modRegs]
@[simp] theorem State.modRegs_core_sramBad (g : Regs → Regs) (s : State) : (s.modRegs g).core.sramBad = s.core.sramBad := by simp [State.modRegs]
@[simp] theorem State.modRegs_core_bankMode (g : Regs → Regs) (s : State) : (s.modRegs g).core.bankMode = s.core.bankMode := by simp [State.modRegs]
@[simp] theorem State.modRegs_core_cache (g : Regs → Regs) (s : State) : (s.modRegs g).core.cache = s.core.cache := by simp [State.modRegs]
@[simp] theorem State.modRegs_core_ranges (g : Regs → Regs) (s : State) : (s.modRegs g).core.ranges = s.core.ranges := by simp [State.modRegs]
@[simp] theorem State.modRegs_core_queues (g : Regs → Regs) (s : State) : (s.modRegs g).core.queues = s.core.queues := by simp [State.modRegs]
@[simp] theorem State.modRegs_core_l1i (g : Regs → Regs) (s : State) : (s.modRegs g).core.l1i = s.core.l1i := by simp [State.modRegs]
@[simp] theorem State.modRegs_core_fsw (g : Regs → Regs) (s : State) : (s.modRegs g).core.fsw = s.core.fsw := by simp [State.modRegs]
@[simp] theorem State.modRegs_core_images (g : Regs → Regs) (s : State) : (s.modRegs g).core.images = s.core.images := by simp [State.modRegs]
@[simp] theorem State.modRegs_core_idents (g : Regs → Regs) (s : State) : (s.modRegs g).core.idents = s.core.idents := by simp [State.modRegs]
@[simp] theorem State.modRegs_core_cur (g : Regs → Regs) (s : State) : (s.modRegs g).core.cur = s.core.cur := by simp [State.modRegs]
@[simp] theorem State.modRegs_pkg (g : Regs → Regs) (s : State) : (s.modRegs g).pkg = s.pkg := by simp [State.modRegs]
@[simp] theorem State.modRegs_coreId (g : Regs → Regs) (s : State) : (s.modRegs g).coreId = s.coreId := by simp [State.modRegs]
@[simp] theorem State.modRegs_agenda (g : Regs → Regs) (s : State) : (s.modRegs g).agenda = s.agenda := by simp [State.modRegs]
@[simp] theorem State.modRegs_out (g : Regs → Regs) (s : State) : (s.modRegs g).out = s.out := by simp [State.modRegs]
@[simp] theorem State.modRegs_fresh (g : Regs → Regs) (s : State) : (s.modRegs g).fresh = s.fresh := by simp [State.modRegs]
@[simp] theorem State.modRegs_turn (g : Regs → Regs) (s : State) : (s.modRegs g).turn = s.turn := by simp [State.modRegs]

@[simp] theorem State.modSq_sq (g : Seq → Seq) (s : State) : (s.modSq g).sq = g s.sq := by simp [State.sq, State.modSq]
@[simp] theorem Seq.modBank_get (b : Fin 2) (g : Ctx → Ctx) (q : Seq) : (q.modBank b g).banks.get b = g (q.banks.get b) := by
  simp [Seq.modBank, vget_eq]
theorem Seq.modBank_get_other (b k : Fin 2) (g : Ctx → Ctx) (q : Seq) (e : b ≠ k) : (q.modBank b g).banks.get k = q.banks.get k := by
  have h : b.val ≠ k.val := fun x => e (Fin.ext x)
  simp [Seq.modBank, vget_eq, Vector.getElem_set, h]
@[simp] theorem Seq.modBank_running (b : Fin 2) (g : Ctx → Ctx) (q : Seq) : (q.modBank b g).running = q.running := rfl
@[simp] theorem Seq.modCtx_ctx (g : Ctx → Ctx) (q : Seq) : (q.modCtx g).ctx = g q.ctx := by simp [Seq.modCtx, Seq.ctx]
@[simp] theorem Seq.modCtx_running (g : Ctx → Ctx) (q : Seq) : (q.modCtx g).running = q.running := rfl
@[simp] theorem Seq.modCtx_cycle (g : Ctx → Ctx) (q : Seq) : (q.modCtx g).cycle = q.cycle := rfl
@[simp] theorem Seq.modCtx_frzcyc (g : Ctx → Ctx) (q : Seq) : (q.modCtx g).frzcyc = q.frzcyc := rfl
@[simp] theorem Seq.modCtx_evdrop (g : Ctx → Ctx) (q : Seq) : (q.modCtx g).evdrop = q.evdrop := rfl
@[simp] theorem Seq.modCtx_binwd (g : Ctx → Ctx) (q : Seq) : (q.modCtx g).binwd = q.binwd := rfl
@[simp] theorem Seq.modCtx_engStatus (g : Ctx → Ctx) (q : Seq) : (q.modCtx g).engStatus = q.engStatus := rfl
@[simp] theorem Seq.modCtx_engLoad (g : Ctx → Ctx) (q : Seq) : (q.modCtx g).engLoad = q.engLoad := rfl
@[simp] theorem Seq.modCtx_engOp (g : Ctx → Ctx) (q : Seq) : (q.modCtx g).engOp = q.engOp := rfl
@[simp] theorem Seq.modCtx_loadStatus (g : Ctx → Ctx) (q : Seq) : (q.modCtx g).loadStatus = q.loadStatus := rfl
@[simp] theorem Seq.modCtx_hold (g : Ctx → Ctx) (q : Seq) : (q.modCtx g).hold = q.hold := rfl
@[simp] theorem Seq.modCtx_waited (g : Ctx → Ctx) (q : Seq) : (q.modCtx g).waited = q.waited := rfl
@[simp] theorem Seq.modCtx_ibuf (g : Ctx → Ctx) (q : Seq) : (q.modCtx g).ibuf = q.ibuf := rfl
@[simp] theorem Seq.modCtx_man (g : Ctx → Ctx) (q : Seq) : (q.modCtx g).man = q.man := rfl
@[simp] theorem Seq.modCtx_events (g : Ctx → Ctx) (q : Seq) : (q.modCtx g).events = q.events := rfl
@[simp] theorem Seq.modCtx_now (g : Ctx → Ctx) (q : Seq) : (q.modCtx g).now = q.now := rfl
@[simp] theorem State.modCtx_sq (g : Ctx → Ctx) (s : State) : (s.modCtx g).sq = s.sq.modCtx g := by simp [State.modCtx]
@[simp] theorem State.modCtx_ctx (g : Ctx → Ctx) (s : State) : (s.modCtx g).ctx = g s.ctx := by simp [State.ctx]
@[simp] theorem State.modCsrs_ctx (g : Csrs → Csrs) (s : State) : (s.modCsrs g).ctx = { s.ctx with csrs := g s.ctx.csrs } := by
  simp [State.modCsrs]
@[simp] theorem State.modRegs_ctx (g : Regs → Regs) (s : State) : (s.modRegs g).ctx = { s.ctx with regs := g s.ctx.regs } := by
  simp [State.modRegs]
@[simp] theorem State.modSq_ctx (g : Seq → Seq) (s : State) : (s.modSq g).ctx = (g s.sq).ctx := by simp [State.ctx]

/-! ## Updates of the package, of what leaves it and of the draws -/

@[simp] theorem State.modPkg_core (g : Pkg → Pkg) (s : State) : (s.modPkg g).core = s.core := rfl
@[simp] theorem State.modPkg_sq (g : Pkg → Pkg) (s : State) : (s.modPkg g).sq = s.sq := rfl
@[simp] theorem State.modPkg_ctx (g : Pkg → Pkg) (s : State) : (s.modPkg g).ctx = s.ctx := rfl
@[simp] theorem State.modPkg_coreId (g : Pkg → Pkg) (s : State) : (s.modPkg g).coreId = s.coreId := rfl
@[simp] theorem State.modPkg_agenda (g : Pkg → Pkg) (s : State) : (s.modPkg g).agenda = s.agenda := rfl
@[simp] theorem State.modPkg_out (g : Pkg → Pkg) (s : State) : (s.modPkg g).out = s.out := rfl
@[simp] theorem State.modPkg_fresh (g : Pkg → Pkg) (s : State) : (s.modPkg g).fresh = s.fresh := rfl
@[simp] theorem State.modPkg_turn (g : Pkg → Pkg) (s : State) : (s.modPkg g).turn = s.turn := rfl
@[simp] theorem State.emit_core (x : Out) (s : State) : (s.emit x).core = s.core := rfl
@[simp] theorem State.emit_sq (x : Out) (s : State) : (s.emit x).sq = s.sq := rfl
@[simp] theorem State.emit_ctx (x : Out) (s : State) : (s.emit x).ctx = s.ctx := rfl
@[simp] theorem State.emit_pkg (x : Out) (s : State) : (s.emit x).pkg = s.pkg := rfl
@[simp] theorem State.emit_coreId (x : Out) (s : State) : (s.emit x).coreId = s.coreId := rfl
@[simp] theorem State.emit_agenda (x : Out) (s : State) : (s.emit x).agenda = s.agenda := rfl
@[simp] theorem State.emit_fresh (x : Out) (s : State) : (s.emit x).fresh = s.fresh := rfl
@[simp] theorem State.emit_turn (x : Out) (s : State) : (s.emit x).turn = s.turn := rfl
@[simp] theorem State.drawn_core  (s : State) : (s.drawn).core = s.core := rfl
@[simp] theorem State.drawn_sq  (s : State) : (s.drawn).sq = s.sq := rfl
@[simp] theorem State.drawn_ctx  (s : State) : (s.drawn).ctx = s.ctx := rfl
@[simp] theorem State.drawn_pkg  (s : State) : (s.drawn).pkg = s.pkg := rfl
@[simp] theorem State.drawn_coreId  (s : State) : (s.drawn).coreId = s.coreId := rfl
@[simp] theorem State.drawn_agenda  (s : State) : (s.drawn).agenda = s.agenda := rfl
@[simp] theorem State.drawn_out  (s : State) : (s.drawn).out = s.out := rfl
@[simp] theorem State.drawn_turn  (s : State) : (s.drawn).turn = s.turn := rfl
@[simp] theorem State.modPkg_pkg (g : Pkg → Pkg) (s : State) : (s.modPkg g).pkg = g s.pkg := rfl
@[simp] theorem State.emit_out (x : Out) (s : State) : (s.emit x).out = s.out ++ [x] := rfl
@[simp] theorem State.drawn_fresh (s : State) : s.drawn.fresh = s.fresh + 1 := rfl

/-! ## Updates of the core -/

@[simp] theorem State.modCore_core (g : Core → Core) (s : State) : (s.modCore g).core = g s.core := rfl
@[simp] theorem State.modCore_pkg (g : Core → Core) (s : State) : (s.modCore g).pkg = s.pkg := rfl
@[simp] theorem State.modCore_coreId (g : Core → Core) (s : State) : (s.modCore g).coreId = s.coreId := rfl
@[simp] theorem State.modCore_agenda (g : Core → Core) (s : State) : (s.modCore g).agenda = s.agenda := rfl
@[simp] theorem State.modCore_out (g : Core → Core) (s : State) : (s.modCore g).out = s.out := rfl
@[simp] theorem State.modCore_fresh (g : Core → Core) (s : State) : (s.modCore g).fresh = s.fresh := rfl
@[simp] theorem State.modCore_turn (g : Core → Core) (s : State) : (s.modCore g).turn = s.turn := rfl
@[simp] theorem State.modMat_mat (g : Matrix → Matrix) (s : State) : (s.modMat g).core.mat = g s.core.mat := rfl
@[simp] theorem State.modMat_core_active (g : Matrix → Matrix) (s : State) : (s.modMat g).core.active = s.core.active := rfl
@[simp] theorem State.modMat_core_split (g : Matrix → Matrix) (s : State) : (s.modMat g).core.split = s.core.split := rfl
@[simp] theorem State.modMat_core_splitPend (g : Matrix → Matrix) (s : State) : (s.modMat g).core.splitPend = s.core.splitPend := rfl
@[simp] theorem State.modMat_core_splitErr (g : Matrix → Matrix) (s : State) : (s.modMat g).core.splitErr = s.core.splitErr := rfl
@[simp] theorem State.modMat_core_atticcfg (g : Matrix → Matrix) (s : State) : (s.modMat g).core.atticcfg = s.core.atticcfg := rfl
@[simp] theorem State.modMat_core_matHolder (g : Matrix → Matrix) (s : State) : (s.modMat g).core.matHolder = s.core.matHolder := rfl
@[simp] theorem State.modMat_core_matSaved (g : Matrix → Matrix) (s : State) : (s.modMat g).core.matSaved = s.core.matSaved := rfl
@[simp] theorem State.modMat_core_sram (g : Matrix → Matrix) (s : State) : (s.modMat g).core.sram = s.core.sram := rfl
@[simp] theorem State.modMat_core_sramBad (g : Matrix → Matrix) (s : State) : (s.modMat g).core.sramBad = s.core.sramBad := rfl
@[simp] theorem State.modMat_core_bankMode (g : Matrix → Matrix) (s : State) : (s.modMat g).core.bankMode = s.core.bankMode := rfl
@[simp] theorem State.modMat_core_cache (g : Matrix → Matrix) (s : State) : (s.modMat g).core.cache = s.core.cache := rfl
@[simp] theorem State.modMat_core_ranges (g : Matrix → Matrix) (s : State) : (s.modMat g).core.ranges = s.core.ranges := rfl
@[simp] theorem State.modMat_core_queues (g : Matrix → Matrix) (s : State) : (s.modMat g).core.queues = s.core.queues := rfl
@[simp] theorem State.modMat_core_l1i (g : Matrix → Matrix) (s : State) : (s.modMat g).core.l1i = s.core.l1i := rfl
@[simp] theorem State.modMat_core_fsw (g : Matrix → Matrix) (s : State) : (s.modMat g).core.fsw = s.core.fsw := rfl
@[simp] theorem State.modMat_core_images (g : Matrix → Matrix) (s : State) : (s.modMat g).core.images = s.core.images := rfl
@[simp] theorem State.modMat_core_idents (g : Matrix → Matrix) (s : State) : (s.modMat g).core.idents = s.core.idents := rfl
@[simp] theorem State.modMat_core_cur (g : Matrix → Matrix) (s : State) : (s.modMat g).core.cur = s.core.cur := rfl
@[simp] theorem State.modMat_pkg (g : Matrix → Matrix) (s : State) : (s.modMat g).pkg = s.pkg := rfl
@[simp] theorem State.modMat_coreId (g : Matrix → Matrix) (s : State) : (s.modMat g).coreId = s.coreId := rfl
@[simp] theorem State.modMat_agenda (g : Matrix → Matrix) (s : State) : (s.modMat g).agenda = s.agenda := rfl
@[simp] theorem State.modMat_out (g : Matrix → Matrix) (s : State) : (s.modMat g).out = s.out := rfl
@[simp] theorem State.modMat_fresh (g : Matrix → Matrix) (s : State) : (s.modMat g).fresh = s.fresh := rfl
@[simp] theorem State.modMat_turn (g : Matrix → Matrix) (s : State) : (s.modMat g).turn = s.turn := rfl
@[simp] theorem State.modMat_sq (g : Matrix → Matrix) (s : State) : (s.modMat g).sq = s.sq := rfl
@[simp] theorem State.modMat_ctx (g : Matrix → Matrix) (s : State) : (s.modMat g).ctx = s.ctx := rfl

/-! ## Registers -/

@[simp] theorem Ctx.x_zero (c : Ctx) : c.x 0 = 0 := rfl
@[simp] theorem Ctx.m_zero (c : Ctx) (g : Group) : c.m g 0 = 0xFFFFFFFF := rfl
theorem vset_get {α : Type} {n : Nat} (v : Vector α n) (i j : Fin n) (x : α) :
    (vset v i x).get j = if i = j then x else v.get j := by
  simp [vset, vget_eq, Vector.getElem_set, Fin.ext_iff]
theorem vmod_get {α : Type} {n : Nat} (v : Vector α n) (i j : Fin n) (f : α → α) :
    (vmod v i f).get j = if i = j then f (v.get i) else v.get j := by simp [vmod, vset_get]
theorem Regs.setX_x (r d : Reg) (v : DWord) (g : Regs) (h : d ≠ 0) :
    ((Regs.setX d v g).x.get r) = if d = r then v else g.x.get r := by simp [Regs.setX, h, vset_get]
theorem Regs.setX_zero (v : DWord) (g : Regs) : Regs.setX 0 v g = g := rfl
theorem Regs.setV_v (k g : Group) (d r : Reg) (v : VReg) (w : Regs) :
    (((Regs.setV k d v w).v.get g).get r) = if k = g ∧ d = r then v else (w.v.get g).get r := by
  by_cases h : k = g
  · subst h; simp [Regs.setV, vmod_get, vset_get]
  · simp [Regs.setV, vmod_get, h]

end Sys2Proof.Machine
end

