-- ==== Sys2Proof/Laws/Issue.lean ====
section
/-! SUPPORT. The issue of one word: with nothing in its way it commits, and what the commit of a plain word is. -/

namespace Sys2Proof.Machine

/-! ## What a word sees of the state at issue -/

@[simp] theorem State.matrixView_ctx (s : State) : s.matrixView.ctx = s.ctx := by
  unfold State.matrixView; split
  · rfl
  · split <;> simp [State.modCore, State.ctx, State.sq, State.seqOf] <;> rfl

@[simp] theorem Ctx.charge_regs (n : Nat) (c : Ctx) : (c.charge n).regs = c.regs := by
  unfold Ctx.charge; split
  · split <;> rfl
  · rfl
@[simp] theorem Ctx.charge_csrs (n : Nat) (c : Ctx) : (c.charge n).csrs = c.csrs := by
  unfold Ctx.charge; split
  · split <;> rfl
  · rfl
@[simp] theorem Ctx.charge_flights (n : Nat) (c : Ctx) : (c.charge n).flights = c.flights := by
  unfold Ctx.charge; split
  · split <;> rfl
  · rfl

@[simp] theorem Ctx.charge_resv (n : Nat) (c : Ctx) : (c.charge n).resv = c.resv := by
  unfold Ctx.charge; split
  · split <;> rfl
  · rfl
@[simp] theorem Ctx.charge_loops (n : Nat) (c : Ctx) : (c.charge n).loops = c.loops := by
  unfold Ctx.charge; split
  · split <;> rfl
  · rfl
@[simp] theorem Ctx.charge_pc (n : Nat) (c : Ctx) : (c.charge n).pc = c.pc := by
  unfold Ctx.charge; split
  · split <;> rfl
  · rfl
@[simp] theorem Ctx.charge_seg (n : Nat) (c : Ctx) : (c.charge n).seg = c.seg := by
  unfold Ctx.charge; split
  · split <;> rfl
  · rfl
@[simp] theorem Ctx.charge_rewound (n : Nat) (c : Ctx) : (c.charge n).rewound = c.rewound := by
  unfold Ctx.charge; split
  · split <;> rfl
  · rfl
@[simp] theorem Ctx.charge_seqNo (n : Nat) (c : Ctx) : (c.charge n).seqNo = c.seqNo := by
  unfold Ctx.charge; split
  · split <;> rfl
  · rfl
@[simp] theorem Ctx.charge_nextIssue (n : Nat) (c : Ctx) : (c.charge n).nextIssue = c.nextIssue := by
  unfold Ctx.charge; split
  · split <;> rfl
  · rfl
@[simp] theorem Ctx.charge_rc (n : Nat) (c : Ctx) : (c.charge n).rc = c.rc := by
  unfold Ctx.charge; split
  · split <;> rfl
  · rfl
@[simp] theorem Ctx.charge_status (n : Nat) (c : Ctx) : (c.charge n).status = c.status := by
  unfold Ctx.charge; split
  · split <;> rfl
  · rfl
@[simp] theorem Ctx.charge_parked (n : Nat) (c : Ctx) : (c.charge n).parked = c.parked := by
  unfold Ctx.charge; split
  · split <;> rfl
  · rfl
@[simp] theorem Ctx.charge_tlb (n : Nat) (c : Ctx) : (c.charge n).tlb = c.tlb := by
  unfold Ctx.charge; split
  · split <;> rfl
  · rfl

theorem State.tick_ctx (n : Nat) (s : State) : (s.tick n).ctx = s.ctx.charge n := by
  simp [State.tick, State.ctx, Seq.ctx, Seq.modCtx, Seq.modBank, vget_eq]

@[simp] theorem State.runTo_regs (t : Nat) (s : State) : (s.runTo t).ctx.regs = s.ctx.regs := by
  unfold State.runTo; split <;> simp [State.tick_ctx]
@[simp] theorem State.runTo_csrs (t : Nat) (s : State) : (s.runTo t).ctx.csrs = s.ctx.csrs := by
  unfold State.runTo; split <;> simp [State.tick_ctx]
@[simp] theorem State.runTo_flights (t : Nat) (s : State) : (s.runTo t).ctx.flights = s.ctx.flights := by
  unfold State.runTo; split <;> simp [State.tick_ctx]
@[simp] theorem State.runTo_pkg (t : Nat) (s : State) : (s.runTo t).pkg = s.pkg := by
  unfold State.runTo State.tick; split <;> simp
@[simp] theorem State.runTo_sram (t : Nat) (s : State) : (s.runTo t).core.sram = s.core.sram := by
  unfold State.runTo State.tick; split <;> simp

@[simp] theorem State.atIssue_regs (s : State) : s.atIssue.ctx.regs = s.ctx.regs := State.runTo_regs _ _
@[simp] theorem State.atIssue_csrs (s : State) : s.atIssue.ctx.csrs = s.ctx.csrs := State.runTo_csrs _ _
@[simp] theorem State.atIssue_flights (s : State) : s.atIssue.ctx.flights = s.ctx.flights := State.runTo_flights _ _
@[simp] theorem State.atIssue_pkg (s : State) : s.atIssue.pkg = s.pkg := State.runTo_pkg _ _
@[simp] theorem State.atIssue_sram (s : State) : s.atIssue.core.sram = s.core.sram := State.runTo_sram _ _
@[simp] theorem State.atIssue_x (s : State) : s.atIssue.ctx.x = s.ctx.x := by funext r; simp [Ctx.x]
@[simp] theorem State.atIssue_f (s : State) : s.atIssue.ctx.f = s.ctx.f := by funext r; simp [Ctx.f]
@[simp] theorem State.atIssue_v (s : State) : s.atIssue.ctx.v = s.ctx.v := by funext g r; simp [Ctx.v]
@[simp] theorem State.atIssue_m (s : State) : s.atIssue.ctx.m = s.ctx.m := by funext g r; simp [Ctx.m]
@[simp] theorem State.atIssue_h (s : State) : s.atIssue.ctx.h = s.ctx.h := by funext r; simp [Ctx.h]
@[simp] theorem State.runTo_resv (t : Nat) (s : State) : (s.runTo t).ctx.resv = s.ctx.resv := by
  unfold State.runTo; split <;> simp [State.tick_ctx]
@[simp] theorem State.atIssue_resv (s : State) : s.atIssue.ctx.resv = s.ctx.resv := State.runTo_resv _ _
@[simp] theorem State.runTo_loops (t : Nat) (s : State) : (s.runTo t).ctx.loops = s.ctx.loops := by
  unfold State.runTo; split <;> simp [State.tick_ctx]
@[simp] theorem State.atIssue_loops (s : State) : s.atIssue.ctx.loops = s.ctx.loops := State.runTo_loops _ _
@[simp] theorem State.runTo_pc (t : Nat) (s : State) : (s.runTo t).ctx.pc = s.ctx.pc := by
  unfold State.runTo; split <;> simp [State.tick_ctx]
@[simp] theorem State.atIssue_pc (s : State) : s.atIssue.ctx.pc = s.ctx.pc := State.runTo_pc _ _
@[simp] theorem State.runTo_seg (t : Nat) (s : State) : (s.runTo t).ctx.seg = s.ctx.seg := by
  unfold State.runTo; split <;> simp [State.tick_ctx]
@[simp] theorem State.atIssue_seg (s : State) : s.atIssue.ctx.seg = s.ctx.seg := State.runTo_seg _ _
@[simp] theorem State.runTo_rewound (t : Nat) (s : State) : (s.runTo t).ctx.rewound = s.ctx.rewound := by
  unfold State.runTo; split <;> simp [State.tick_ctx]
@[simp] theorem State.atIssue_rewound (s : State) : s.atIssue.ctx.rewound = s.ctx.rewound := State.runTo_rewound _ _
@[simp] theorem State.runTo_seqNo (t : Nat) (s : State) : (s.runTo t).ctx.seqNo = s.ctx.seqNo := by
  unfold State.runTo; split <;> simp [State.tick_ctx]
@[simp] theorem State.atIssue_seqNo (s : State) : s.atIssue.ctx.seqNo = s.ctx.seqNo := State.runTo_seqNo _ _
@[simp] theorem State.runTo_nextIssue (t : Nat) (s : State) : (s.runTo t).ctx.nextIssue = s.ctx.nextIssue := by
  unfold State.runTo; split <;> simp [State.tick_ctx]
@[simp] theorem State.atIssue_nextIssue (s : State) : s.atIssue.ctx.nextIssue = s.ctx.nextIssue := State.runTo_nextIssue _ _
@[simp] theorem State.runTo_status (t : Nat) (s : State) : (s.runTo t).ctx.status = s.ctx.status := by
  unfold State.runTo; split <;> simp [State.tick_ctx]
@[simp] theorem State.atIssue_status (s : State) : s.atIssue.ctx.status = s.ctx.status := State.runTo_status _ _
@[simp] theorem State.runTo_parked (t : Nat) (s : State) : (s.runTo t).ctx.parked = s.ctx.parked := by
  unfold State.runTo; split <;> simp [State.tick_ctx]
@[simp] theorem State.atIssue_parked (s : State) : s.atIssue.ctx.parked = s.ctx.parked := State.runTo_parked _ _
@[simp] theorem State.runTo_tlb (t : Nat) (s : State) : (s.runTo t).ctx.tlb = s.ctx.tlb := by
  unfold State.runTo; split <;> simp [State.tick_ctx]
@[simp] theorem State.atIssue_tlb (s : State) : s.atIssue.ctx.tlb = s.ctx.tlb := State.runTo_tlb _ _

theorem State.noSegment_at {s : State} (h : s.noSegment = true) : s.atIssue.ctx.seg = none ∧ s.atIssue.ctx.rewound = none := by
  unfold State.noSegment at h
  simpa using h

theorem State.alone_slots {s : State} {sl : Slot} (h : s.alone sl = true) : ∃ w i, s.core.cur.slots = [(sl, w, i)] := by
  unfold State.alone at h
  simp only [Bool.and_eq_true, beq_iff_eq] at h
  obtain ⟨⟨⟨⟨h, -⟩, -⟩, -⟩, -⟩ := h
  match hs : s.core.cur.slots with
  | [] => simp [hs] at h
  | [(a, w, i)] => rw [hs] at h; exact ⟨w, i, by simpa using h⟩
  | _ :: _ :: _ => simp [hs] at h

@[simp] theorem State.runTo_cur (t : Nat) (s : State) : (s.runTo t).core.cur = s.core.cur := by
  unfold State.runTo State.tick; split <;> simp

@[simp] theorem State.atIssue_cur (s : State) : s.atIssue.core.cur = s.core.cur := State.runTo_cur _ _

/-- The word that stands alone is issued with its meaning. -/
theorem issueWord_alone {s : State} {sl : Slot} (h : s.alone sl = true) (m : Meaning) :
    issueWord m s = .next (s.atIssue.issue s.core.cur (s.loneParts m) false) := by
  obtain ⟨w, i, hs⟩ := State.alone_slots h
  unfold issueWord State.loneParts State.loneEnv
  simp [hs, Cur.env]

theorem lowest_nil : lowest [] = none := rfl

/-- A word with nothing in its way commits. -/
theorem issueWord_clear {s : State} {sl : Slot} (h : s.alone sl = true) (m : Meaning) (hc : s.clear m = true) :
    issueWord m s = .next ((s.loneStart m).commit s.core.cur (s.loneParts m) false) := by
  rw [issueWord_alone h]
  unfold State.clear at hc
  simp only [Bool.and_eq_true, Bool.or_eq_true, decide_eq_true_eq, List.isEmpty_iff, Bool.not_eq_true', Option.isNone_iff_eq_none] at hc
  obtain ⟨⟨⟨h1, h2⟩, h3⟩, h4⟩ := hc
  unfold State.alone at h
  simp only [Bool.and_eq_true, Bool.not_eq_true'] at h
  obtain ⟨⟨⟨-, -⟩, hrdv⟩, hseg⟩ := h
  unfold State.issue
  have hm : s.atIssue.meets s.core.cur = false := by simp [State.meets, hrdv]
  have hk : s.atIssue.markSegment s.core.cur.pc s.core.cur.hdr.seg (s.core.cur.hdr.rdv || (s.loneParts m).any (·.plan.closes)) = s.atIssue := by
    rcases h3 with h3 | h3
    · simp [State.markSegment, hrdv, hseg, h3]
    · have h5 := State.noSegment_at h3
      unfold State.markSegment
      rw [if_neg]
      simp [hseg, h5.1, h5.2]
  simp only [Nat.not_lt.mpr h1, if_false, h2, lowest_nil, hm, hk]
  unfold State.loneStart at h4 ⊢
  split at h4 <;> simp_all

theorem State.afterStores_nil (s : State) : s.afterStores [] = s := rfl
theorem flatMap_none {α β : Type} (l : List α) : l.flatMap (fun _ => ([] : List β)) = [] := by
  induction l <;> simp_all

/-- A word that acts once has one part. -/
theorem loneParts_once {s : State} {sl : Slot} (h : s.alone sl = true) (f : Env → State → Plan) :
    s.loneParts (.once f) = [{ env := s.loneEnv, group := none, plan := s.onePlan f }] := by
  obtain ⟨w, i, hs⟩ := State.alone_slots h
  unfold State.loneParts State.onePlan State.loneEnv directParts
  cases sl <;> simp [hs, Cur.env, flatMap_none, State.afterStores_nil]

/-- What a plan asks of nothing but registers. -/
structure Plan.Plain (p : Plan) : Prop where
  raises : p.raises = []
  holds : p.holds = []
  touches : p.touches = []
  pushes : p.pushes = []
  pops : p.pops = []
  landings : p.landings = 0
  submits : p.submits = none
  clears : p.clears = []
  mem : p.mem = false
  mat : p.mat = false
  closes : p.closes = false

/-- What a plan asks that nothing of the machine keeps from issuing in a state: an access to memory with no service in progress, the
closing of a segment with none open. -/
structure Plan.Goes (s : State) (p : Plan) : Prop where
  raises : p.raises = []
  holds : p.holds = []
  touches : p.touches = []
  pushes : p.pushes = []
  pops : p.pops = []
  landings : p.landings = 0
  submits : p.submits = none
  clears : p.clears = []
  mat : p.mat = true → s.holdsMatrix = true
  mem : p.mem = true → s.sq.man.service = none
  closes : p.closes = true → s.noSegment = true

theorem Plan.Plain.goes {p : Plan} (h : p.Plain) (s : State) : p.Goes s :=
  { h with mat := by simp [h.mat], mem := by simp [h.mem], closes := by simp [h.closes] }

theorem State.atIssue_service (s : State) : s.atIssue.sq.man.service = s.sq.man.service := by
  unfold State.atIssue State.runTo; split
  · simp [State.tick, State.modCtx, Seq.modCtx, Seq.modBank]
  · rfl

theorem State.runTo_matrix (n : Nat) (s : State) :
    (s.runTo n).core.matHolder = s.core.matHolder ∧ (s.runTo n).core.active = s.core.active ∧ (s.runTo n).sq.running = s.sq.running ∧
      (s.runTo n).ctx.matrixSide = s.ctx.matrixSide ∧ (s.runTo n).sq.engOp = s.sq.engOp := by
  unfold State.runTo; split
  · simp [State.tick, State.modCtx, Seq.modCtx, Seq.modBank, State.ctx, Seq.ctx, vget_eq, Ctx.charge]
    split <;> (try split) <;> simp
  · simp

theorem State.atIssue_holdsMatrix (s : State) : s.atIssue.holdsMatrix = s.holdsMatrix := by
  obtain ⟨h1, h2, h3, h4, h5⟩ := s.runTo_matrix s.ctx.nextIssue
  unfold State.holdsMatrix Seq.engMatrix State.atIssue
  rw [h1, h2, h3, h4, h5]

theorem vset_same {α : Type} {n : Nat} (v : Vector α n) (i : Fin n) (x : α) (h : v.get i = x) : vset v i x = v := by
  subst h
  apply Vector.ext
  intro j hj
  by_cases e : i.val = j
  · subst e; simp [vset, vget_eq]
  · simp [vset, Vector.getElem_set, e]

/-- A change of the running context that leaves it as it is. -/
theorem State.modCtx_same (s : State) (f : Ctx → Ctx) (h : f s.ctx = s.ctx) : s.modCtx f = s := by
  have key : s.sq.modCtx f = s.sq := by
    have : s.sq.banks.set s.sq.running.val (f (s.sq.banks.get s.sq.running)) s.sq.running.isLt = s.sq.banks :=
      vset_same _ _ _ h.symm
    simp [Seq.modCtx, Seq.modBank, this]
  unfold State.modCtx State.modSq State.modSeq
  revert key
  unfold State.sq State.seqOf
  cases s.core.active <;> intro key <;> simp [key]

/-- Where the core holds the context's matrix-side state, a first access changes nothing, and a word sees it where it stands. -/
theorem State.ownMatrix_held {s : State} (h : s.holdsMatrix = true) : s.ownMatrix = s ∧ s.matrixView = s ∧ s.matHeldByOther = false := by
  unfold State.holdsMatrix at h
  simp only [Bool.and_eq_true, beq_iff_eq, Bool.not_eq_true'] at h
  obtain ⟨⟨h1, h2⟩, -⟩ := h
  refine ⟨?_, ?_, ?_⟩
  · unfold State.ownMatrix
    have e : vset s.core.matHolder (halfIdx s.core.active) (some s.sq.running) = s.core.matHolder := vset_same _ _ _ h1
    have e1 : s.modCore (fun c => { c with matHolder := vset c.matHolder (halfIdx s.core.active) (some s.sq.running) }) = s := by
      simp [State.modCore, e]
    simp only [h2, if_true, e1]
    exact State.modCtx_same s _ (by rw [← h2])
  · simp [State.matrixView, h1]
  · simp [State.matHeldByOther, h1]

theorem idle_nil {c : Ctx} {rs : List Res} (h : c.idle rs = true) : ∀ r ∈ rs, c.pendingOn r = [] := by
  intro r hr
  simpa [Ctx.idle] using (List.all_eq_true.mp h) r hr

theorem sbRaises_idle (c : Ctx) (p : Part) (hr : ∀ r ∈ p.plan.reads, c.pendingOn r = [])
    (hw : ∀ w ∈ p.plan.tracked, c.pendingOn w.1 = []) : sbRaises c [p] = [] := by
  have h1 : Part.overtakes c p = [] := by
    unfold Part.overtakes
    rw [List.filterMap_eq_nil_iff]
    intro w h
    have := hw w h
    split
    · next e => rw [e] at this; simp [this, e]
    · rfl
  have h2 : Part.sbTraps c p = [] := by
    unfold Part.sbTraps
    simp only [List.append_eq_nil_iff, List.filterMap_eq_nil_iff]
    refine ⟨?_, ?_⟩
    · rintro ⟨r, i⟩ h
      have := hr r (List.fst_mem_of_mem_zipIdx h)
      simp [this]
    · rintro ⟨w, i⟩ h
      have := hw w (List.fst_mem_of_mem_zipIdx h)
      simp [this]
  unfold sbRaises
  simp [h1, h2, leastKey]

/-- A plan's words name no accumulator block. -/
def Plan.noAcc (p : Plan) : Bool := p.tracked.all (fun w => match w.1 with | .acc _ _ _ => false | _ => true)

theorem sbRaises_off (c : Ctx) (p : Part) (h0 : c.csrs.sbmode = 0) (hn : p.plan.noAcc = true) : sbRaises c [p] = [] := by
  have h1 : Part.overtakes c p = [] := by
    unfold Part.overtakes
    rw [List.filterMap_eq_nil_iff]
    intro w h
    have := (List.all_eq_true.mp hn) w h
    revert this
    cases w.1 <;> simp
  simp [sbRaises, h0, h1]

theorem Plan.tracked_writes {p : Plan} (h : p.clears = []) : p.tracked = p.writes := by simp [Plan.tracked, h]

theorem loneStart_goes {s : State} {sl : Slot} (h : s.alone sl = true) (hix : s.core.cur.hdr.indexed = false) (f : Env → State → Plan)
    (hm : (s.onePlan f).mat = true → s.holdsMatrix = true) : s.loneStart (.once f) = s.atIssue := by
  unfold State.loneStart
  rw [loneParts_once h]
  cases q : (s.onePlan f).mat
  · simp [State.takesMatrix, hix, q]
  · rw [(State.ownMatrix_held ((State.atIssue_holdsMatrix s).trans (hm q))).1]; exact ite_self _

theorem clear_goes {s : State} {sl : Slot} (h : s.alone sl = true) (hsl : sl = .s ∨ sl = .c0 ∨ sl = .c1) (f : Env → State → Plan)
    (hp : (s.onePlan f).Goes s) (ha : (s.onePlan f).noAcc = true)
    (hi : s.atIssue.unhindered ((s.onePlan f).reads ++ (s.onePlan f).writes.map (·.1)) = true) :
    s.clear (.once f) = true := by
  obtain ⟨w, i, hs⟩ := State.alone_slots h
  obtain ⟨a1, a2, a3, a4, a5, a6, a7, a11, a8, a9, a10⟩ := hp
  have hal := h
  unfold State.alone at hal
  simp only [Bool.and_eq_true, Bool.not_eq_true', List.isEmpty_iff] at hal
  obtain ⟨⟨⟨⟨-, htr⟩, hix⟩, -⟩, -⟩ := hal
  have key : s.atIssue.readyAt [{ env := s.loneEnv, group := none, plan := s.onePlan f : Part }] = 0 ∧
      sbRaises s.atIssue.ctx [{ env := s.loneEnv, group := none, plan := s.onePlan f : Part }] = [] := by
    unfold State.unhindered at hi
    rw [Bool.or_eq_true] at hi
    rcases hi with h0 | hi
    · have h0 : s.atIssue.ctx.csrs.sbmode = 0 := by simpa using h0
      exact ⟨by unfold State.readyAt; rw [h0]; simp [State.landingWait, a6], sbRaises_off _ _ h0 ha⟩
    · have hi' := idle_nil hi
      have hr : ∀ r ∈ (s.onePlan f).reads, s.atIssue.ctx.pendingOn r = [] := fun r hr => hi' r (by simp [hr])
      have hw : ∀ w ∈ (s.onePlan f).writes, s.atIssue.ctx.pendingOn w.1 = [] :=
        fun w hw => hi' w.1 (List.mem_append_right _ (List.mem_map_of_mem hw))
      have e1 : (s.onePlan f).reads.flatMap s.atIssue.ctx.pendingOn = [] := by
        rw [List.flatMap_eq_nil_iff]; exact hr
      have ht := Plan.tracked_writes a11
      have e2 : ((s.onePlan f).writes.flatMap fun w => (s.atIssue.ctx.pendingOn w.1).map (fun l => l + 1 - w.2)) = [] := by
        rw [List.flatMap_eq_nil_iff]; intro w h'; simp [hw w h']
      exact ⟨by simp [State.readyAt, State.landingWait, a6, Plan.clearAt, ht, e1, e2, maxOf], sbRaises_idle _ _ hr (ht ▸ hw)⟩
  have e4 : s.atIssue.grpTraps s.core.cur = [] := by
    rcases hsl with rfl | rfl | rfl <;> simp [State.grpTraps, hs]
  have e5 : ∀ b t, State.roomLack t b [{ env := s.loneEnv, group := none, plan := s.onePlan f : Part }] = 0 := by
    intro b t; simp [State.roomLack, pushBytes, a4]
  have e6 : ∀ b t, State.bytesLack t b [{ env := s.loneEnv, group := none, plan := s.onePlan f : Part }] = 0 := by
    intro b t; simp [State.bytesLack, popBytes, a5]
  unfold State.clear
  rw [loneParts_once h]
  have e7 : ¬ ((s.onePlan f).mem = true ∧ s.sq.man.service.isSome = true) := by
    rintro ⟨q, q'⟩; simp [a9 q] at q'
  have e8 : (s.onePlan f).closes = false ∨ s.noSegment = true := by
    cases hq : (s.onePlan f).closes
    · exact .inl rfl
    · exact .inr (a10 hq)
  have e9 := loneStart_goes h hix f a8
  rw [e9]
  have e10 : ¬ ((s.onePlan f).mat = true ∧ s.atIssue.sq.engMatrix = true) := by
    rintro ⟨q, q'⟩
    have := (State.atIssue_holdsMatrix s).trans (a8 q)
    simp [State.holdsMatrix, q'] at this
  have e11 : ¬ ((s.onePlan f).mat = true ∧ s.atIssue.matHeldByOther = true) := by
    rintro ⟨q, q'⟩
    simp [(State.ownMatrix_held ((State.atIssue_holdsMatrix s).trans (a8 q))).2.2] at q'
  have e7' : (s.onePlan f).mem = true → s.sq.man.service = none := a9
  simp [key.1, key.2, State.raises, htr, e4, a1, dupTraps, bankTraps, e8,
    State.holdOf, hix, e10, e11, a2, a3, a7, e5, e6, State.atIssue_service]
  exact e7'

/-- A word in a slot that acts once issues where nothing is in its way: its effects after the advance of its control. -/
theorem issueWord_goes {s : State} {sl : Slot} (h : s.alone sl = true) (hsl : sl = .s ∨ sl = .c0 ∨ sl = .c1) (f : Env → State → Plan)
    (hp : (s.onePlan f).Goes s) (ha : (s.onePlan f).noAcc = true)
    (hi : s.atIssue.unhindered ((s.onePlan f).reads ++ (s.onePlan f).writes.map (·.1)) = true) :
    issueWord (.once f) s = .next (commitEffects [{ env := s.loneEnv, group := none, plan := s.onePlan f }]
      (s.atIssue.advance s.core.cur false (if sl = .s then (s.onePlan f).ctl else .seq) (if sl = .s then (s.onePlan f).stall else 0))) := by
  obtain ⟨w, i, hs⟩ := State.alone_slots h
  rw [issueWord_clear h _ (clear_goes h hsl f hp ha hi)]
  have hx : s.core.cur.hdr.indexed = false := by
    unfold State.alone at h
    simp only [Bool.and_eq_true, Bool.not_eq_true'] at h
    exact h.1.1.2
  have hst := loneStart_goes h hx f hp.mat
  have he : s.loneEnv.slot = sl := by simp [State.loneEnv, hs, Cur.env]
  rw [hst, loneParts_once h]
  unfold State.commit ctlOf
  by_cases hsl' : sl = .s
  · simp [he, hsl']
  · have : (sl == Slot.s) = false := by simpa using hsl'
    simp [he, this, hsl']

theorem issueWord_plain {s : State} {sl : Slot} (h : s.alone sl = true) (hsl : sl = .s ∨ sl = .c0 ∨ sl = .c1) (f : Env → State → Plan)
    (hp : (s.onePlan f).Plain) (ha : (s.onePlan f).noAcc = true)
    (hi : s.atIssue.unhindered ((s.onePlan f).reads ++ (s.onePlan f).writes.map (·.1)) = true) :
    issueWord (.once f) s = .next (commitEffects [{ env := s.loneEnv, group := none, plan := s.onePlan f }]
      (s.atIssue.advance s.core.cur false (if sl = .s then (s.onePlan f).ctl else .seq) (if sl = .s then (s.onePlan f).stall else 0))) :=
  issueWord_goes h hsl f (hp.goes s) ha hi

theorem commitEffects_nil (p : Part) (s : State) (h : p.plan.effs = []) : commitEffects [p] s = s := by
  simp [commitEffects, Part.run, h]

theorem commitEffects_one (p : Part) (s : State) (ph : Phase) (g : State → State) (h : p.plan.effs = [(ph, g)]) :
    commitEffects [p] s = g s := by
  cases ph <;> simp [commitEffects, Part.run, h]

theorem State.atIssue_idle (s : State) (rs : List Res) : s.atIssue.ctx.idle rs = s.ctx.idle rs := by
  simp [Ctx.idle, Ctx.pendingOn]

theorem State.atIssue_unhindered (s : State) (rs : List Res) : s.atIssue.unhindered rs = s.unhindered rs := by
  simp [State.unhindered, State.atIssue_idle]

/-- Fewer registers are the easier unhindered. -/
theorem State.unhindered_sub {s : State} {as bs : List Res} (h : s.unhindered as = true) (hs : ∀ r ∈ bs, r ∈ as) : s.unhindered bs = true := by
  unfold State.unhindered at h ⊢
  rw [Bool.or_eq_true] at h ⊢
  exact h.imp id (fun h => List.all_eq_true.mpr fun r hr => (List.all_eq_true.mp h) r (hs r hr))

theorem State.alone_env {s : State} {sl : Slot} (h : s.alone sl = true) :
    s.loneEnv.pc = s.core.cur.pc ∧ s.loneEnv.hdr = s.core.cur.hdr ∧ s.loneEnv.slot = sl ∧ s.loneEnv.cls = none ∧ s.loneEnv.shelf = none := by
  obtain ⟨w, i, hs⟩ := State.alone_slots h
  simp [State.loneEnv, hs, Cur.env]

/-- The scoreboard has nothing to say of a plan whose registers are unhindered. -/
theorem scoreboard_quiet {s : State} (p : Plan) (e : Env) (hl : p.landings = 0) (hc : p.clears = []) (ha : p.noAcc = true)
    (hi : s.atIssue.unhindered (p.reads ++ p.writes.map (·.1)) = true) :
    s.atIssue.readyAt [{ env := e, group := none, plan := p }] = 0 ∧ sbRaises s.atIssue.ctx [{ env := e, group := none, plan := p }] = [] := by
  unfold State.unhindered at hi
  rw [Bool.or_eq_true] at hi
  rcases hi with h0 | hi
  · have h0 : s.atIssue.ctx.csrs.sbmode = 0 := by simpa using h0
    exact ⟨by unfold State.readyAt; rw [h0]; simp [State.landingWait, hl], sbRaises_off _ _ h0 ha⟩
  · have hi' := idle_nil hi
    have hr : ∀ r ∈ p.reads, s.atIssue.ctx.pendingOn r = [] := fun r hr => hi' r (by simp [hr])
    have hw : ∀ w ∈ p.writes, s.atIssue.ctx.pendingOn w.1 = [] :=
      fun w hw => hi' w.1 (List.mem_append_right _ (List.mem_map_of_mem hw))
    have e1 : p.reads.flatMap s.atIssue.ctx.pendingOn = [] := by rw [List.flatMap_eq_nil_iff]; exact hr
    have ht := Plan.tracked_writes hc
    have e2 : (p.writes.flatMap fun w => (s.atIssue.ctx.pendingOn w.1).map (fun l => l + 1 - w.2)) = [] := by
      rw [List.flatMap_eq_nil_iff]; intro w h'; simp [hw w h']
    exact ⟨by simp [State.readyAt, State.landingWait, hl, Plan.clearAt, ht, e1, e2, maxOf], sbRaises_idle _ _ hr (ht ▸ hw)⟩

/-- A word that raises is taken to the lowest of its causes, and nothing of it commits (R40). -/
theorem issueWord_raises {s : State} {sl : Slot} (h : s.alone sl = true) (hsl : sl = .s ∨ sl = .c0 ∨ sl = .c1) (f : Env → State → Plan)
    (r : Raise) (hr : lowest (s.onePlan f).raises = some r) (hl : (s.onePlan f).landings = 0) (hc : (s.onePlan f).clears = [])
    (hm : (s.onePlan f).mat = true → s.sq.engMatrix = false) (hh : .latchFill ∉ (s.onePlan f).holds) (ha : (s.onePlan f).noAcc = true)
    (hi : s.atIssue.unhindered ((s.onePlan f).reads ++ (s.onePlan f).writes.map (·.1)) = true) :
    issueWord (.once f) s = .next (s.atIssue.raise r s.core.cur.pc s.core.cur.next) := by
  obtain ⟨w, i, hs⟩ := State.alone_slots h
  rw [issueWord_alone h, loneParts_once h]
  have hal := h
  unfold State.alone at hal
  simp only [Bool.and_eq_true, Bool.not_eq_true', List.isEmpty_iff] at hal
  obtain ⟨⟨⟨⟨-, htr⟩, hix⟩, -⟩, -⟩ := hal
  have key := scoreboard_quiet (s := s) (s.onePlan f) s.loneEnv hl hc ha hi
  have hj : s.atIssue.judgedLater s.core.cur [{ env := s.loneEnv, group := none, plan := s.onePlan f }] = none := by
    have he : s.atIssue.sq.engMatrix = s.sq.engMatrix := by
      unfold Seq.engMatrix State.atIssue; rw [(s.runTo_matrix _).2.2.2.2]
    cases q : (s.onePlan f).mat
    · simp [State.judgedLater, hix, q, hh]
    · simp [State.judgedLater, hix, q, hh, he, hm q]
  have e4 : s.atIssue.grpTraps s.core.cur = [] := by
    rcases hsl with rfl | rfl | rfl <;> simp [State.grpTraps, hs]
  have hraises : s.atIssue.raises s.core.cur [{ env := s.loneEnv, group := none, plan := s.onePlan f }] = (s.onePlan f).raises := by
    simp [State.raises, htr, e4, dupTraps, bankTraps, key.2]
  unfold State.issue
  simp [key.1, hraises, hr, hj]

theorem lowest_one (r : Raise) : lowest [r] = some r := rfl

end Sys2Proof.Machine
end

