-- ==== Sys2Proof/Laws/Lanes.lean ====
section
/-! SUPPORT. The issue of one V or M word in its lane groups. -/

namespace Sys2Proof.Machine

@[simp] theorem State.runTo_active (t : Nat) (s : State) : (s.runTo t).core.active = s.core.active := by
  unfold State.runTo State.tick; split <;> simp
@[simp] theorem State.runTo_split (t : Nat) (s : State) : (s.runTo t).core.split = s.core.split := by
  unfold State.runTo State.tick; split <;> simp
@[simp] theorem State.runTo_mat (t : Nat) (s : State) : (s.runTo t).core.mat = s.core.mat := by
  unfold State.runTo State.tick; split <;> simp
theorem State.groups_congr (s t : State) (h : Header) (e1 : t.core.split = s.core.split) (e2 : t.core.active = s.core.active) :
    t.groups h = s.groups h := by simp [State.groups, State.ownGroup, e1, e2]
theorem State.grpTraps_congr (s t : State) (c : Cur) (e1 : t.core.split = s.core.split) (e2 : t.core.active = s.core.active) :
    t.grpTraps c = s.grpTraps c := by
  have : t.ownGroup = s.ownGroup := by funext g; simp [State.ownGroup, e1, e2]
  simp only [State.grpTraps, this, e1]
@[simp] theorem State.matrixView_split (s : State) : s.matrixView.core.split = s.core.split := by
  unfold State.matrixView; split
  · rfl
  · split <;> rfl
@[simp] theorem State.matrixView_active (s : State) : s.matrixView.core.active = s.core.active := by
  unfold State.matrixView; split
  · rfl
  · split <;> rfl

theorem State.view_groups (s : State) : s.atIssue.matrixView.groups s.core.cur.hdr = s.laneGroups :=
  State.groups_congr _ _ _ (by simp [State.atIssue]) (by simp [State.atIssue])

/-- A V or M word has one part in each enabled group. -/
theorem loneParts_lanes {s : State} {sl : Slot} (h : s.alone sl = true) (hsl : sl = .v0 ∨ sl = .v1 ∨ sl = .m) (hg : s.laneGroups ≠ [])
    (f : Env → Group → State → Plan) :
    s.loneParts (.lanes f) = s.laneGroups.map (fun g => { env := s.loneEnv, group := some g, plan := s.lanePlan f g }) := by
  obtain ⟨w, i, hs⟩ := State.alone_slots h
  unfold State.loneParts State.lanePlan State.loneEnv directParts
  have := State.view_groups s
  rcases hsl with rfl | rfl | rfl <;> simp [hs, Cur.env, this, hg, ← List.map_eq_flatMap]

/-- The lane group of a register or block. -/
def Res.group : Res → Option Group
  | .v g _ | .m g _ | .acc g _ _ => some g
  | _ => none

theorem dupTraps_lanes (e : Env) (p : Group → Plan) (gs : List Group) (hn : gs.Nodup)
    (hd : ∀ g ∈ gs, ∀ r ∈ (p g).dests ++ (p g).blocks, r.group = some g) :
    dupTraps (gs.map (fun g => { env := e, group := some g, plan := p g })) = [] := by
  induction gs with
  | nil => rfl
  | cons g r ih =>
    have hn' := List.nodup_cons.mp hn
    simp only [List.map_cons, dupTraps, List.append_eq_nil_iff]
    refine ⟨?_, ih hn'.2 (fun k hk => hd k (by simp [hk]))⟩
    rw [List.filterMap_eq_nil_iff]
    intro q hq
    obtain ⟨k, hk, rfl⟩ := List.mem_map.mp hq
    have far (a b : List Res) (ha : ∀ r ∈ a, r ∈ (p k).dests ++ (p k).blocks) (hb : ∀ r ∈ b, r ∈ (p g).dests ++ (p g).blocks) :
        (a.any fun w => b.contains w) = false := by
      rw [List.any_eq_false]
      intro w hw hc
      have h1 := hd k (by simp [hk]) w (ha w hw)
      have h2 := hd g (by simp) w (hb w (by simpa using hc))
      rw [h1] at h2
      cases h2
      exact hn'.1 hk
    have this : (p g).clashes (p k) = false := by
      unfold Plan.clashes
      rw [far _ _ (fun r hr => List.mem_append_left _ hr) (fun r hr => List.mem_append_left _ hr),
        far _ _ (fun r hr => List.mem_append_right _ hr) (fun r hr => List.mem_append_right _ hr)]
      rfl
    simp only [this, Bool.false_eq_true, if_false]

theorem bankTraps_lanes (e : Env) (p : Group → Plan) (gs : List Group) (hn : gs.Nodup) :
    bankTraps (gs.map (fun g => { env := e, group := some g, plan := p g })) = [] := by
  induction gs with
  | nil => rfl
  | cons g r ih =>
    have hn' := List.nodup_cons.mp hn
    simp only [List.map_cons, bankTraps, List.append_eq_nil_iff]
    refine ⟨?_, ih hn'.2⟩
    rw [List.filterMap_eq_nil_iff]
    intro q hq
    obtain ⟨k, hk, rfl⟩ := List.mem_map.mp hq
    have : k ≠ g := fun x => hn'.1 (x ▸ hk)
    simp [this]

theorem State.laneGroups_nodup (s : State) : s.laneGroups.Nodup :=
  List.Pairwise.filter _ (by decide : (List.finRange 8).Nodup)

theorem leastKey_nil : leastKey [] = none := rfl

/-- A plain V word with destinations in its own groups has nothing in its way. -/
theorem clear_lanes {s : State} {sl : Slot} (h : s.alone sl = true) (hsl : sl = .v0 ∨ sl = .v1 ∨ sl = .m) (hg : s.groupsOn = true)
    (f : Env → Group → State → Plan) (hp : ∀ g ∈ s.laneGroups, (s.lanePlan f g).Plain) (ha : ∀ g ∈ s.laneGroups, (s.lanePlan f g).noAcc = true)
    (hd : ∀ g ∈ s.laneGroups, ∀ r ∈ (s.lanePlan f g).dests ++ (s.lanePlan f g).blocks, r.group = some g)
    (hi : ∀ g ∈ s.laneGroups, s.unhindered ((s.lanePlan f g).reads ++ (s.lanePlan f g).writes.map (·.1)) = true) :
    s.clear (.lanes f) = true := by
  obtain ⟨w, i, hs⟩ := State.alone_slots h
  have hal := h
  unfold State.alone at hal
  simp only [Bool.and_eq_true, Bool.not_eq_true', List.isEmpty_iff] at hal
  obtain ⟨⟨⟨⟨-, htr⟩, hix⟩, -⟩, -⟩ := hal
  unfold State.groupsOn at hg
  simp only [Bool.and_eq_true, Bool.not_eq_true', List.isEmpty_iff, List.isEmpty_eq_false_iff] at hg
  obtain ⟨hg1, hg2⟩ := hg
  have hparts := loneParts_lanes h hsl hg1 f
  generalize hps : s.laneGroups.map (fun g => ({ env := s.loneEnv, group := some g, plan := s.lanePlan f g } : Part)) = ps at hparts
  have hall : ∀ q ∈ ps, q.plan.Plain ∧ q.plan.noAcc = true ∧
      s.unhindered (q.plan.reads ++ q.plan.writes.map (·.1)) = true := by
    intro q hq
    rw [← hps] at hq
    obtain ⟨g, hg, rfl⟩ := List.mem_map.mp hq
    exact ⟨hp g hg, ha g hg, hi g hg⟩
  have key : s.atIssue.readyAt ps = 0 ∧ sbRaises s.atIssue.ctx ps = [] := by
    have hl : (ps.map (·.plan.landings)).sum = 0 := by
      have : ps.map (·.plan.landings) = ps.map (fun _ => 0) := List.map_congr_left (fun q hq => (hall q hq).1.landings)
      rw [this]; clear this hall hparts hps; induction ps with
      | nil => rfl
      | cons a r ih => simpa using ih
    by_cases h0 : s.ctx.csrs.sbmode = 0
    · refine ⟨by simp [State.readyAt, h0, State.landingWait, hl], ?_⟩
      have : ps.flatMap (Part.overtakes s.atIssue.ctx) = [] := by
        rw [List.flatMap_eq_nil_iff]
        intro q hq
        have := sbRaises_off s.atIssue.ctx q (by simpa using h0) (hall q hq).2.1
        simpa [sbRaises, h0] using this
      simp [sbRaises, h0, this]
    · have hidle : ∀ q ∈ ps, ∀ r ∈ q.plan.reads ++ q.plan.writes.map (·.1), s.atIssue.ctx.pendingOn r = [] := by
        intro q hq
        have := (hall q hq).2.2
        unfold State.unhindered at this
        rw [Bool.or_eq_true] at this
        rcases this with x | x
        · exact absurd (by simpa using x) h0
        · exact idle_nil (by rw [State.atIssue_idle]; exact x)
      have e0 : ∀ q ∈ ps, q.plan.clearAt s.atIssue.ctx = 0 := by
        intro q hq
        have hr : q.plan.reads.flatMap s.atIssue.ctx.pendingOn = [] := by
          rw [List.flatMap_eq_nil_iff]; intro r hr; exact hidle q hq r (by simp [hr])
        have hw : (q.plan.writes.flatMap fun w => (s.atIssue.ctx.pendingOn w.1).map (fun l => l + 1 - w.2)) = [] := by
          rw [List.flatMap_eq_nil_iff]; intro w hw
          simp [hidle q hq w.1 (List.mem_append_right _ (List.mem_map_of_mem hw))]
        simp [Plan.clearAt, Plan.tracked_writes (hall q hq).1.clears, hr, hw, maxOf]
      have e1 : maxOf (ps.map (fun p => p.plan.clearAt s.atIssue.ctx)) = 0 := by
        have : ps.map (fun p => p.plan.clearAt s.atIssue.ctx) = ps.map (fun _ => 0) := List.map_congr_left e0
        rw [this]
        clear this e0 hidle hl hall hparts hps
        unfold maxOf
        induction ps with
        | nil => rfl
        | cons a r ih => simpa using ih
      refine ⟨by simp [State.readyAt, State.landingWait, hl, e1], ?_⟩
      have e2 : ps.flatMap (Part.sbTraps s.atIssue.ctx) = [] := by
        rw [List.flatMap_eq_nil_iff]
        intro q hq
        unfold Part.sbTraps
        simp only [List.append_eq_nil_iff, List.filterMap_eq_nil_iff]
        refine ⟨?_, ?_⟩
        · rintro ⟨r, i⟩ hr
          have := hidle q hq r (by have := List.fst_mem_of_mem_zipIdx hr; simp_all)
          simp [this]
        · rintro ⟨w, i⟩ hw
          rw [Plan.tracked_writes (hall q hq).1.clears] at hw
          have := hidle q hq w.1 (List.mem_append_right _ (List.mem_map_of_mem (List.fst_mem_of_mem_zipIdx hw)))
          simp [this]
      have e3 : s.atIssue.ctx.csrs.sbmode ≠ 0 := by simpa using h0
      simp only [sbRaises, if_neg e3, e2, leastKey_nil]
      split <;> rfl
  have e4 : s.atIssue.grpTraps s.core.cur = [] := by
    rw [← hg2]; exact State.grpTraps_congr _ _ _ (by simp [State.atIssue]) (by simp [State.atIssue])
  have nil_of {β : Type} (k : Part → List β) (hk : ∀ q ∈ ps, k q = []) : ps.flatMap k = [] := by
    rw [List.flatMap_eq_nil_iff]; exact hk
  have f1 := nil_of (fun q => q.plan.raises) (fun q hq => (hall q hq).1.raises)
  have f2 := nil_of (fun q => q.plan.holds) (fun q hq => (hall q hq).1.holds)
  have f3 := nil_of (fun q => q.plan.touches) (fun q hq => (hall q hq).1.touches)
  have f4 := nil_of (fun q => q.plan.pushes) (fun q hq => (hall q hq).1.pushes)
  have f5 := nil_of (fun q => q.plan.pops) (fun q hq => (hall q hq).1.pops)
  have any_of (k : Part → Bool) (hk : ∀ q ∈ ps, k q = false) : ps.any k = false := by
    rw [List.any_eq_false]; intro q hq; simp [hk q hq]
  have g1 := any_of (fun q => q.plan.mat) (fun q hq => (hall q hq).1.mat)
  have g2 := any_of (fun q => q.plan.mem) (fun q hq => (hall q hq).1.mem)
  have g3 := any_of (fun q => q.plan.closes) (fun q hq => (hall q hq).1.closes)
  have hq (t : State) (k : Fin 2) : (ps.filter (fun p => p.plan.submits.isSome && t.queueOf p.env.slot == k)) = [] := by
    rw [List.filter_eq_nil_iff]; intro q hq; simp [(hall q hq).1.submits]
  have hent : (ps.map (fun p => p.plan.submits.getD 0)).sum = 0 := by
    have : ps.map (fun p => p.plan.submits.getD 0) = ps.map (fun _ => 0) :=
      List.map_congr_left (fun q hq => by simp [(hall q hq).1.submits])
    rw [this]
    clear this hq g1 g2 g3 any_of f1 f2 f3 f4 f5 nil_of key hall hparts hps
    induction ps with
    | nil => rfl
    | cons a r ih => simpa using ih
  have e5 : ∀ b t, State.roomLack t b ps = 0 := by intro b t; simp [State.roomLack, pushBytes, f4]
  have e6 : ∀ b t, State.bytesLack t b ps = 0 := by intro b t; simp [State.bytesLack, popBytes, f5]
  have d1 : dupTraps ps = [] := hps ▸ dupTraps_lanes _ _ _ s.laneGroups_nodup hd
  have d2 : bankTraps ps = [] := hps ▸ bankTraps_lanes _ _ _ s.laneGroups_nodup
  unfold State.clear
  rw [hparts]
  simp only [key.1, key.2, State.raises, htr, e4, f1, d1, d2, g3, State.holdOf, g1, g2, hix, f2, f3, hq, hent, e5, e6]
  simp

/-- A plain V word issues: its groups' effects after the advance. -/
theorem issueWord_lanes {s : State} {sl : Slot} (h : s.alone sl = true) (hsl : sl = .v0 ∨ sl = .v1 ∨ sl = .m) (hg : s.groupsOn = true)
    (f : Env → Group → State → Plan) (hp : ∀ g ∈ s.laneGroups, (s.lanePlan f g).Plain) (ha : ∀ g ∈ s.laneGroups, (s.lanePlan f g).noAcc = true)
    (hd : ∀ g ∈ s.laneGroups, ∀ r ∈ (s.lanePlan f g).dests ++ (s.lanePlan f g).blocks, r.group = some g)
    (hi : ∀ g ∈ s.laneGroups, s.unhindered ((s.lanePlan f g).reads ++ (s.lanePlan f g).writes.map (·.1)) = true) :
    issueWord (.lanes f) s = .next (commitEffects
      (s.laneGroups.map (fun g => { env := s.loneEnv, group := some g, plan := s.lanePlan f g })) s.past) := by
  obtain ⟨w, i, hs⟩ := State.alone_slots h
  rw [issueWord_clear h _ (clear_lanes h hsl hg f hp ha hd hi)]
  have hx : s.core.cur.hdr.indexed = false := by
    unfold State.alone at h
    simp only [Bool.and_eq_true, Bool.not_eq_true'] at h
    exact h.1.1.2
  have hg1 : s.laneGroups ≠ [] := by
    unfold State.groupsOn at hg
    simp only [Bool.and_eq_true, Bool.not_eq_true', List.isEmpty_eq_false_iff] at hg
    exact hg.1
  have he : s.loneEnv.slot = sl := (State.alone_env h).2.2.1
  have hm : (s.loneParts (.lanes f)).any (·.plan.mat) = false := by
    rw [loneParts_lanes h hsl hg1 f, List.any_eq_false]
    intro q hq
    obtain ⟨g, hg, rfl⟩ := List.mem_map.mp hq
    simp [(hp g hg).mat]
  have hst : s.loneStart (.lanes f) = s.atIssue := by
    unfold State.loneStart
    simp [State.takesMatrix, hm, hx]
  rw [hst, loneParts_lanes h hsl hg1 f]
  have hc : ctlOf (s.laneGroups.map (fun g => ({ env := s.loneEnv, group := some g, plan := s.lanePlan f g } : Part))) = (.seq, 0) := by
    unfold ctlOf
    have : (s.laneGroups.map (fun g => ({ env := s.loneEnv, group := some g, plan := s.lanePlan f g } : Part))).find? (fun p => p.env.slot == .s) = none := by
      rw [List.find?_eq_none]
      intro q hq
      obtain ⟨g, -, rfl⟩ := List.mem_map.mp hq
      rcases hsl with rfl | rfl | rfl <;> simp [he]
    rw [this]
  unfold State.commit State.past
  rw [hc]

/-- Effects that all belong to one phase take place group by group. -/
theorem commitEffects_phase (ph : Phase) (ps : List Part) (g : Part → State → State) (h : ∀ p ∈ ps, p.plan.effs = [(ph, g p)]) (s : State) :
    commitEffects ps s = ps.foldl (fun t p => g p t) s := by
  have hl : ps.flatMap (fun p => p.plan.effs) = ps.map (fun p => (ph, g p)) := by
    rw [List.map_eq_flatMap]
    clear s
    induction ps with
    | nil => rfl
    | cons a r ih => simp [h a (by simp), ih (fun p hp => h p (by simp [hp]))]
  have hrun (q : Phase) (s : State) : Part.run q ps s = if q = ph then ps.foldl (fun t p => g p t) s else s := by
    unfold Part.run
    rw [hl, List.foldl_map]
    clear hl h
    induction ps generalizing s with
    | nil => simp
    | cons a r ih =>
      simp only [List.foldl_cons]
      rw [ih]
      by_cases e : q = ph
      · subst e; simp
      · have : ph ≠ q := fun x => e x.symm
        simp [this, e]
  simp only [commitEffects, List.foldl_cons, List.foldl_nil, hrun]
  cases ph <;> simp

end Sys2Proof.Machine
end

