-- ==== Sys2Proof/Laws/Mem.lean ====
section
/-! SUPPORT. Byte memories and sparse tables: every operation keeps the canonical form, a write gives what was written, and leaves
every other address alone. -/

namespace Sys2Proof.Machine

/-! ## Reading -/

theorem tget_terase {α : Type} (d : α) (t : Table α) (a b : Nat) : tget d (terase t a) b = if a = b then d else tget d t b := by
  induction t with
  | nil => simp [terase, tget]
  | cons p r ih =>
    obtain ⟨k, v⟩ := p
    by_cases h : k = a
    · subst h
      have : terase ((k, v) :: r) k = terase r k := by simp [terase]
      rw [this, ih]
      by_cases hb : k = b <;> simp [tget, hb]
    · have : terase ((k, v) :: r) a = (k, v) :: terase r a := by simp [terase, h]
      rw [this]
      by_cases hk : k = b
      · subst hk; simp [tget, Ne.symm h]
      · simp [tget, hk, ih]

theorem tget_tinsert {α : Type} (d : α) (t : Table α) (a b : Nat) (v : α) (h : ∀ p ∈ t, p.1 ≠ a) :
    tget d (tinsert a v t) b = if a = b then v else tget d t b := by
  induction t with
  | nil => simp [tinsert, tget]
  | cons p r ih =>
    obtain ⟨k, w⟩ := p
    have hk : k ≠ a := h (k, w) (by simp)
    have hr : ∀ q ∈ r, q.1 ≠ a := fun q hq => h q (by simp [hq])
    unfold tinsert
    split
    · simp [tget]
    · by_cases hb : k = b
      · subst hb; simp [tget, Ne.symm hk]
      · simp [tget, hb, ih hr]

theorem terase_ne {α : Type} (t : Table α) (a : Nat) : ∀ p ∈ terase t a, p.1 ≠ a := by
  intro p hp; simpa [terase] using (List.mem_filter.mp hp).2

/-- A table reads as set at the key, and as before at every other one. -/
theorem tget_tset {α : Type} [DecidableEq α] (d : α) (t : Table α) (a b : Nat) (v : α) :
    tget d (tset d t a v) b = if a = b then v else tget d t b := by
  unfold tset
  split
  · next h => rw [tget_terase, h]
  · rw [tget_tinsert d _ a b v (terase_ne t a), tget_terase]
    by_cases h : a = b <;> simp [h]

theorem Mem.get_set (m : Mem) (a b : Nat) (v : Byte) : (m.set a v).get b = if a = b then v else m.get b := tget_tset 0 m a b v

/-- Outside the bytes written, a memory reads as before. -/
theorem Mem.get_write_outside (bs : List Byte) (m : Mem) (a b : Nat) (h : b < a ∨ a + bs.length ≤ b) : (m.write a bs).get b = m.get b := by
  induction bs generalizing m a with
  | nil => rfl
  | cons x r ih =>
    have h' : b < a + 1 ∨ a + 1 + r.length ≤ b := by simp at h; omega
    have hn : a ≠ b := by simp at h; omega
    rw [Mem.write, ih _ _ h', Mem.get_set, if_neg hn]

/-- The bytes written are read. -/
theorem Mem.get_write_inside (bs : List Byte) (m : Mem) (a i : Nat) (h : i < bs.length) : (m.write a bs).get (a + i) = bs[i] := by
  induction bs generalizing m a i with
  | nil => simp at h
  | cons x r ih =>
    cases i with
    | zero => rw [Mem.write, Mem.get_write_outside _ _ _ _ (by omega), Mem.get_set]; simp
    | succ k =>
      have hk : k < r.length := by simpa using h
      have := ih (m.set a x) (a + 1) k hk
      rw [Mem.write, show a + (k + 1) = a + 1 + k by omega, this]; rfl

/-! ## The canonical form -/

theorem twf_iff {α : Type} [DecidableEq α] (d : α) (t : Table α) :
    twf d t = true ↔ t.Pairwise (fun p q => p.1 < q.1) ∧ ∀ p ∈ t, p.2 ≠ d := by
  induction t with
  | nil => simp [twf]
  | cons p r ih =>
    cases r with
    | nil => obtain ⟨k, v⟩ := p; simp [twf]
    | cons q r =>
      obtain ⟨k, v⟩ := p
      obtain ⟨k', v'⟩ := q
      rw [twf, Bool.and_eq_true, Bool.and_eq_true, ih]
      constructor
      · rintro ⟨⟨h1, h2⟩, h3, h4⟩
        refine ⟨List.pairwise_cons.mpr ⟨?_, h3⟩, ?_⟩
        · intro x hx
          rcases List.mem_cons.mp hx with e | hx
          · subst e; simpa using h1
          · exact Nat.lt_trans (by simpa using h1) ((List.pairwise_cons.mp h3).1 x hx)
        · intro x hx
          rcases List.mem_cons.mp hx with e | hx
          · subst e; simpa using h2
          · exact h4 x hx
      · rintro ⟨h1, h2⟩
        have h1' := List.pairwise_cons.mp h1
        exact ⟨⟨by simpa using h1'.1 (k', v') (by simp), by simpa using h2 (k, v) (by simp)⟩, h1'.2, fun x hx => h2 x (by simp [hx])⟩

theorem twf_filter {α : Type} [DecidableEq α] (d : α) (t : Table α) (f : Nat × α → Bool) (h : twf d t = true) :
    twf d (t.filter f) = true := by
  rw [twf_iff] at h ⊢
  exact ⟨h.1.filter f, fun p hp => h.2 p (List.mem_filter.mp hp).1⟩

theorem tinsert_mem {α : Type} (a : Nat) (v : α) (t : Table α) (p : Nat × α) : p ∈ tinsert a v t ↔ p = (a, v) ∨ p ∈ t := by
  induction t with
  | nil => simp [tinsert]
  | cons q r ih =>
    obtain ⟨k, w⟩ := q
    unfold tinsert
    split
    · simp
    · simp only [List.mem_cons, ih]
      constructor
      · rintro (h | h | h) <;> simp [h]
      · rintro (h | h | h) <;> simp [h]

theorem twf_tinsert {α : Type} [DecidableEq α] (d : α) (t : Table α) (a : Nat) (v : α) (hv : v ≠ d) (hn : ∀ p ∈ t, p.1 ≠ a)
    (h : twf d t = true) : twf d (tinsert a v t) = true := by
  rw [twf_iff] at h ⊢
  refine ⟨?_, fun p hp => ?_⟩
  · obtain ⟨h1, -⟩ := h
    induction t with
    | nil => simp [tinsert]
    | cons q r ih =>
      obtain ⟨k, w⟩ := q
      have h1' := List.pairwise_cons.mp h1
      unfold tinsert
      split
      · next hlt =>
        refine List.pairwise_cons.mpr ⟨?_, h1⟩
        intro x hx
        rcases List.mem_cons.mp hx with e | hx
        · subst e; exact hlt
        · exact Nat.lt_trans hlt (h1'.1 x hx)
      · next hge =>
        have hk : k ≠ a := hn (k, w) (by simp)
        refine List.pairwise_cons.mpr ⟨?_, ih (fun p hp => hn p (by simp [hp])) h1'.2⟩
        intro x hx
        rcases (tinsert_mem a v r x).mp hx with e | hx
        · subst e; show k < a; omega
        · exact h1'.1 x hx
  · rcases (tinsert_mem a v t p).mp hp with e | hp
    · subst e; exact hv
    · exact h.2 p hp

theorem twf_tset {α : Type} [DecidableEq α] (d : α) (t : Table α) (a : Nat) (v : α) (h : twf d t = true) : twf d (tset d t a v) = true := by
  unfold tset
  split
  · exact twf_filter d t _ h
  · next hv => exact twf_tinsert d _ a v hv (terase_ne t a) (twf_filter d t _ h)

theorem Mem.wf_nil : Mem.wf [] = true := rfl
theorem Mem.wf_set (m : Mem) (a : Nat) (v : Byte) (h : m.wf = true) : (m.set a v).wf = true := twf_tset 0 m a v h
theorem Mem.wf_write (bs : List Byte) (m : Mem) (a : Nat) (h : m.wf = true) : (m.write a bs).wf = true := by
  induction bs generalizing m a with
  | nil => exact h
  | cons x r ih => exact ih _ _ (Mem.wf_set m a x h)
theorem Mem.wf_writeAll (l : List (Nat × Byte)) (m : Mem) (h : m.wf = true) : (m.writeAll l).wf = true := by
  induction l generalizing m with
  | nil => exact h
  | cons x r ih => exact ih _ (Mem.wf_set m x.1 x.2 h)
theorem Mem.wf_filter (m : Mem) (f : Host.Cell → Bool) (h : m.wf = true) : Mem.wf (m.filter f) = true := twf_filter 0 m f h

/-- A memory in canonical form is determined by what it reads as. -/
theorem tget_of_mem {α : Type} [DecidableEq α] (d : α) (t : Table α) (h : twf d t = true) (p : Nat × α) (hp : p ∈ t) : tget d t p.1 = p.2 := by
  rw [twf_iff] at h
  induction t with
  | nil => simp at hp
  | cons q r ih =>
    have h1 := List.pairwise_cons.mp h.1
    rcases List.mem_cons.mp hp with e | hr
    · subst e; simp [tget]
    · have : q.1 < p.1 := h1.1 p hr
      have hne : q.1 ≠ p.1 := by omega
      obtain ⟨k, w⟩ := q
      simp only at hne
      rw [tget, if_neg hne]
      exact ih ⟨h1.2, fun x hx => h.2 x (by simp [hx])⟩ hr

/-- The memory of the state after reset is in canonical form. -/
theorem State.reset_memWf : State.reset.memWf = true := rfl

end Sys2Proof.Machine
end

