-- ==== Sys2Proof/Tests/Slice0.lean ====
section
/-! SUPPORT. Tests of the model: words of the spec's encodings, refused encodings, one-step results taken from the spec's examples and
tables, and for every statement a state that meets its premises. -/

open Sys2Proof Sys2Proof.Machine

namespace Sys2Proof.Tests

/-! ## Small states -/

/-- A page of 2 MiB in HBM. -/
def frame (n : Nat) : Nat := 0x10000000 + n * 0x200000
/-- Pages 0, 1 and 2 of address space 0: R, W, X, U and ATOM; the same with SYNC; R and U alone. -/
def pages : List Tlb :=
  [{ asid := 0, vbase := 0, size := 1, frame := frame 0, attr := 0x4F }, { asid := 0, vbase := 0x200000, size := 1, frame := frame 1, attr := 0x5F },
   { asid := 0, vbase := 0x400000, size := 1, frame := frame 2, attr := 0x09 }]
/-- A handle of the first page. -/
def handle0 : HandleReg :=
  { vbase := 0, pbase := BitVec.ofNat 64 (frame 0), state := .valid, size := 1, cause := 0, attr := 0x4F, epoch := 0, asid := 0 }
def setCtx (f : Ctx → Ctx) (s : State) : State := s.modCtx f
def setX (r : Reg) (v : DWord) (s : State) : State := s.modCtx (fun c => { c with regs := { c.regs with x := c.regs.x.set r v } })
def setH (r : HReg) (v : HandleReg) (s : State) : State := s.modCtx (fun c => { c with regs := { c.regs with h := c.regs.h.set r v } })
def setV (g : Group) (r : Reg) (t : Tag) (d : VData) (s : State) : State :=
  s.modCtx (fun c => { c with regs := { c.regs with v := c.regs.v.set g ((c.regs.v.get g).set r { data := d, tag := t }) } })
def setCsrs (f : Csrs → Csrs) (s : State) : State := s.modCtx (fun c => { c with csrs := f c.csrs })
def user (s : State) : State := setCsrs (fun c => { c with prv := false }) s
def setCore (f : Core → Core) (s : State) : State := { s with core := f s.core }

/-- After reset, a context runs at supervisor level in a core whose banks are all in SCRATCH mode; it holds the core's matrix-side
state, its translation cache holds the three pages, and handle 1 the first. -/
def ready : State :=
  setH 1 handle0 (setCore (fun c => { c with bankMode := Vector.replicate 64 .scratch, matHolder := Vector.replicate 2 (some 0) })
    (setCtx (fun c => { c with status := .running, matrixSide := true, tlb := pages, pc := 0x1000 }) State.reset))
/-- One word in the issue stage, in lane group 0. -/
def lone (sl : Slot) (i : Instr) : State :=
  setCore (fun c => { c with cur := { Cur.reset with pc := 0x1000, hdr := headerOf sl, slots := [(sl, encode i, i)] } }) ready

/-! ## Premises of the statements: the step, scalar arithmetic and control -/

/-- A bundle of one scalar word, `addi x5, x6, 7`, at the pc after reset, with the tables that its fetch walks. -/
def fetching : State := State.reset.withFetchWord 32 0x00730293
def fetchedWords : Fetched → List Nat
  | .words ws => ws
  | _ => []
theorem witness_StepRunsDecodedInstruction :
    fetching.core.split = false ∧ fetching.agenda = [] ∧ fetching.turn ≠ 15 ∧ fetching.sq.hold = none ∧ fetching.ctx.status = .running ∧
    fetching.landingDue = false ∧ fetching.boundaryStep = none ∧ fetchedWords (fetching.fetchBundle fetching.ctx.pc) = [0x01001000, 0x00730293, 0, 0] ∧
    (splitBundle [0x01001000, 0x00730293, 0, 0]).hdr.indexed = false ∧ (splitBundle [0x01001000, 0x00730293, 0, 0]).headerTraps = [] ∧
    (splitBundle [0x01001000, 0x00730293, 0, 0]).slots = [(.s, 0x00730293)] ∧
    (decodeSlot (slotKind .s) 0x00730293).toOption = some (.scalarAlu (.ri .addi 5 6 7)) := by decide +kernel

theorem witness_ScalarIntegerResults :
    (lone .s (.scalarAlu (.ri .addi 5 6 7))).alone .s = true ∧
    (lone .s (.scalarAlu (.ri .addi 5 6 7))).unhindered ((aluDest (.ri .addi 5 6 7) :: aluReads (.ri .addi 5 6 7)).map .x) = true ∧
    (lone .s (.scalarMul .mul 1 2 3)).unhindered [.x 1, .x 2, .x 3] = true := by decide +kernel

theorem witness_ScalarFloatResults :
    (lone .s (.scalarFp (.arith .add true .rne 1 2 3))).alone .s = true ∧
    fpMode (fpRm (.arith .add true .rne 1 2 3)) (lone .s (.scalarFp (.arith .add true .rne 1 2 3))).ctx.csrs.frm = some .rne ∧
    (lone .s (.scalarFp (.arith .add true .rne 1 2 3))).unhindered ([.f 2, .f 3] ++ ((FpDest.f 1).tracked 4).map (fun p => p.1)) = true := by
  decide +kernel

/-- A dynamic rounding mode with a reserved frm. -/
theorem witness_ScalarFloatReservedMode :
    let s : State := setCsrs (fun c => { c with frm := 5 }) (lone .s (.scalarFp (.arith .add true .dyn 1 2 3)))
    s.alone .s = true ∧ fpMode (fpRm (.arith .add true .dyn 1 2 3)) s.ctx.csrs.frm = none := by decide +kernel

theorem witness_TransfersGoToTarget :
    (lone .s (.branch .beq 1 2 8)).alone .s = true ∧ (lone .s (.branch .beq 1 2 8)).unhindered [.x 1, .x 2] = true ∧
    taken .bne ((lone .s (.branch .bne 1 2 8)).ctx.x 1) ((lone .s (.branch .bne 1 2 8)).ctx.x 2) = false ∧
    taken .beq ((lone .s (.branch .beq 1 2 8)).ctx.x 1) ((lone .s (.branch .beq 1 2 8)).ctx.x 2) = true := by decide +kernel

/-- JTAB at the bound of its table: index 3 of 3, and index 2. -/
theorem witness_JtabTransfers :
    let s (i : DWord) : State := setX 3 i (setX 1 3 (setX 2 0x2000 (lone .s (.jtab 1 2 3))))
    (s 3).alone .s = true ∧ (s 3).sq.man.service = none ∧ (s 3).unhindered [.x 1, .x 2, .x 3] = true ∧ (s 3).ctx.x 1 ≤ (s 3).ctx.x 3 ∧
    (s 2).ctx.x 3 < (s 2).ctx.x 1 ∧ ((s 2).seen.access 0x2008 4 .read false).raises = [] ∧
    (match (s 2).seen.readScalar (s 2).scopeNow ((s 2).seen.access 0x2008 4 .read false) 4 with | .value v _ => decide (v < 2 ^ 32) | _ => false) =
      true := by decide +kernel

theorem witness_BundleGoesOnAfterWait :
    (lone .s (.wait 5 1)).alone .s = true ∧ (lone .s (.wait 5 1)).unhindered [.x 1] = true ∧
    ∀ f ∈ (lone .s (.wait 5 1)).ctx.loops, f.stop ≠ (lone .s (.wait 5 1)).core.cur.pc := by decide +kernel

/-- The first end that LOOP accepts, one bundle on; the last that it refuses; a count of 0; a fifth frame. -/
theorem witness_LoopFrames :
    let s : State := setX 1 4 (lone .s (.loop 1 1))
    let f : LoopFrame := { start := 0x2000, stop := 0x2010, count := 2 }
    let four : State := setCtx (fun c => { c with loops := [f, f, f, f] }) s
    s.alone .s = true ∧ s.unhindered [.x 1] = true ∧ (0 : BitVec 12).toInt < s.core.cur.hdr.len + 1 ∧
    s.core.cur.hdr.len + 1 ≤ (1 : BitVec 12).toInt ∧ (s.ctx.x 1).toNat % 2 ^ 32 ≠ 0 ∧ s.ctx.loops.length ≠ 4 ∧
    four.ctx.loops.length = 4 ∧ four.unhindered [.x 1] = true ∧ ((lone .s (.loop 1 1)).ctx.x 1).toNat % 2 ^ 32 = 0 := by decide +kernel

theorem witness_LoopEndTest :
    let f : LoopFrame := { start := 0xFF0, stop := 0x1000, count := 2 }
    let s : State := setCtx (fun c => { c with loops := [f] }) (lone .s (.wait 0 0))
    s.alone .s = true ∧ s.ctx.loops = f :: [] ∧ s.core.cur.pc = f.stop ∧ f.count ≠ 1 ∧ f.start ≤ f.stop ∧
    s.past.ctx.pc = 0xFF0 := by decide +kernel

/-- CSRs of each kind: read and write, at either level; read only; not in the map; for the supervisor alone. -/
theorem witness_CsrAccess :
    let s : State := lone .s (.csrrw 0x801 5 6)
    s.alone .s = true ∧ s.unhindered [.x 5, .x 6] = true ∧ csrAccess 0x801 = some (false, false) ∧ csrAccess 0xC02 = some (true, false) ∧
    csrAccess 0x100 = none ∧ csrAccess 0x5C0 = some (false, true) ∧ s.ctx.csrs.prv = true ∧ (user s).ctx.csrs.prv = false ∧
    (user s).unhindered [.x 5, .x 6] = true := by decide +kernel

theorem witness_TrapEntrySteps :
    ready.ctx.csrs.intrap = false ∧ ready.ctx.parked.length < 4 ∧ ready.ctx.seg = none ∧
    (ready.takeTrap 0xB2 0 0x1000 0x1010).ctx.csrs.tepc = 0x1000 := by decide +kernel

theorem witness_DoubleTrapStopsContext :
    let s : State := setCsrs (fun c => { c with intrap := true }) ready
    s.ctx.csrs.intrap = true ∧ s.ctx.seg = none ∧ (s.takeTrap 0x71 4 0x1000 0x1010).ctx.csrs.tcause2 = 0x71 := by decide +kernel

theorem witness_SoftwareTrapsAndPrivilege :
    (lone .s (.trap 3)).alone .s = true ∧ (lone .s (.trap 3)).unhindered [.x 3] = true ∧ (user (lone .s .halt)).alone .s = true ∧
    (user (lone .s .halt)).ctx.csrs.prv = false := by decide +kernel

theorem witness_TrapReturnAndHalt :
    let s : State := setCtx (fun c => { c with parked := [{ t0 := 3, writes := [], loops := [], arrived := none }] }) (lone .s .tret)
    (lone .s .tret).alone .s = true ∧ (lone .s .tret).ctx.csrs.prv = true ∧ (lone .s .tret).ctx.parked = [] ∧
    s.ctx.parked = [] ++ [{ t0 := 3, writes := [], loops := [], arrived := none }] ∧ s.alone .s = true := by decide +kernel

/-! ## Premises of the statements: memory, atomics, fences, barriers and handles -/

def mapsTo (r : Except Nat Machine.Trans) : Option (Loc × Bool) :=
  match r with
  | .ok t => some (t.frame, attrSync t.attr)
  | .error _ => none
def reads (r : ReadRes) : Option Nat :=
  match r with
  | .value v _ => some v
  | _ => none

theorem witness_ScalarLoadResult :
    let s : State := setX 2 0x40 (lone .s (.scalarLoad .lw 1 2 8))
    let bad : State := s.modPkg (fun p => { p with poison := [frame 0 + 0x40] })
    s.alone .s = true ∧ s.sq.man.service = none ∧ s.unhindered (.x 2 :: ((loadDest .lw 1).tracked 3).map (·.1)) = true ∧
    (s.seen.access 0x48 4 .read false).raises = [] ∧ reads (s.seen.readScalar s.scopeNow (s.seen.access 0x48 4 .read false) 4) = some 0 ∧
    reads (bad.seen.readScalar bad.scopeNow (bad.seen.access 0x48 4 .read false) 4) = none ∧ bad.ctx.seg = none := by decide +kernel

/-- The largest value of each width. -/
theorem witness_LoadValuesExtend :
    loadValue .lb 0xFF = 0xFFFFFFFFFFFFFFFF ∧ loadValue .lhu 0xFFFF = 0xFFFF ∧ loadValue .lw 0x80000000 = 0xFFFFFFFF80000000 ∧
    loadValue .flw 0x3F800000 = 0xFFFFFFFF3F800000 := by decide +kernel

theorem witness_ScalarStoreResult :
    let s : State := setX 2 0x40 (lone .s (.scalarStore .sd 2 3 0))
    s.alone .s = true ∧ s.sq.man.service = none ∧ s.unhindered (.x 2 :: storeReads .sd 3) = true ∧
    (s.seen.access 0x40 8 .write false).raises = [] ∧ s.ctx.seg = none ∧ s.isHbm (frame 0 + 0x40) = true ∧
    s.badLine (lineOf (frame 0 + 0x40)) = false ∧ s.core.cache = [] ∧ s.pkg.l2 = [] ∧ (frame 0 + 0x40) % 8 = 0 := by decide +kernel

/-- An address that is not aligned; one without a translation, at either answer of the page-fault switch; one that is not canonical; an
entry that does not allow a write. -/
theorem witness_AccessTraps :
    let s : State := setX 2 0x42 (lone .s (.scalarLoad .lw 1 2 0))
    let w : State := setX 2 0x400000 (lone .s (.scalarStore .sw 2 3 0))
    s.alone .s = true ∧ s.unhindered [.x 1, .x 2, .x 3, .f 1, .f 3] = true ∧ (0x42 : DWord).toNat % LoadOp.bytes .lw ≠ 0 ∧
    mapsTo (s.seen.translate AccessKind.read.need 0x42) = some (frame 0, false) ∧
    mapsTo (s.seen.translate AccessKind.write.need 0x42) = some (frame 0, false) ∧ s.noSegment = true ∧
    s.seen.region false (frame 0 + 0x42) = .hbm ∧
    mapsTo (s.seen.translate AccessKind.read.need 0x1000000) = none ∧ s.ctx.csrs.prv = true ∧ (user s).core.fsw.get (halfIdx .a) = false ∧
    ((0x0100000000000000 : DWord).truncate 57 : BitVec 57).signExtend 64 ≠ (0x0100000000000000 : DWord) ∧
    mapsTo (w.translate AccessKind.write.need 0x400000) = none ∧ (w.ctx.tlbHit 0x400000).isSome = true ∧
    w.ctx.tlbHit 0x1000000 = none := by decide +kernel

theorem witness_AtomicsExecuteAtHome :
    let s : State := setX 2 0x40 (lone .s (.amo .add false false false 1 2 3))
    let x : Access := s.seen.access 0x40 4 .atomic true
    s.alone .s = true ∧ s.noSegment = true ∧ s.sq.man.service = none ∧ s.unhindered [.x 1, .x 2, .x 3] = true ∧ x.raises = [] ∧
    farRegion x.region x.loc = false ∧ (s.seen.yieldLine (lineOf x.loc)).badLine x.loc = false ∧
    s.seen.releaseHolds true s.scopeNow = [] ∧ (s.seen.access 0x40 8 .read true).raises = [] ∧ (s.seen.access 0x40 8 .atomic true).raises = [] := by decide +kernel

/-- SC with its reservation and without. -/
theorem witness_Reservations :
    let s : State := setX 2 0x40 (lone .s (.sc false false false 1 2 3))
    let held : State := setCtx (fun c => { c with resv := some (frame 0 + 0x40) }) s
    let x : Access := s.seen.access 0x40 4 .write true
    s.alone .s = true ∧ s.noSegment = true ∧ s.sq.man.service = none ∧ s.unhindered [.x 1, .x 2, .x 3] = true ∧ x.raises = [] ∧
    farRegion x.region x.loc = false ∧ s.ctx.resv ≠ some (lineOf x.loc) ∧ held.ctx.resv = some (lineOf x.loc) ∧
    s.seen.releaseHolds true s.scopeNow = [] ∧
    lineOf (frame 0 + 0x7C + 3) = lineOf (frame 0 + 0x7C) := by decide +kernel

theorem witness_HomeOperationValues :
    (frame 0 + 0x48) % 8 = 0 ∧ ready.isHbm (frame 0 + 0x48) = true ∧
    (ready.homeDo none (.amo .add 4 0xFFFFFFFF) (frame 0 + 0x48) none).2.numAt (frame 0 + 0x48) 4 = 0xFFFFFFFF := by decide +kernel

/-- A fence at scope core, and one at fabric scope with every write acknowledged. -/
theorem witness_FencesComplete :
    let s : State := lone .s (.fence 0 3 3)
    let f : State := setCore (fun c => { c with cur := { c.cur with hdr := { c.cur.hdr with scope := 4 } } }) s
    s.alone .s = true ∧ s.noSegment = true ∧ s.scopeNow ≠ .fabric ∧ f.scopeNow = .fabric ∧ f.seen.farWrites .fabric = false ∧ s.seen.farWrites s.scopeNow = false ∧ (Scope.cluster ≠ .core) ∧
    ready.sq.man.live.length < ready.manSize := by decide +kernel
theorem witness_FenceI : (lone .s .fenceI).alone .s = true ∧ (lone .s .fenceI).noSegment = true := by decide +kernel
theorem witness_FenceS :
    (lone .s (.fenceS 3 1)).alone .s = true ∧ (lone .s (.fenceS 3 1)).noSegment = true ∧ (lone .s (.fenceS 3 1)).seen.farWrites (lone .s (.fenceS 3 1)).scopeNow = false := by
  decide +kernel

/-- A barrier that expects two arrivals, with one made, at the start of page 1. -/
def barrier (arrived : Nat) (s : State) : State :=
  s.setBytes (placed (frame 1) (leBytes 4 0 ++ leBytes 4 1 ++ leBytes 4 2 ++ leBytes 4 arrived ++ leBytes 4 0))
def barrierAt (s : State) : Barrier := barrierOf (fun o n => s.numAt (frame 1 + o) n)

/-- The bounded add, the top-k insertion at both bounds of K, the barrier instructions before the last arrival and at it, a generation
that is complete, and each operand check. -/
theorem witness_HomeWords :
    let s (b : DWord) : State := setX 3 b (setX 2 0x200000 (lone .s (.barr 3 2 1)))
    let k (n : DWord) : DWord := n <<< (28 : Nat)
    let x (n : Nat) : Access := (s 0).seen.access 0x200000 n .atomic true
    (s 0).alone .s = true ∧ (s 0).noSegment = true ∧ (s 0).sq.man.service = none ∧ (s 0).ctx.remote = [] ∧
    (s 0).seen.releaseHolds true (s 0).scopeNow = [] ∧ (s 0).ctx.arrived = none ∧
    (s 0).unhindered [.x 1, .x 2, .x 3] = true ∧
    (x 4).raises = [] ∧ (x 64).raises = [] ∧ farRegion (x 64).region (x 64).loc = false ∧ attrSync (x 64).trans.attr = true ∧
    ((s 0).seen.yieldLine (lineOf (x 64).loc)).badLine (x 64).loc = false ∧
    (k 2).extractLsb' 28 4 = 2 ∧ (k 8).extractLsb' 28 4 = 8 ∧ (k 1).extractLsb' 28 4 = 1 ∧ (k 9).extractLsb' 28 4 = 9 ∧
    (0xFFFFFFFF00000000 : DWord).extractLsb' 32 32 = 0xFFFFFFFF ∧
    (barrierAt (barrier 1 (s 0))).epoch = 1 ∧ (barrierAt (barrier 1 (s 0))).arrived + 1 = (barrierAt (barrier 1 (s 0))).expect ∧
    (barrierAt (barrier 0 (s 0))).arrived + 1 ≠ (barrierAt (barrier 0 (s 0))).expect ∧ (barrierAt (s 0)).epoch = 0 ∧
    (barrierAt (barrier 1 (s 0))).complete 0x1FFFFFFFF = true ∧ (barrierAt (barrier 1 (s 0))).complete 0x100000000 = false ∧
    ((setX 2 0x40 (s 0)).seen.access 0x40 64 .atomic true).raises = [] ∧
    attrSync ((setX 2 0x40 (s 0)).seen.access 0x40 64 .atomic true).trans.attr = false := by decide +kernel

/-- ACQP without a release record, and with one of an agent outside the scope unit. -/
theorem witness_PromotingAcquire :
    let s : State := setX 2 0x200000 (lone .s (.acqp 2 1))
    let other : State := s.setRel (frame 1) (some { who := { pkg := 0, core := 64, half := .a }, q := 3, scope := .die })
    (s.seen.access 0x200000 8 .read false).raises = [] ∧ attrSync (s.seen.access 0x200000 8 .read false).trans.attr = true ∧
    (s.seen.access 0x200000 8 .read false).region = .hbm ∧ (s.seen.yieldLine (frame 1)).badLine (frame 1) = false ∧
    (s.seen.yieldLine (frame 1)).acqpRequest s.seen.self s.scopeNow (frame 1) = none ∧
    ((other.seen.yieldLine (frame 1)).acqpRequest other.seen.self .package (frame 1)).isSome = true := by decide +kernel

theorem witness_BoundedAdd :
    ready.isHbm (frame 0) = true ∧ ready.numAt (frame 0) 4 + (5 : Word).toNat ≤ (5 : Word).toNat ∧
    (4 : Word).toNat < ready.numAt (frame 0) 4 + (5 : Word).toNat := by decide +kernel

theorem witness_HandleWords :
    let s (k : DWord) : State := setX 3 k (setX 2 0x40 (lone .s (.xlate 3 2 1)))
    (s 1).alone .s = true ∧ (s 1).unhindered [.x 2, .x 3, .h 1] = true ∧ 1 ≤ (1 : DWord).toNat ∧ (3 : DWord).toNat ≤ 3 ∧ 3 < (4 : DWord).toNat ∧
    (s 1).unhindered [.x 2, .x 3, .x 1] = true ∧
    -- HINV of the own context, by a shootdown, and at user level
    (4 : DWord).getLsbD 0 = false ∧ (4 : DWord).extractLsb' 4 48 = 0 ∧ (4 : DWord).getLsbD 1 = false ∧ (4 : DWord).extractLsb' 52 12 = 0 ∧
    (5 : DWord).getLsbD 0 = true ∧ (s 5).ctx.csrs.prv = true ∧ (5 : DWord).extractLsb' 4 48 = 0 ∧ (user (s 5)).ctx.csrs.prv = false ∧
    -- SPLNT of no leaf, and a reserved bit of its operand
    (0 : DWord).extractLsb' 40 12 = 0 ∧ ((s 0).seen.splinter 0 0x40 0).2 = none ∧ (1 : DWord).extractLsb' 0 8 ≠ 0 ∧ (s 5).noSegment = true ∧
    (s 5).seen.oldAccesses false (vRange ((5 : DWord).extractLsb' 52 12) 0x40 ((5 : DWord).extractLsb' 2 2).toNat) = false := by decide +kernel

def pinned (r : Except Nat (Nat × Nat)) : Option Nat :=
  match r with
  | .ok p => some p.1
  | .error _ => none
/-- Retention register 2 of die 0 over the first 64 KiB of page 0, for address space 0, with four ways. -/
def retained (s : State) : State :=
  (dieSlices 0).foldl (fun s sl => s.setRet sl 2 (2 ^ 63 + 4 * 2 ^ 56 + frame 0) (frame 0 + 65536)) s

/-- PIN of one line in one way and in twelve, of thirteen, and over a range that a register has; UNPIN with no register and with one;
PREFL2 of one line, of one past the page and of an address in no page. -/
theorem witness_RetentionWords :
    let s (k : DWord) : State := setX 3 k (setX 2 0x40 (lone .s (.pin 3 2 1)))
    let t : Machine.Trans := { frame := frame 0, size := 1, attr := 0x4F, leaf := 0 }
    let l : Loc := frame 0 + 0x40
    let r : State := retained (s 0)
    (s 0).alone .s = true ∧ (s 0).unhindered [.x 2, .x 3, .x 1] = true ∧ mapsTo ((s 0).seen.translate AccessKind.read.need 0x40) = some (frame 0, false) ∧
    t.loc (s 0).seen.die 0x40 = l ∧ (s 0).seen.region false l = .hbm ∧ 0x40 % pageBytes t.size + 64 ≤ pageBytes t.size ∧
    (0x100000040 : DWord).extractLsb' 0 32 = 64 ∧ (0x100000040 : DWord).extractLsb' 32 4 = 1 ∧ (0xC00000040 : DWord).extractLsb' 32 4 = 12 ∧
    (0xD00000040 : DWord).extractLsb' 32 4 = 13 ∧ (0xC00000040 : DWord).extractLsb' 36 28 = 0 ∧
    pinned ((s 0).seen.pinPlace (homeDie l) (locOff l) (locOff l + 64) 1) = some 0 ∧
    r.alone .s = true ∧ r.unhindered [.x 2, .x 3, .x 1] = true ∧ pinned (r.seen.pinPlace (homeDie l) (locOff l) (locOff l + 64) 1) = none ∧
    r.seen.retReg (4 * homeDie l) 2 = some (4, 0, frame 0 / 64, frame 0 / 64 + 1024, 0) ∧ r.seen.retReg (4 * homeDie l) 1 = none ∧
    (s 0).seen.retReg (4 * homeDie l) 2 = none ∧ (0x40 : DWord).extractLsb' 34 30 = 0 ∧ (0x40 : DWord).extractLsb' 32 2 ≠ 3 ∧
    0x1FFFC0 % pageBytes t.size + 128 > pageBytes t.size ∧ mapsTo ((s 0).seen.translate AccessKind.read.need 0x600000) = none := by decide +kernel

/-- BMODE of the last bank, of none, to no mode, of the other half-core's, of an attic's at user level and of a bin's. -/
theorem witness_BankModeWord :
    let b (n k : DWord) : State := setX 3 k (setX 2 n (lone .s (.bmode 3 2 1)))
    let half : State := setCore (fun c => { c with split := true }) (b 40 2)
    let attic : State := setCore (fun c => { c with atticcfg := 127 }) (user (b 63 2))
    let bin : State := setCore (fun c => { c with mat := { c.mat with bins := c.mat.bins.set 0 { c.mat.bins[0] with base := 63, nbank := 1 } } }) (b 63 2)
    (b 63 2).alone .s = true ∧ (b 63 2).noSegment = true ∧ (b 63 2).unhindered [.x 2, .x 3, .x 1] = true ∧
    ((b 63 2).ctx.x 2).toNat = (63 : Fin 64).val ∧
    ((b 63 2).ctx.x 3).toNat ≤ 2 ∧ (b 63 2).seen.foreignBank 63 = false ∧ (b 63 2).ctx.csrs.prv = true ∧ (b 63 2).seen.binBank 63 = false ∧
    (b 63 2).core.bankMode.get 63 ≠ BankMode.ofCode 2 ∧ (b 63 2).core.ranges = [] ∧ 64 ≤ ((b 64 2).ctx.x 2).toNat ∧ 2 < ((b 63 3).ctx.x 3).toNat ∧
    half.alone .s = true ∧ half.seen.foreignBank 40 = true ∧ attic.alone .s = true ∧ attic.ctx.csrs.prv = false ∧ attic.seen.inAttic 63 = true ∧
    bin.alone .s = true ∧ bin.seen.binBank 63 = true := by decide +kernel

theorem witness_EventAndTimeWords :
    let s : State := setX 2 3 (lone .s (.rdtime 2 1))
    let k : Task := { cls := 7, gang := false, size := 1, rank := 0, done := 0, spawn := 0, stream := some 5, allHere := false, budget := 900, since := 0 }
    let served : State := setCtx (fun c => { c with task := some k }) s
    s.alone .s = true ∧ s.unhindered [.x 2, .x 1] = true ∧ s.ctx.seg = none ∧ s.sq.events.length < 64 ∧ (s.ctx.x 2).extractLsb' 0 2 = 3 ∧
    s.ctx.streamId = none ∧ served.atIssue.ctx.task = some k ∧ k.stream.isSome = true := by decide +kernel

/-- BANKSW to the running bank, to a free one and to one that holds a context; CTXSAVE of every part of the other bank. -/
theorem witness_BankSwitchAndContextSave :
    let s : State := setX 2 1 (lone .s (.banksw 2 1))
    let two : State := s.modSq (fun q => { q with banks := q.banks.set 1 { Ctx.reset with status := .standby, pc := 0x3000 } })
    let save : State := (setX 3 0x87 (setX 2 0x10000 (lone .s (.ctxsave 3 2)))).withFetchWord 32 0x13
    s.alone .s = true ∧ s.noSegment = true ∧ s.ctx.csrs.prv = true ∧ s.sq.engOp = none ∧ s.unhindered [.x 2, .x 1] = true ∧
    (1 : Fin 2).val = (s.ctx.x 2).toNat % 2 ∧ (1 : Fin 2) ≠ s.sq.running ∧ (0 : Fin 2).val = ((setX 2 0 s).ctx.x 2).toNat % 2 ∧
    s.sq.loadStatus.get 1 = 0 ∧ (s.sq.banks.get 1).status = .free ∧ (two.sq.banks.get 1).status = .standby ∧
    save.alone .s = true ∧ save.unhindered [.x 2, .x 3] = true ∧ save.holdsMatrix = true ∧
    save.seen.areaRaises
      { load := false, area := save.ctx.x 2, asid := save.ctx.csrs.asid, parts := (save.ctx.x 3).extractLsb' 0 8,
        bank := otherBank save.sq.running, pieces := [], lost := false } (save.ctx.x 3) = [] := by decide +kernel

/-- A spawn descriptor at 0x40 of page 0, for one core of the die: entry 0x2000. -/
def spawner : State :=
  (setX 2 0x40 (lone .s (.spawn 2 1))).setBytes (placed (frame 0 + 0x40) (leBytes 8 0x2000 ++ leBytes 8 0 ++ leBytes 8 0x100))
def gotWords (r : Words × (State → State)) : List Nat :=
  match r.1 with
  | .got ws => ws
  | _ => []

def isBad (w : Words) : Bool :=
  match w with
  | .bad rs => !rs.isEmpty
  | _ => false

theorem witness_SpawnWords :
    let ws := gotWords (spawner.seen.readWords spawner.scopeNow 0x40 8)
    spawner.alone .s = true ∧ spawner.sq.man.service = none ∧ spawner.unhindered [.x 2, .x 1] = true ∧
    (0x40 : DWord).toNat % 64 = 0 ∧ (0x48 : DWord).toNat % 64 ≠ 0 ∧ ws = [0x2000, 0, 0x100, 0, 0, 0, 0, 0] ∧
    leastReason (spawner.seen.descReasons (spawnDesc false ws)) = none ∧
    leastReason (spawner.seen.listReasons (spawnDesc false ws) [] []) = none ∧
    spawner.seen.spawnRoom (spawner.seen.makeSpawn (spawnDesc false ws) false 0 1 [] [] []).die.val = true := by decide +kernel

/-- A READY spawn of one task for half-core A of core 0. -/
def readySpawn : Spawn :=
  { id := 1, die := 0, order := 0, state := .ready, gang := false, asid := 0, entry := 0x2000, args := 0, cores := [(0, .a)], cls := 0, sbm := 0,
    deps := [], stage := [], done := 0, bound := 0, readyAt := 0 }
/-- YIELD of a task of a gang, of a stream's service, with other work READY and with none; TASKEND as it commits and at its end. -/
theorem witness_TaskWords :
    let s : State := lone .s (.yield 1)
    let job (gang : Bool) (n : Nat) (st : Option (BitVec 14)) : Task :=
      { cls := 0, gang := gang, size := n, rank := 0, done := 0, spawn := 0, stream := st, allHere := false, budget := 0, since := 0 }
    let task (gang : Bool) (n : Nat) (st : Option (BitVec 14)) : State := setCtx (fun c => { c with task := some (job gang n st) }) s
    let more : State := s.modPkg (fun p => { p with spawns := [readySpawn] })
    s.alone .s = true ∧ s.unhindered [.x 1] = true ∧ s.ctx.task = none ∧ s.ctx.streamId = none ∧ s.seen.canYield = false ∧
    (task true 2 none).ctx.task.any (fun t => t.gang && decide (1 < t.size)) = true ∧ (task true 2 none).alone .s = true ∧
    (task false 1 (some 5)).ctx.streamId ≠ none ∧ (task false 1 (some 5)).unhindered [.x 1] = true ∧
    more.alone .s = true ∧ more.ctx.streamId = none ∧ more.seen.canYield = true ∧
    s.ctx.status = .running ∧ s.noSegment = true ∧
    (setCtx (fun c => { c with status := .ended }) s).ctx.status = .ended := by decide +kernel

/-- A stream descriptor at 0x40 of page 0: a budget of 1,000 cycles in a period of 1 ms on half-core A of core 0. -/
def streamer : State :=
  (setX 2 0x40 (lone .s (.strmAdd 2 1))).setBytes (placed (frame 0 + 0x40) (leBytes 8 0x2000 ++ leBytes 8 0 ++ leBytes 8 (1000 + 1000000 * 2 ^ 32)))

/-- STRM.ADD of a stream that is admitted, of one with no budget, of a misaligned descriptor and of one in no page; STRM.DEL of both kinds. -/
theorem witness_StreamWords :
    let none_ : State := setX 2 0x40 (lone .s (.strmAdd 2 1))
    let got (s : State) : List Nat := gotWords (s.seen.readWords s.scopeNow 0x40 8)
    let t : State := setX 2 0x4000 (lone .s (.strmDel 2 1))
    streamer.alone .s = true ∧ streamer.ctx.csrs.prv = true ∧ streamer.unhindered [.x 2, .x 1] = true ∧ streamer.sq.man.service = none ∧
    (0x40 : DWord).toNat % 64 = 0 ∧ (0x48 : DWord).toNat % 64 ≠ 0 ∧
    got streamer = [0x2000, 0, 1000 + 1000000 * 2 ^ 32, 0, 0, 0, 0, 0] ∧ (streamer.seen.admission (got streamer)).2.isSome = true ∧
    got none_ = [0, 0, 0, 0, 0, 0, 0, 0] ∧ (none_.seen.admission (got none_)).2 = none ∧
    isBad (streamer.seen.readWords streamer.scopeNow 0x600000 8).1 = true ∧
    t.alone .s = true ∧ t.ctx.csrs.prv = true ∧ t.unhindered [.x 2, .x 1] = true ∧ 2 ^ 14 ≤ (t.ctx.x 2).toNat ∧
    (0x3FFF : DWord).toNat < 2 ^ 14 := by decide +kernel

/-- The last entry of the standby shelves; a mask of lane group 0, and none; a swap. -/
theorem witness_ShelfWords :
    let s (k : DWord) : State := setX 3 k (lone .s (.shwr 3 28 1))
    (s 0).alone .s = true ∧ (s 0).holdsMatrix = true ∧ (s 0).noSegment = true ∧ (s 0).swapPending = none ∧
    (s 0).shelfFills (s 0).ctx.ident = [] ∧ (s 0).unhindered ([.x 28, .x 3, .x 1] ++ (List.finRange 32).map Res.x) = true ∧
    (0x101FF : DWord).extractLsb' 24 8 = 0 ∧ (0x101FF : DWord).extractLsb' 9 7 = 0 ∧ (28 : Reg).val ≤ 28 ∧
    (∀ g : Group, ((0x101FF : DWord).extractLsb' 16 8).getLsbD g.val = true → (s 0).ownGroup g = true) ∧
    (0x101FF : DWord).extractLsb' 16 8 = 1 ∧ (0x1FF : DWord).extractLsb' 16 8 = 0 ∧ (s 0).core.split = false := by decide +kernel

/-! ## Premises of the statements: vector words -/

/-- A vector word in lane group 0 with registers 1 to 15 of that group under one tag, and two literals. -/
def vlone (t : Tag) (i : Instr) : State :=
  (List.range 15).foldl (fun s n => setV 0 (Fin.ofNat 32 (n + 1)) t 0 s)
    (setCore (fun c => { c with cur := { c.cur with hdr := { c.cur.hdr with lit := 2 }, pool := [7, 0] } }) (lone .v0 i))

theorem witness_VectorIntegerResults :
    let s : State := vlone .int8 (.vadd 4 1 2 0)
    s.alone .v0 = true ∧ s.laneGroups = [0] ∧ s.lanesFree (fun g => [.v g 4, .v g 1, .v g 2, .v g 3] ++ maskRead g 0) = true ∧
    (s.ctx.v 0 1).tag.isInt = true ∧ (s.ctx.v 0 1).tag.isSigned = true ∧ (s.ctx.v 0 2).tag = (s.ctx.v 0 1).tag ∧
    s.loneEnv.scalarSource 1 false = some 0 := by decide +kernel

theorem witness_VectorLogicAndShifts :
    let s : State := vlone .int32 (.vand 4 1 2 0)
    s.alone .v0 = true ∧ s.lanesFree (fun g => [.v g 4, .v g 1, .v g 2] ++ maskRead g 0) = true ∧ (s.ctx.v 0 1).tag.isData = true ∧
    (s.ctx.v 0 2).tag.isData = true ∧ s.loneEnv.scalarLanes 1 false = (0, []) ∧ shiftTag (s.ctx.v 0 1).tag = true ∧
    (s.ctx.v 0 2).tag = (s.ctx.v 0 1).tag := by decide +kernel

theorem witness_VectorCompareAndMove :
    let s : State := vlone .int32 (.vcmp 4 1 2 0 0)
    s.alone .v0 = true ∧ s.lanesFree (fun g => [.v g 4, .v g 1, .v g 2, .m g 4] ++ maskRead g 0) = true ∧ laneInt (s.ctx.v 0 1).tag = true ∧
    s.loneEnv.scalarSource 0 false = some 7 ∧ (s.loneEnv.scalarLanes 0 true).2 = [] := by decide +kernel

/-- FP64 in slot V0, and FP32. -/
theorem witness_VectorFloatResults :
    let s (t : Tag) : State := vlone t (.vfadd 4 1 2 0 .rne)
    (s .fp64).alone .v0 = true ∧ (s .fp64).lanesFree (fun g => [.v g 4, .v g 1, .v g 2, .v g 3, .m g 2] ++ maskRead g 0) = true ∧
    ((s .fp64).ctx.v 0 1).tag = .fp64 ∧ ((s .fp64).ctx.v 0 2).tag = .fp64 ∧ ((s .fp64).ctx.v 0 3).tag = .fp64 ∧
    ((s .fp64).loneEnv.scalarLanes 0 true).2 = [] ∧ (s .fp32).alone .v0 = true ∧ ((s .fp32).ctx.v 0 1).tag = .fp32 := by decide +kernel

/-- Reductions of FP32 and INT32, a conversion of the last part, quantisation of eight FP32 registers with BF16 scales, and a block
opened again. -/
theorem witness_VectorReductionsAndConversions :
    let free (s : State) (d a b : Reg) : Bool :=
      s.lanesFree (fun g => [.v g d, .v g (nextReg d), .v g b] ++ (List.range 8).map (fun i => .v g (regPlus a i)) ++ maskRead g 0)
    let f : State := vlone .fp32 (.vredadd 4 1 0)
    let q : State := setV 0 2 .bf16 0 (vlone .fp32 (.vqnt4 4 8 2 0))
    let o : State := vlone .fp4b (.vdqnt4 4 6 0 .fp32 0)
    f.alone .v0 = true ∧ free f 4 1 2 = true ∧ (f.ctx.v 0 1).tag = .fp32 ∧ ((vlone .int32 (.vrediadd 4 1 0)).ctx.v 0 1).tag = .int32 ∧
    Tag.fp32.isCvt = true ∧ (1 : Nat) < max (perUnit false .fp32 / perUnit false .bf16) (perUnit false .bf16 / perUnit false .fp32) ∧
    q.alone .v0 = true ∧ free q 4 8 2 = true ∧ (8 : Reg).val % 8 = 0 ∧ (4 : Reg).val % 2 = 0 ∧ (q.ctx.v 0 2).tag = .bf16 ∧
    (∀ i < 8, (q.ctx.v 0 (regPlus 8 i)).tag = .fp32) ∧ o.alone .v0 = true ∧ (o.ctx.v 0 6).tag = .fp4b ∧ (o.ctx.v 0 (nextReg 6)).tag = .fp4b := by
  decide +kernel

theorem witness_VectorPermutesAndMasks :
    let s : State := vlone .int16 (.vpack 4 1 2 0)
    let n : State := (List.finRange 8).foldl (fun s g => setV g 1 .int32 0 s) (lone .v0 (.nsh 4 1 0 0))
    s.alone .v0 = true ∧
    s.lanesFree (fun g => [.v g 4, .v g 1, .v g (nextReg 1), .v g 2, .v g 3, .m g 2] ++ maskRead g 1 ++ maskRead g 3 ++ maskRead g 0) = true ∧
    (s.ctx.v 0 1).tag = .int16 ∧ (s.ctx.v 0 2).tag = .int16 ∧ laneInt ((vlone .int32 (.vperm 4 1 2 0)).ctx.v 0 2).tag = true ∧
    (∀ g : Group, n.unhindered [.v g 1] = true ∧ (n.ctx.v g 1).tag.isData = true) ∧
    ((setV 0 3 .raw 0 s).ctx.v 0 3).tag = .raw := by decide +kernel

/-- The last word of core SRAM; misaligned; a bank in CACHE mode; the other half-core's; the attic at user level. -/
theorem witness_LaneAccessesToCoreSram :
    let s : State := setV 0 1 .int32 (BitVec.ofNat 1024 0x1000) (vlone .int32 (.vlds 4 1 0 .int32 0))
    s.alone .v0 = true ∧ s.core.ranges = [] ∧ s.lanesFree (fun g => [.v g 4, .v g 1] ++ maskRead g 0) = true ∧
    laneInt (s.ctx.v 0 1).tag = true ∧ (s.ctx.v 0 4).tag.isData = true ∧ s.seen.sramCauses 0x1000 = [] ∧ s.seen.sramCauses 0x3FFFFC = [] ∧
    s.seen.sramCauses 0x1002 = [0x50] ∧ State.reset.sramCauses 0x1000 = [0x51] ∧
    (setCore (fun c => { c with split := true }) s).sramCauses 0x3FFFFC = [0x52] ∧
    (user (setCore (fun c => { c with atticcfg := 0x0000108A }) s)).sramCauses (10 * 65536) = [0x53] := by decide +kernel

/-- The control word in the bundle's pool: handle 1, RAW, arrival 100 for a load; the same with arrival 0 for a store. -/
theorem witness_LaneAccessesThroughHandles :
    let s (w : Nat) : State := setCore (fun c => { c with cur := { c.cur with hdr := { c.cur.hdr with lit := 1 }, pool := [w] } })
      (vlone .int32 (.vldx 4 1 0 0 0 0))
    let ld : State := s 0x100064
    ld.alone .v0 = true ∧ ld.sq.man.service = none ∧ ld.loneEnv.scalarSource 0 false = some 0x100064 ∧ 0x100064 / 2 ^ 24 = 0 ∧
    0x100064 / 2 ^ 12 % 16 = 0 ∧ (Fin.ofNat 16 (0x100064 / 2 ^ 20 % 16) : HReg) = 1 ∧
    ld.lanesFree (fun g => [.v g 4, .v g 1, .v g 2, .h 1] ++ maskRead g 0) = true ∧ laneInt (ld.ctx.v 0 1).tag = true ∧ ld.ctx.flights = [] ∧
    ld.landingsHeld + ld.laneGroups.length ≤ 256 ∧
    ld.seen.handleRaises (ld.ctx.h 1) .read false 0 = [] ∧ ld.seen.handleRaises (ld.ctx.h 1) .atomic true 0 = [] ∧ ld.noSegment = true ∧
    (s 0x100000).loneEnv.scalarSource 0 false = some 0x100000 ∧ ld.seen.handleRaises (ld.ctx.h 1) .read false (0x200000 - 4) = [] := by
  decide +kernel

/-- A vector add of FP32 registers; one whose second source is POISON. -/
theorem witness_TagChecksTrap :
    let s : State := vlone .fp32 (.vadd 4 1 2 0)
    let t : State := setV 0 2 .poison 0 (vlone .int32 (.vadd 4 1 2 0))
    s.alone .v0 = true ∧ s.ctx.seg = none ∧ s.laneGroups = [0] ∧ s.lanesFree (fun g => [.v g 4, .v g 1, .v g 2] ++ maskRead g 0) = true ∧
    (s.ctx.v 0 1).tag.isInt = false ∧ (s.ctx.v 0 2).tag = .fp32 ∧ (t.ctx.v 0 1).tag.isInt = true ∧ (t.ctx.v 0 2).tag = .poison := by
  decide +kernel

/-! ## Premises of the statements: the matrix side -/

/-- A matrix word in lane group 0, bin 0 in two FIFO banks with 1,024 bytes of INT8, and latches 0 and 1 of the group in INT8. -/
def mlone (i : Instr) : State :=
  setCore (fun c => { c with
    bankMode := (c.bankMode.set 16 .fifo).set 17 .fifo
    mat := { c.mat with
      bins := c.mat.bins.set 0 { base := 16, nbank := 2, tag := .int8, decl := 4096, head := 0, tail := 1024, occ := 1024, hwm := 1024, ovdecl := false }
      lat := c.mat.lat.set 0 ((c.mat.lat.get 0).map (fun l => { l with tag := .int8 }))
      acc := c.mat.acc.set 0 ((c.mat.acc.get 0).map (fun a => { a with tag := .int32 })) } }) (lone .m i)

theorem witness_MatrixBeats :
    let s : State := mlone (.mac 0 0 0 0 0 false)
    s.alone .m = true ∧ s.groupsOn = true ∧ s.holdsMatrix = true ∧ s.core.queues.toList.all (fun q => q.cmds.isEmpty) = true ∧
    s.binUsable 0 = true ∧ s.blocksFree (fun g => [.acc g 0 0]) = true ∧
    s.blocksFree (fun g => [.acc g 0 0, .acc g 0 1, .acc g 0 2, .acc g 0 3]) = true ∧
    (pairing (s.bin 0).tag (s.core.mat.latch 0 0).tag).map (fun p => p.acc) = some .int32 ∧ (s.core.mat.bank 0 0).tag = .int32 ∧
    sliceBytes (s.bin 0).tag * s.laneGroups.length ≤ (s.bin 0).occ := by decide +kernel

/-- The greatest sum that one element of a beat can start from, with a product of one: it wraps. -/
theorem witness_BeatLands :
    let one : Terms := { nan := false, pinf := false, ninf := false, notNegZero := true, sum := { m := 1, e := 0 } }
    (List.replicate 256 one).length = 256 ∧ (∀ t ∈ List.replicate 256 one, t.sum.e = 0) ∧
    (((mlone .mnop).core.mat.beat 0 0 0 .int32 true false false (List.replicate 256 one)).bank 0 0).tag = .int32 := by decide +kernel

theorem witness_MatrixDrainsAndClears :
    let s : State := setV 0 5 .int32 0 (mlone (.mdrain 0 0 0 0 5 0 false))
    let all (x : Fin 4) (g : Group) : List Res := ([0, 1, 2, 3] : List (Fin 4)).map (fun k => .acc g x k)
    s.alone .m = true ∧ s.holdsMatrix = true ∧ s.core.queues.toList.all (fun q => q.cmds.isEmpty) = true ∧
    s.lanesFree (fun g => [.v g 5, .v g (nextReg 5)] ++ all 0 g ++ all (Fin.ofNat 4 (0 + 1)) g) = true ∧
    s.blocksFree (fun g => all 0 g ++ all (Fin.ofNat 4 (0 + 1)) g) = true ∧ (s.core.mat.bank 0 0).tag = .int32 ∧
    (drainTarget .int32 0).isSome = true ∧ (s.ctx.v 0 5).tag.isData = true ∧ (s.ctx.v 0 5).tag ≠ .fp4b ∧ (1 : Fin 8).val ≤ 1 ∧
    (0 : Fin 4).val % 2 = 0 ∧
    -- a pair of FP4B registers into a pair of latches
    (let f : State := setCore (fun c => { c with mat := { c.mat with lat := c.mat.lat.set 0 ((c.mat.lat.get 0).map (fun l => { l with tag := .fp4b })) } })
       (setV 0 6 .fp4b 0 (setV 0 7 .fp4b 0 (mlone (.mlatch 0 0 6))))
     f.alone .m = true ∧ f.lanesFree (fun g => [.v g 6, .v g (nextReg 6)] ++ all 0 g ++ all (Fin.ofNat 4 (0 + 1)) g) = true ∧
     (6 : Reg).val % 2 = 0 ∧ (f.ctx.v 0 6).tag = .fp4b ∧ (f.ctx.v 0 (nextReg 6)).tag = .fp4b ∧
     (f.core.mat.latch 0 (nextLatch 0)).tag = .fp4b) := by decide +kernel

def mv0 (i : Instr) : State :=
  let s := mlone i
  setV 0 5 .int32 0 (setCore (fun c => { c with cur := { c.cur with hdr := headerOf .v0, slots := [(.v0, encode i, i)] } }) s)

theorem witness_AccumulatorRowsAndBins :
    let s : State := mv0 (.vacr 5 31 3 0)
    let d : State := setV 0 5 .fp64 0 (setCore (fun c => { c with mat := { c.mat with
      acc := c.mat.acc.set 0 ((c.mat.acc.get 0).map (fun a => { a with tag := .fp64 })) } }) s)
    let p : State := setV 0 5 .int8 0 s
    s.alone .v0 = true ∧ s.holdsMatrix = true ∧
    s.lanesFree (fun g => [.v g 5, .acc g (evenOf 3) 3, .acc g (oddOf 3) 3] ++ maskRead g 0) = true ∧
    s.blocksFree (fun g => [.acc g (evenOf 3) 3, .acc g (oddOf 3) 3]) = true ∧ (s.core.mat.bank 0 3).tag ≠ .poison ∧
    (s.ctx.v 0 5).tag = (s.core.mat.bank 0 3).tag ∧ (d.core.mat.bank 0 0).tag = .fp64 ∧ (d.ctx.v 0 5).tag = .fp64 ∧
    s.binUsable 0 = true ∧ s.ctx.seg = none ∧ (p.ctx.v 0 5).tag = (p.bin 0).tag ∧ (p.bin 0).occ + 128 ≤ (p.bin 0).nbank * 65536 ∧
    128 * s.laneGroups.length ≤ (s.bin 0).occ := by decide +kernel

/-- BINSET of bin 7 over the last two banks, which stand in FIFO mode, and its status where they do not; a bin that holds bytes. -/
theorem witness_BinWords :
    let x : DWord := 0x5007 ||| (62 : DWord) <<< (6 : Nat)
    let s : State := setX 3 0 (setX 2 (BitVec.ofNat 64 (7 + 62 * 2 ^ 6 + 2 * 2 ^ 12 + 3 * 2 ^ 20)) (lone .s (.binset 3 2 1)))
    let k : Bin := (mlone .mnop).bin 0
    x ≠ 0 ∧ s.alone .s = true ∧ s.holdsMatrix = true ∧ s.noSegment = true ∧ s.unhindered [.x 2, .x 3, .x 1] = true ∧
    s.core.queues.toList.all (fun q => q.cmds.isEmpty) = true ∧ (7 : MReg).val = ((s.ctx.x 2).extractLsb' 0 3).toNat ∧ 7 ∈ s.ownBins ∧
    (s.ctx.x 2).extractLsb' 3 3 = 0 ∧ (s.ctx.x 2).extractLsb' 19 1 = 0 ∧ (s.ctx.x 2).extractLsb' 24 39 = 0 ∧
    s.binsetStatus 7 62 2 3 0 false ≠ 0 ∧
    (setCore (fun c => { c with bankMode := (c.bankMode.set 62 .fifo).set 63 .fifo }) s).binsetStatus 7 62 2 3 0 false = 0 ∧
    k.occ + 128 ≤ k.nbank * 65536 ∧ k.base + k.nbank ≤ 64 ∧ k.tail = (k.head + k.occ) % (k.nbank * 65536) := by decide +kernel

/-! ## Premises of the statements: commands of the copy slots -/

/-- A command in slot C0. -/
def clone (i : Instr) : State := lone .c0 i
def quiet : Compl := { xr := 0, xb := 0, xg := 0, acq := false, rel := false }

/-- A copy of 4 bytes from handle 1 to the last word of core SRAM; a gather of one row of one word; a latch fill; a shelf fill of its
last entry; a bin fill. -/
theorem witness_CommandsEnterQueue :
    let i : Instr := .cpy { src := .handle 1, dst := .sram, xs := 2, xd := 3, xn := 4, hint := 0, f := quiet } .raw false
    let s : State := setX 4 4 (setX 3 0x3FFFFC (clone i))
    let g : State := mlone .mnop
    s.alone .c0 = true ∧ s.sq.man.service = none ∧ (s.core.queues.get (s.queueOf .c0)).cmds.length < 32 ∧
    s.unhindered (([2, 3, 4] ++ [quiet.xr, quiet.xb, quiet.xg]).map Res.x ++ [.h 1]) = true ∧ (s.seen.completion quiet 1).raises = [] ∧
    s.ownRanges.length + 2 ≤ 64 ∧ (s.ctx.x 4).toNat % 2 ^ 32 = 4 ∧ s.seen.sideOk (.handle 1) 0 0 4 .read = true ∧
    s.seen.sideOk .sram 0x3FFFFC 0 4 .write = true ∧ s.seen.sideOk .sram 0x3FFFFC 0 8 .write = false ∧
    s.seen.sideOk (.handle 1) 0 0 0 .read = true ∧ s.seen.sideOk (.handle 1) 0 0 0 .write = true ∧ s.holdsMatrix = true ∧ s.ownGroup 0 = true ∧
    s.seen.sideOk (.handle 1) 0 (16384 * 0 + 32 * 511 : Nat) (16384 * 7 + 32 * 512 : Nat) .read = true ∧ g.seen.binUsable 0 = true ∧
    s.seen.sideOk (.handle 1) 0 0 16 .write = true ∧ s.ctx.csrs.prv = true ∧ (4095 : Fin 4096).val < 4096 := by decide +kernel

/-- The descriptor of a chain of one participant, one chunk of 4 bytes, INT8: it lies at 0x40 of page 0. -/
def chained : State :=
  (setX 4 0x40 (clone (.bcast { hs := 1, hd := 1, xs := 2, xd := 3, xn := 4, f := quiet } false))).setBytes
    (placed (frame 0 + 0x40) (leBytes 8 (2 ^ 52 + 3 * 2 ^ 40) ++ leBytes 8 (2 ^ 32 + 4 * 2 ^ 40)))
def descBytes (r : DescRead × Access) : List Byte :=
  match r.1 with
  | .bytes bs _ => bs
  | _ => []

theorem witness_DescriptorCommandsEnterQueue :
    let s := chained
    let bs := descBytes (s.seen.readDesc s.scopeNow 0x40)
    let w (i lo n : Nat) : Nat := leNat ((bs.drop (8 * i)).take 8) / 2 ^ lo % 2 ^ n
    s.alone .c0 = true ∧ s.sq.man.service = none ∧ (s.core.queues.get (s.queueOf .c0)).cmds.length < 32 ∧ (0x40 : DWord).toNat % 64 = 0 ∧
    bs.length = 64 ∧ w 0 60 4 = 0 ∧ w 1 39 1 = 0 ∧ w 1 53 11 = 0 ∧ w 5 20 44 = 0 ∧ w 0 52 8 = 1 ∧ w 1 32 7 = 1 ∧ w 1 40 13 = 4 ∧
    (Tag.ofCode (w 0 40 4)) = .int8 ∧ w 2 0 64 = 0 ∧ w 3 0 64 = 0 ∧ w 4 0 64 = 0 ∧ w 0 44 8 = 0 ∧
    s.unhindered ([2, 3, 4, 0, 0, 0].map Res.x ++ [1, 1].map Res.h) = true ∧ (s.seen.completion quiet 1).raises = [] := by decide +kernel

/-- A ROUTE descriptor of one token, K 1, CTX 2, FP32 rows of 128 bytes, with handle 1 for every side. -/
def routing : List Byte :=
  leBytes 8 (2 ^ 32 + 2 ^ 48 + 2 * 2 ^ 51) ++ leBytes 8 (Tag.fp32.code * 2 ^ 16 + 2 ^ 24 + 2 ^ 28) ++ leBytes 48 0

theorem witness_routing :
    let w (i lo n : Nat) : Nat := leNat ((routing.drop (8 * i)).take 8) / 2 ^ lo % 2 ^ n
    let s := clone (.route { hs := 1, hd := 1, xs := 2, xd := 3, xn := 4, f := quiet })
    w 0 55 9 = 0 ∧ (∀ i ∈ [4, 5, 6, 7], w i 0 64 = 0) ∧ 0 < w 0 32 16 ∧ 1 ≤ w 0 48 3 ∧ w 0 48 3 ≤ 4 ∧ 2 ≤ w 0 51 4 ∧ w 0 48 3 ≤ w 0 51 4 ∧
    w 0 51 4 ≤ 8 ∧ Tag.ofCode (w 1 16 4) = .fp32 ∧ w 1 20 4 ≤ 9 ∧ (Fin.ofNat 16 (w 1 24 4) : HReg) = 1 ∧
    s.seen.sideOk (.handle 1) 0 0 128 .read = true ∧ s.seen.sideOk (.handle 1) 0 0 64 .write = true := by decide +kernel

/-- SEALCK over 8 bytes of zeros whose seal stands in the page, and over other bytes; a ticket that is unknown. -/
theorem witness_ImmediateCommands :
    let s : State := setX 4 8 (setX 3 0x100 (clone (.sealck 1 1 2 3 4 .int32 false)))
    let l := (s.ctx.h 1).loc s.die 0
    let k := (s.ctx.h 1).loc s.die 0x100
    let sealed : State := s.setBytes (placed k (sealBytes (sealOf .int32 (s.bytesAt l 8))))
    s.alone .c0 = true ∧ s.sq.man.service = none ∧ s.unhindered [.x 2, .x 3, .x 4, .h 1] = true ∧ s.seen.sideOk (.handle 1) 0 0 8 .read = true ∧
    s.seen.sideOk (.handle 1) 0x100 0 16 .read = true ∧ s.away l = false ∧ s.away k = false ∧ s.badRange l 8 = false ∧ s.badRange k 16 = false ∧
    sealOf .int32 (sealed.bytesAt l 8) = sealRead (sealed.bytesAt k 16) ∧ sealOf .int32 (s.bytesAt l 8) ≠ sealRead (s.bytesAt k 16) ∧
    s.ctx.seg = none ∧ expertDesc (s.bytesAt l 64) = none ∧ (s.ticketCmd 5).isNone = true ∧ s.core.ranges = [] ∧
    s.seen.sideOk .sram 0x3FFFF0 0 16 .write = true := by decide +kernel

/-! ## Premises of the statements: steps of the issue stage, of a bundle boundary and of the scheduler -/

def setSeq (f : Seq → Seq) (s : State) : State := s.modSq f
def landing (w : Write) : Flight := { seq := 0, issued := 0, land := 3, w := w, vflags := 0, fflags := 0, replay := false }

/-- A bundle that issues; one that waits at a rendezvous, and its watchdog; a result that lands; a pop that waits for bytes and a push
that waits for room, at the end of the watchdog's count. -/
theorem witness_IssueStageSteps :
    let s : State := lone .s (.scalarAlu (.ri .addi 5 6 7))
    let f : Flight := landing (.v 0 3 1 1 .int32)
    let l : State := setCtx (fun c => { c with flights := [f] }) s
    let r : State := setSeq (fun q => { q with hold := some .rendezvous, binwd := 5, waited := 5 }) s
    let empty : State := setSeq (fun q => { q with hold := some (.bins true), binwd := 5, waited := 5 }) (mv0 (.vpop 5 0))
    let pop : State := setCore (fun c => { c with mat := { c.mat with bins := c.mat.bins.set 0 { (c.mat.bins.get 0) with occ := 0, tail := 0 } } }) empty
    let push : State := setCore (fun c => { c with cur := { c.cur with slots := [(.v0, 0, .vpush 5 0)] }, mat := { c.mat with
      bins := c.mat.bins.set 0 { (c.mat.bins.get 0) with occ := 131072, tail := 0 } } }) (setSeq (fun q => { q with hold := some (.bins false) }) empty)
    s.ctx.status = .running ∧ s.bundleClear = true ∧ s.meets s.core.cur = false ∧ s.core.cur.hdr.indexed = false ∧ s.ctx.seg = none ∧
    s.core.split = false ∧ State.reset.ctx.status ≠ .running ∧ s.ctx.flights = [] ∧
    firstFlight l.ctx.flights = some f ∧ f.late = false ∧ s.sq.hold ≠ some .rendezvous ∧ r.sq.hold = some .rendezvous ∧ r.bundleClear = true ∧
    r.sq.binwd ≠ 0 ∧ r.sq.binwd.toNat ≤ r.sq.waited ∧
    pop.alone .v0 = true ∧ pop.laneGroups ≠ [] ∧ pop.binUsable 0 = true ∧ (pop.bin 0).occ < 128 ∧ pop.core.cur.odd = [] ∧ pop.holdsMatrix = true ∧
    push.alone .v0 = true ∧ push.binUsable 0 = true ∧ push.holdsMatrix = true ∧ (push.bin 0).nbank * 65536 < (push.bin 0).occ + 128 := by
  decide +kernel

/-- A shelf entry of class 0 with a MNOP, valid in lane group 0, and an index word that names it. -/
def indexed : State :=
  setCore (fun c => { c with
    cur := { Cur.reset with pc := 0x1000, hdr := { Header.reset with grp := 1, indexed := true, v0 := true }, slots := [], pool := [] } }) ready
theorem witness_indexed : indexed.core.cur.hdr.indexed = true ∧ indexed.ctx.status = .running := by decide +kernel

def copyCmd (active : Bool) (next : Nat) : Cmd :=
  { num := 1, active := active, job := .copy (.sram 0) (.sram 0x3FFFFC) 1 4 0 0 0 none, items := 1, next := next,
    recs := if next = 1 then [(0, 0)] else [], arr := [], orig := [], scope := .core, acq := false, rel := false, report := none, bar := none, gen := none,
    half := .a, owner := 0, asid := 0, held := false, inSeg := false, revoked := false, result := 0, moved := 0, asked := none, far := [], reply := none,
    lost := false, forming := [], user := false, fin := 0, arv := 0, refused := false }
/-- A CPYSH of one entry. -/
def shelfCmd : Cmd := { copyCmd true 0 with job := .shelf (.sram 0) 1 0 1 0 }
def queued (c : Cmd) : State := setCore (fun k => { k with queues := k.queues.set 0 { Queue.reset with cmds := [c], count := 1 } }) ready

/-- A shelf swap that waits for generation 0 of a barrier. -/
def waiting : SwapWait := { loc := frame 1, gen := some 0, c0 := 1, c1 := 0, seen := none, asked := false }
/-- Cause 0xBF pending and enabled, and 0xB8; an open segment to rewind; another context's matrix-side state; a mode change; a swap. -/
theorem witness_BoundarySteps :
    let pend (n : Nat) : State := setCtx (fun c => { c with pend := BitVec.ofNat 8 (2 ^ n), en := 0xFF, csrs := { c.csrs with ie := true } }) ready
    let g : Segment :=
      { markPc := 0x1000, markRc := 4, markSeq := 0, csrs := Csrs.reset, loops := [], bins := Vector.replicate 8 Bin.reset, log := [.x 5 7],
        landed := [], charge := 0, why := none, stores := [], bufBytes := 0, events := [], freed := Vector.replicate 8 0, again := false, seqMark := 0 }
    let w : State := setSeq (fun q => { q with hold := some (.rewind 0x21) }) (setCtx (fun c => { c with seg := some g }) ready)
    let m : State := setCore (fun c => { c with matHolder := Vector.replicate 2 (some 1) }) ready
    let change : State := { State.reset with core := { State.reset.core with splitPend := true } }
    let swap : State := setCore (fun c => { c with mat := { c.mat with swap := c.mat.swap.set 0 (some waiting) } }) ready
    let roused : State := setSeq (fun q => { q with banks := q.banks.set 1 { Ctx.reset with status := .halted, pend := 0x80, en := 0xFF, csrs := { Csrs.reset with ie := true } } }) ready
    let filling : State := setCore (fun k => { k with queues := k.queues.set 0 { Queue.reset with cmds := [shelfCmd], count := 1 } }) swap
    ready.ctx.asyncCause = none ∧ (pend 7).ctx.csrs.ie = true ∧ ((pend 7).ctx.pend &&& (pend 7).ctx.en).getLsbD 7 = true ∧
    (∀ j < 7, ((pend 7).ctx.pend &&& (pend 7).ctx.en).getLsbD j = false) ∧ ((pend 0).ctx.pend &&& (pend 0).ctx.en).getLsbD 0 = true ∧
    (pend 7).ctx.parked.length < 4 ∧ (pend 7).ctx.seg = none ∧ w.sq.hold = some (.rewind 0x21) ∧ w.ctx.seg = some g ∧ w.segBusy = false ∧
    w.ctx.csrs.intrap = false ∧ ready.matHeldByOther = false ∧ m.matHeldByOther = true ∧ change.core.splitPend = true ∧
    change.core.queues.toList.all (fun q => q.cmds.isEmpty) = true ∧ change.coreBound = false ∧ ready.coreBound = true ∧
    swap.swapPending = some waiting ∧
    swap.fillsBefore waiting = [] ∧ swap.swapReady waiting = false ∧ swap.swapAsks waiting = false ∧ swap.away waiting.loc = false ∧
    filling.swapReady { waiting with gen := none } = true ∧ filling.fillsBefore { waiting with gen := none } ≠ [] ∧
    swap.swapReady { waiting with gen := none } = true ∧ ready.rousable = false ∧ ready.ctx.asyncCause = none ∧
    (roused.sq.banks.get (otherBank roused.sq.running)).roused = true ∧ roused.ctx.asyncCause = none := by decide +kernel

def stream (budget next : Nat) (leaving : Bool) : Stream :=
  { id := 5, entry := 0x2000, args := 0, budget := budget, period := 1000, core := 0, half := .a, asid := 0, sbm := 0, next := next, done := 0,
    leaving := leaving, ready := false }

/-- Contexts that run, wait, are halted and hold a page fault; a quantum and a budget that are used up; a period at its start. -/
theorem witness_ContextSteps :
    let k (b : Nat) : Task := { cls := 7, gang := false, size := 1, rank := 0, done := 0, spawn := 0, stream := some 5, allHere := false, budget := b, since := 0 }
    let stop (b : BankStatus) (s : State) : State := setCtx (fun c => { c with status := b }) s
    let two (b : BankStatus) (s : State) : State := setSeq (fun q => { q with banks := q.banks.set 1 { (q.banks.get 1) with status := b } }) s
    let fault : State := setCtx (fun c => { c with pfValid := true, pfCause := 0x60, pfva := 0x1234 }) (stop .standby ready)
    let used : State := (setCtx (fun c => { c with task := some (k 0) }) ready).modPkg (fun p => { p with streams := [stream 0 9 false] })
    ready.readyStreams ready.core.active = [] ∧ ready.ctx.status = .running ∧ ready.mateBank ready.ctx = none ∧
    (two .standby ready).canRun (otherBank ready.sq.running) = true ∧ ready.canRun (otherBank ready.sq.running) = false ∧
    (stop .standby ready).canRun ready.sq.running = true ∧ (stop .standby ready).ctx.status = .standby ∧
    (stop .standby ready).ctx.pfValid = false ∧ (stop .halted (two .standby ready)).ctx.status = .halted ∧
    ((two .standby ready).sq.banks.get (otherBank ready.sq.running)).status = .standby ∧ ready.quantumOver = false ∧ ready.budgetOver = false ∧
    used.budgetOver = true ∧ used.ctx.streamId = some 5 ∧ used.pkg.streams.find? (fun y => y.id == 5) = some (stream 0 9 false) ∧
    used.endedStream 5 = none ∧ (used.seqOf .a).now / unitNs < (stream 0 9 false).next ∧ (stream 0 0 true).next ≤ (used.seqOf .a).now / unitNs ∧
    fault.ctx.pfValid = true ∧ fault.ctx.csrs.intrap = false ∧ fault.ctx.parked.length < 4 ∧
    (0 : Fin 128).val = ready.coreId.toNat ∧ (127 : Fin 128).val ≠ ready.coreId.toNat ∧
    (setCore (fun c => { c with split := true, b := { c.b with banks := c.b.banks.set 0 { Ctx.reset with status := .halted } } }) ready).core.b.ctx.status =
      .halted := by decide +kernel

def spawn (st : SpawnState) (cores : List (Nat × Half)) : Spawn :=
  { id := 1, die := 0, order := 0, state := st, gang := false, asid := 0, entry := 0x2000, args := 9, cores := cores, cls := 3, sbm := 0, deps := [],
    stage := [], done := 0, bound := 0, readyAt := 0 }

/-- The launch ring with one record, refused for its entry and accepted; a spawn in each state; a bank that is free for it. -/
theorem witness_SchedulerSteps :
    let ring (entry : Nat) : State :=
      ((((State.reset.setDev (devSched 0 0) 0x60000001).setDev (devSched 0 0x18) 1).setDev 0x018 0x10000).setBytes
        (placed 0x60000000 (leBytes 8 entry ++ leBytes 8 0 ++ leBytes 8 0x100))).setBytes (placed 0x10000 (leBytes 8 0x20001))
    let desc (s : State) : SpawnDesc := spawnDesc true ((List.range 8).map (fun i => s.numAt (0x60000000 + 8 * i) 8))
    let has (x : Spawn) : State := State.reset.modPkg (fun p => { p with spawns := [x] })
    (ring 0x2000).dev (devSched 0 0) = 0x60000001 ∧ (ring 0x2000).region true 0x60000000 = .hbm ∧ (ring 0x2000).badLine 0x60000000 = false ∧
    leastReason ((ring 0x2008).descReasons (desc (ring 0x2008))) = some 1 ∧ leastReason ((ring 0x2000).descReasons (desc (ring 0x2000))) = none ∧
    (ring 0x2000).asidValid (desc (ring 0x2000)).asid = true ∧
    (match (ring 0x2000).launchLists (desc (ring 0x2000)).asid (desc (ring 0x2000)).lists with
      | .got bs => bs.isEmpty && leastReason ((ring 0x2000).listReasons (desc (ring 0x2000)) [] []) == none &&
          (ring 0x2000).spawnRoom ((ring 0x2000).holdingDie (desc (ring 0x2000)) ((ring 0x2000).maskCores []).1)
      | _ => false) = true ∧
    (has (spawn .posted [(0, .a)])).findSpawn 0 1 = some (spawn .posted [(0, .a)]) ∧ (spawn .posted [(0, .a)]).deps = [] ∧
    (has (spawn .placing [(0, .a)])).findSpawn 0 1 = some (spawn .placing [(0, .a)]) ∧ (spawn .placing [(0, .a)]).cores.length ≤ 0 + 1 ∧
    (spawn .placing [(0, .a)]).cores[0]? = some (State.reset.coreId.toNat, .a) ∧ (has (spawn .placing [(0, .a)])).freeBank .a = some 0 ∧
    (has (spawn .posted [])).choiceCore 0 = none ∧ (has (spawn .ready [(0, .a)])).choiceCore 0 = some (0, .a) ∧
    ((has (spawn .ready [(0, .a)])).choose 0 (0, .a) none).1.isSome = true := by decide +kernel

/-! ## Premises of the statements: engines, arrivals, device and host -/

/-- A command that starts, one with an item to handle, and one whose items are all handled. -/
theorem witness_EngineSteps :
    (queued (copyCmd false 0)).startable 0 = some (copyCmd false 0) ∧ ready.startable 0 = none ∧ ready.liveCmd 0 1 = none ∧
    (queued (copyCmd true 0)).liveCmd 0 1 = some (copyCmd true 0) ∧ (copyCmd true 0).items = (4 + 4095) / 4096 ∧ 0x3FFFFC + 4 ≤ 2 ^ 22 ∧
    ready.core.sramBad = [] ∧ ready.ctx.seg = none ∧ (copyCmd true 0).complete = false ∧ (copyCmd true 1).complete = true ∧
    (1 : Fin 8) ≠ ready.dieFin ∧ ready.liveColls = [] ∧ ready.fetchReady 7 = false ∧
    (ready.modPkg (fun p => { p with fetches := [{ entry := 7, started := true }] })).pkg.fetches.any (fun f => f.entry == 7 && f.started) = true := by
  decide +kernel

/-- A line that is homed here and one that is not; a line with a poison marker; a manifest entry to promote; an answer awaited. -/
theorem witness_ArrivalSteps :
    let bad : State := ready.modPkg (fun p => { p with poison := [frame 0] })
    let e : ManEntry := { seq := 3, line := some (frame 1), scope := .die, prom := .cluster, bank := 0 }
    let live : State := setSeq (fun q => { q with man := { q.man with live := [e] } }) ready
    let r : Remote := { tag := 7, loc := 2 ^ 43 + 64, bytes := 8, answer := none, lost := false }
    let ask (what : Out) (who : Asker) : State :=
      ready.modPkg (fun p => { p with requests := [{ tag := 7, dest := some 1, key := (0, 0), port := none, left := false, early := false, what := what, who := who }] })
    let waits : State := setCtx (fun c => { c with remote := [r] }) (ask (.read (2 ^ 43 + 64) 8) (.context ready.ctx.ident))
    let w : RelRec := { who := { pkg := 0, core := 1, half := .a }, q := 3, scope := .die }
    let rel : State := ready.modPkg (fun p => { p with rel := [(frame 0, w)] })
    let ask_ : LaneAsk := { lane := 0, loc := 2 ^ 43 + 64, tag := 7, got := none, held := 0, heldMask := 0 }
    let f : Flight := landing (.landing 0 3 1 .int32 [ask_] false)
    let guest : State := ready.modPkg (fun p => { p with l2 := [{ slice := Fin.ofNat 32 (guestSlice 1 (frame 0)), way := 0, line := frame 0, hint := 0, age := 0, guest := some [1] }] })
    ready.homed (lineOf (2 ^ 43)) = false ∧ ready.isHbm (lineOf (frame 0 + 63)) = true ∧ ready.homed (frame 0) = true ∧ bad.badLine (frame 0) = true ∧
    homeReads (.lr 4) = true ∧ ready.badLine (frame 0) = false ∧ live.core.active = .a ∧ live.sq.man.service = none ∧
    live.sq.man.live.find? (fun e => e.seq == 3) = some e ∧ e.prom.code < Scope.package.code ∧
    ready.sq.man.live.find? (fun e => e.seq == 3) = none ∧ waits.ctx.remote = [r] ∧ (waits.request? 7).isSome = true ∧
    waits.pkg.barred = [] ∧ (ready.request? 7).isNone = true ∧ ((ask (.write [(2 ^ 43, 0)] .fabric false) (.store .a)).request? 7).isSome = true ∧
    ready.pkg.barred = [] ∧ ready.answeredBefore w.who 7 = none ∧ rel.acqpRequest { pkg := 0, core := 9, half := .a } .package (frame 0) = some w ∧ guest.guestIn 1 (frame 0) = some [1] ∧
    (setCtx (fun c => { c with flights := [f] }) ready).ctx.flights[0]? = some f ∧ (landing .flags).late = false ∧
    ((State.reset.withFetchWord 32 0x13).codeLoc 0).toOption = some 0 ∧ (State.reset.withFetchWord 32 0x13).isHbm 0 = true ∧
    mapsTo ((State.reset.withFetchWord 32 0x13).walk 0 0 AccessKind.read.need false) = some (0, false) ∧
    mapsTo (ready.walk 0 0x1000 AccessKind.read.need false) = none ∧
    ready.pkg.replicas.find? (fun p => p.1 == 1) = none := by decide +kernel

theorem witness_DeviceAndPortSteps :
    let full : State := State.reset.setDev (devRing 0x18) 0x100000000
    bitsOf (ready.dev (devSec 0)) 0 4 = 0 ∧ ready.coreBound = true ∧ State.reset.coreBound = false ∧
    bitsOf ((State.reset.setDev (devSec 0) 1).dev (devSec 0)) 0 4 ≠ 0 ∧ isEcam 0x028 = false ∧
    (1 : Word).getLsbD 0 ≠ (State.reset.core.split != State.reset.core.splitPend) ∧ State.reset.atticFits = true ∧
    State.reset.ringFull = false ∧ (full.dev (devRing 0x18)).toNat % 2 ^ 32 = 0 ∧
    (State.reset.dev (devSec 8)).toNat % 2 ^ 32 < (1 : Word).toNat ∧ (State.reset.dev (devSec 0x40)).getLsbD 63 = false ∧
    ((State.reset.setDev (devSec 0x40) 0x8000000000000000).dev (devSec 0x40)).getLsbD 63 = true := by decide +kernel

/-- The last byte that the host can write; a scrubber on and off; a leaf to migrate, with no migration, and one held off. -/
theorem witness_HostAndReliabilitySteps :
    let s : State := State.reset.withFetchWord 32 0x13
    let m : Migration := { asid := 0, va := 0, leaf := placedTable + 0x12000, moving := false, held := true, doneAt := none, leafWord := none }
    let held : State := s.modPkg (fun p => { p with migrations := [m] })
    (2 ^ 40 - 1) + [(0 : Byte)].length ≤ 2 ^ 40 ∧ 2 ^ 40 < 2 ^ 40 + [(0 : Byte)].length ∧ (s.dev (devRel 0 0)).getLsbD 63 = true ∧
    ((s.setDev (devRel 0 0) 0x3E8).dev (devRel 0 0)).getLsbD 63 = false ∧ s.badLine (s.scrubLine 0) = false ∧
    s.leafOf 1 0 = none ∧ s.leafOf 0 0 = some (placedTable + 0x12000, 2) ∧ (s.numAt (placedTable + 0x12000) 8).testBit 12 = false ∧
    s.migrationOf 0 (pageOf 0 2) = none ∧ held.migrationOf 0 (pageOf 0 2) = some m ∧ m.held = true ∧ held.heldOff m = false ∧
    (∀ x ∈ s.allBanks, x.2.2.pfValid = false) := by decide +kernel

/-! ## Premises of the statements: frames and invariants -/

theorem witness_RegisterWordsFrame :
    (vlone .int32 (.vadd 4 1 2 0)).alone .v0 = true ∧ (vlone .int32 (.vadd 4 1 2 0)).ctx.seg = none ∧
    (Write.x 5 1).res = [.x 5] ∧ Res.x 6 ∉ (Write.x 5 1).res := by decide +kernel

theorem witness_StoringWordsFrame :
    let s : State := setX 2 0x40 (lone .s (.scalarStore .sd 2 3 0))
    s.alone .s = true ∧ (∀ y ∈ s.allBanks, y.2.2.seg = none) ∧ s.core.cache = [] ∧ s.isHbm (frame 0) = true ∧
    s.badLine (lineOf (frame 0)) = false ∧ (vlone .int32 (.vst 4 1 0 0)).alone .v0 = true ∧ (vlone .int32 (.vst 4 1 0 0)).ctx.seg = none := by
  decide +kernel

theorem witness_EveryStepKeepsMemoryForm : State.reset.memWf = true := by decide +kernel


/-! ## Words of the spec's encodings -/

/-- A V-format word from its fields (R82). -/
def vw (op vd va vb vc msk var : Nat) : Nat :=
  op * 2 ^ 25 + vd * 2 ^ 20 + va * 2 ^ 15 + vb * 2 ^ 10 + vc * 2 ^ 5 + msk * 2 ^ 2 + var
/-- An M-format word from its fields (R83). -/
def mw (mop bl bin acc rb win vr cvt zr : Nat) : Nat :=
  mop * 2 ^ 28 + bl * 2 ^ 26 + bin * 2 ^ 23 + acc * 2 ^ 21 + rb * 2 ^ 19 + win * 2 ^ 16 + vr * 2 ^ 11 + cvt * 2 ^ 8 + zr * 2 ^ 7
/-- A C-format word from its fields (R84, R371); `ars` holds ACQ, REL and SEAL as bits 2, 1 and 0. -/
def cw (cop hs hd xs xd xn ars xr xb xg opt : Nat) : Nat :=
  cop * 2 ^ 58 + hs * 2 ^ 54 + hd * 2 ^ 50 + xs * 2 ^ 45 + xd * 2 ^ 40 + xn * 2 ^ 35 + ars * 2 ^ 32 + xr * 2 ^ 27 + xb * 2 ^ 22 + xg * 2 ^ 17 + opt
/-- An R-layout word (R87). -/
def rw' (f7 b a f3 d op : Nat) : Nat := f7 * 2 ^ 25 + b * 2 ^ 20 + a * 2 ^ 15 + f3 * 2 ^ 12 + d * 2 ^ 7 + op
/-- Every word of the table decodes, in a slot of the kind, to the instruction beside it. -/
def decodes (k : Kind) (t : List (Nat × Instr)) : Bool := t.all (fun p => (decodeSlot k p.1).toOption == some p.2)
/-- Every word of the table is refused with the cause beside it. -/
def refuses (k : Kind) (t : List (Nat × Nat)) : Bool :=
  t.all (fun p => match decodeSlot k p.1 with | .ok _ => false | .error c => c == p.2)

/-- The words that R282 and R110 print, and those of the handle and shelf chapters. -/
theorem test_decode_printed_scalar : decodes .scalar
    [(0x0033900B, .loop 3 7), (0x60B5200B, .jtab 12 11 10), (0x0200007B, .tret), (0x00B501AB, .xlate 11 10 3),
     (0x022182AB, .xprobe 2 3 5), (0x0401802B, .hrel 3), (0x06B502AB, .hinv 11 10 5), (0x08B502AB, .splnt 11 10 5),
     (0x00B512AB, .amoBadd 11 10 5), (0x02B512AB, .amoTopk 11 10 5), (0x0031A02B, .fenceS 3 3), (0x020522AB, .acqp 10 5),
     (0x00B532AB, .binit 11 10 5), (0x02B532AB, .barr 11 10 5), (0x04B532AB, .bwait 11 10 5), (0x060532AB, .barw 10 5),
     (0x00B542AB, .pin 11 10 5), (0x020542AB, .unpin 10 5), (0x04B542AB, .prefl2 11 10 5), (0x00B552AB, .bmode 11 10 5),
     (0x000502DB, .strmAdd 10 5), (0x020502DB, .strmDel 10 5)] = true := by decide +kernel
theorem test_decode_scalar_custom0 : decodes .scalar
    [(0x0200300B, .taskend), (0x0096428B, .shwr 9 12 5), (0x0204428B, .shrd 8 5), (0x0400400B, .shclr 0), (0x0600400B, .shsw 0 0 0),
     (0x0894428B, .shtag 9 8 5), (0x0005528B, .spawn 10 5), (0x0205528B, .spawng 10 5), (0x02B552AB, .binset 11 10 5),
     (0x040552AB, .binq 10 5), (0x0646000B, .wait 0x064 12), (rw' 0 0 0 3 9 0x0B, .yield 9)] = true := by decide +kernel
/-- FENCE.S names its predecessors in rs1 and its successors in rs2 (R282). -/
theorem test_decode_scalar_system : decodes .scalar
    [(rw' 0 2 1 2 0 0x2B, .fenceS 2 1), (rw' 0 0 17 0 0 0x7B, .trap 17), (rw' 2 0 0 0 0 0x7B, .halt), (rw' 0 0 7 1 8 0x7B, .banksw 7 8),
     (rw' 1 6 5 1 0 0x7B, .ctxsave 6 5), (rw' 2 6 5 1 0 0x7B, .ctxload 6 5), (rw' 0 6 5 2 0 0x7B, .evpost 6 5), (rw' 1 0 5 2 6 0x7B, .rdtime 5 6),
     (0x00000073, .ecall), (0x00100073, .ebreak), (0x34011073, .csrrw 0x340 0 2), (0x340021F3, .csrrs 0x340 3 0),
     (0x34013073, .csrrc 0x340 0 2), (0x3402D073, .csrrwi 0x340 0 5), (0x3402E073, .csrrsi 0x340 0 5), (0x3402F073, .csrrci 0x340 0 5),
     (0x0330000F, .fence 0 3 3), (0x8330000F, .fence 8 3 3), (0x0000100F, .fenceI)] = true := by decide +kernel
/-- RISC-V words of the base and the extensions of R1. -/
theorem test_decode_riscv_integer : decodes .scalar
    [(0x08028293, .scalarAlu (.ri .addi 5 5 128)), (0xFFF30313, .scalarAlu (.ri .addi 6 6 0xFFF)), (0x003100B3, .scalarAlu (.rr .add 1 2 3)),
     (0x403100B3, .scalarAlu (.rr .sub 1 2 3)), (0x03F11093, .scalarAlu (.sh .slli 1 2 63)), (0x43F15093, .scalarAlu (.sh .srai 1 2 63)),
     (0x01F1109B, .scalarAlu (.shw .slliw 1 2 31)), (0x123450B7, .scalarAlu (.lui 1 0x12345)), (0x12345097, .scalarAlu (.auipc 1 0x12345)),
     (0x203120B3, .scalarAlu (.rr .sh1add 1 2 3)), (0x083100BB, .scalarAlu (.rr .addUw 1 2 3)), (0x60011093, .scalarAlu (.un .clz 1 2)),
     (0x6B815093, .scalarAlu (.un .rev8 1 2)), (0x28715093, .scalarAlu (.un .orcB 1 2)), (0x080140BB, .scalarAlu (.un .zextH 1 2)),
     (0x60515093, .scalarAlu (.sh .rori 1 2 5)), (0x0A3140B3, .scalarAlu (.rr .min 1 2 3)), (0x023100B3, .scalarMul .mul 1 2 3),
     (0x023130B3, .scalarMul .mulhu 1 2 3), (0x023140B3, .scalarDiv .div 1 2 3), (0x0231F0BB, .scalarDiv .remuw 1 3 3)] = true := by decide +kernel
theorem test_decode_riscv_memory : decodes .scalar
    [(0xFFC12083, .scalarLoad .lw 1 2 0xFFC), (0x00813083, .scalarLoad .ld 1 2 8), (0x00813087, .scalarLoad .fld 1 2 8),
     (0xFE112E23, .scalarStore .sw 2 1 0xFFC), (0x00113423, .scalarStore .sd 2 1 8), (0x00113427, .scalarStore .fsd 2 1 8),
     (0xFE208EE3, .branch .beq 1 2 0xFFE), (0x00209863, .branch .bne 1 2 8), (0xFFDFF0EF, .jal 1 0xFFFFE), (0x00A100E7, .jalr 1 2 10),
     (0x100120AF, .lr false false false 1 2), (0x1E3130AF, .sc true true true 1 2 3), (0x0231A0AF, .amo .add false false true 1 3 3),
     (0x2C3120AF, .amocasW true false 1 2 3), (0x283130AF, .amocasD false false 1 2 3)] = true := by decide +kernel
theorem test_decode_riscv_float : decodes .scalar
    [(0x003170D3, .scalarFp (.arith .add false .dyn 1 2 3)), (0x1A3120D3, .scalarFp (.arith .div true .rdn 1 2 3)),
     (0x580100D3, .scalarFp (.sqrt false .rne 1 2)), (0x223120D3, .scalarFp (.sgn .jx true 1 2 3)),
     (0x283110D3, .scalarFp (.minmax true false 1 2 3)), (0xA23100D3, .scalarFp (.cmp .le true 1 2 3)),
     (0xE00110D3, .scalarFp (.fclass false 1 2)), (0xC22110D3, .scalarFp (.toInt .l true .rtz 1 2)),
     (0xD03100D3, .scalarFp (.ofInt .lu false .rne 1 2)), (0x420100D3, .scalarFp (.cvt true .rne 1 2)),
     (0x401100D3, .scalarFp (.cvt false .rne 1 2)), (0xE20100D3, .scalarFp (.mvToX true 1 2)), (0xF00100D3, .scalarFp (.mvOfX false 1 2)),
     (0x223100C3, .scalarFp (.fma .madd true .rne 1 2 3 4))] = true := by decide +kernel
/-- Encodings that R11, R12, R85 and R92 refuse, with their causes. -/
theorem test_decode_refused_scalar : refuses .scalar
    [(0x00000001, 0x01), (0x10500073, 0x02), (0x30200073, 0x02), (0x12000073, 0x02), (0x0000200F, 0x07), (0x0000400F, 0x07),
     (0x283140AF, 0x07), (0x003150D3, 0x07), (0x0033908B, 0x08), (0x06B5200B, 0x08), (0x0200017B, 0x08), (0x0401882B + 0x100000, 0x08),
     (0x0A05302B, 0x07), (0x0000600B, 0x07), (0x0000605B, 0x07), (0x0000307B, 0x07)] = true := by decide +kernel

/-- The vector words of the worked encodings (R100 and after). -/
theorem test_decode_printed_vector : decodes .vector
    [(0x6A208000, .vfmulLit 2 1 0 0 .rne), (0x62418400, .vfaddLit 4 3 1 0 .rne), (0x6A20A000, .vfmulLit 2 1 8 0 .rne),
     (0xE6448040, .vacr 4 9 2 0), (0xE8300020, .vacw 3 0 1 0), (0xE2600060, .vpush 6 3), (0xE4700060, .vpop 7 3)] = true := by decide +kernel
theorem test_decode_vector_0x00 : decodes .vector
    [(vw 0x00 1 2 3 0 4 0, .vadd 1 2 3 4), (vw 0x01 1 2 3 0 4 0, .vaddLit 1 2 3 4), (vw 0x02 1 2 3 0 4 0, .vsub 1 2 3 4),
     (vw 0x03 1 2 3 0 4 0, .vsubLit 1 2 3 4), (vw 0x04 1 2 3 0 4 0, .vmul 1 2 3 4), (vw 0x05 1 2 3 0 4 0, .vmulLit 1 2 3 4),
     (vw 0x06 1 2 3 0 4 0, .vmulh 1 2 3 4), (vw 0x07 1 2 3 0 4 0, .vmulhu 1 2 3 4), (vw 0x08 1 2 3 5 4 0, .vmadd 1 2 3 5 4),
     (vw 0x09 1 2 3 5 4 0, .vmaddLit 1 2 3 5 4), (vw 0x0A 1 2 3 0 4 0, .vaddsat 1 2 3 4), (vw 0x0B 1 2 3 0 4 0, .vsubsat 1 2 3 4),
     (vw 0x0C 1 2 3 0 4 0, .vaddsatu 1 2 3 4), (vw 0x0D 1 2 3 0 4 0, .vsubsatu 1 2 3 4), (vw 0x0E 1 2 0 0 4 0, .vabs 1 2 4),
     (vw 0x0F 1 2 0 0 4 0, .vneg 1 2 4), (vw 0x10 1 2 3 0 4 0, .vmin 1 2 3 4), (vw 0x11 1 2 3 0 4 0, .vminLit 1 2 3 4),
     (vw 0x12 1 2 3 0 4 0, .vmax 1 2 3 4), (vw 0x13 1 2 3 0 4 0, .vmaxLit 1 2 3 4), (vw 0x14 1 2 3 0 4 0, .vminu 1 2 3 4),
     (vw 0x15 1 2 3 0 4 0, .vmaxu 1 2 3 4), (vw 0x16 1 2 3 0 4 0, .vand 1 2 3 4), (vw 0x17 1 2 3 0 4 0, .vandLit 1 2 3 4)] = true := by
  decide +kernel
theorem test_decode_vector_0x18 : decodes .vector
    [(vw 0x18 1 2 3 0 4 0, .vor 1 2 3 4), (vw 0x19 1 2 3 0 4 0, .vorLit 1 2 3 4), (vw 0x1A 1 2 3 0 4 0, .vxor 1 2 3 4),
     (vw 0x1B 1 2 3 0 4 0, .vxorLit 1 2 3 4), (vw 0x1C 1 2 3 0 4 0, .vandn 1 2 3 4), (vw 0x1D 1 2 0 0 4 0, .vnot 1 2 4),
     (vw 0x1E 1 2 3 0 4 0, .vshl 1 2 3 4), (vw 0x1F 1 2 3 0 4 0, .vshlLit 1 2 3 4), (vw 0x20 1 2 3 0 4 0, .vshr 1 2 3 4),
     (vw 0x21 1 2 3 0 4 0, .vshrLit 1 2 3 4), (vw 0x22 1 2 3 0 4 0, .vsra 1 2 3 4), (vw 0x23 1 2 3 0 4 0, .vsraLit 1 2 3 4),
     (vw 0x24 1 2 3 0 4 0, .vrol 1 2 3 4), (vw 0x25 1 2 3 0 4 0, .vror 1 2 3 4), (vw 0x26 1 2 0 0 4 0, .vclz 1 2 4),
     (vw 0x27 1 2 0 0 4 0, .vpopc 1 2 4), (vw 0x28 1 2 3 5 4 0, .vcmp 1 2 3 5 4), (vw 0x29 7 2 3 5 4 0, .vcmpLit 7 2 3 5 4),
     (vw 0x2A 1 2 3 5 4 0, .vcmpu 1 2 3 5 4), (vw 0x2B 1 2 3 0 4 0, .vsel 1 2 3 4), (vw 0x2C 1 2 0 0 4 0, .vmov 1 2 4),
     (vw 0x2D 1 0 3 11 4 0, .vbcast 1 3 .e5m2 4), (vw 0x2E 1 0 0 0 4 2, .vlaneid 1 4 2)] = true := by decide +kernel
theorem test_decode_vector_0x30 : decodes .vector
    [(vw 0x30 1 2 3 0 4 1, .vfadd 1 2 3 4 .rz), (vw 0x31 1 2 3 0 4 2, .vfaddLit 1 2 3 4 .ru), (vw 0x32 1 2 3 0 4 3, .vfsub 1 2 3 4 .rd),
     (vw 0x33 1 2 3 0 4 0, .vfsubLit 1 2 3 4 .rne), (vw 0x34 1 2 3 0 4 0, .vfmul 1 2 3 4 .rne), (vw 0x35 1 2 3 0 4 0, .vfmulLit 1 2 3 4 .rne),
     (vw 0x36 1 2 3 5 4 0, .vfma 1 2 3 5 4 .rne), (vw 0x37 1 2 3 5 4 0, .vfmaLit 1 2 3 5 4 .rne), (vw 0x38 1 2 3 5 4 0, .vfms 1 2 3 5 4 .rne),
     (vw 0x39 1 2 3 5 4 0, .vfnma 1 2 3 5 4 .rne), (vw 0x3A 1 2 3 5 4 0, .vfnms 1 2 3 5 4 .rne), (vw 0x3B 1 2 3 0 4 0, .vfmin 1 2 3 4),
     (vw 0x3C 1 2 3 0 4 0, .vfmax 1 2 3 4), (vw 0x3D 1 2 0 0 4 0, .vfabs 1 2 4), (vw 0x3E 1 2 0 0 4 0, .vfneg 1 2 4),
     (vw 0x3F 1 2 3 7 4 0, .vfcmp 1 2 3 7 4), (vw 0x40 1 2 0 0 4 0, .vfclass 1 2 4), (vw 0x41 1 2 0 0 4 1, .vrcp 1 2 4 .rz),
     (vw 0x42 1 2 0 0 4 0, .vrsq 1 2 4 .rne), (vw 0x43 1 2 0 0 4 2, .vsqrt 1 2 4 .ru), (vw 0x44 1 2 3 0 4 3, .vdiv 1 2 3 4 .rd),
     (vw 0x45 1 2 0 0 4 0, .vexp2 1 2 4 .rne), (vw 0x46 1 2 0 0 4 0, .vlog2 1 2 4 .rne), (vw 0x47 1 2 0 0 4 0, .vredadd 1 2 4)] = true := by
  decide +kernel
theorem test_decode_vector_0x48 : decodes .vector
    [(vw 0x48 1 2 0 0 4 0, .vredmax 1 2 4), (vw 0x49 1 2 0 0 4 0, .vredmin 1 2 4), (vw 0x4A 1 2 0 0 4 0, .vrediadd 1 2 4),
     (vw 0x4B 1 2 0 0 4 0, .vredimax 1 2 4), (vw 0x4C 1 2 0 0 4 0, .vredimin 1 2 4), (vw 0x4D 1 2 3 6 4 0, .vfcmpLit 1 2 3 6 4),
     (vw 0x50 1 2 3 8 4 1, .vcvt 1 2 3 .bf16 4 .rz), (vw 0x51 1 2 15 5 4 0, .vcvtsat 1 2 15 .int4 4 .rne), (vw 0x52 1 2 3 0 4 0, .vqnt4 1 2 3 4),
     (vw 0x53 1 2 7 7 4 0, .vdqnt4 1 2 7 .fp32 4), (vw 0x54 1 2 3 0 4 0, .vpack 1 2 3 4), (vw 0x55 1 2 0 0 4 0, .vunpacklo 1 2 4),
     (vw 0x56 1 2 0 0 4 0, .vunpackhi 1 2 4), (vw 0x57 1 2 3 0 4 0, .vperm 1 2 3 4), (vw 0x58 1 2 3 31 4 0, .vslide 1 2 3 31 4),
     (vw 0x59 1 2 3 5 4 0, .vslideLit 1 2 3 5 4), (vw 0x5A 1 2 3 0 4 1, .vzip 1 2 3 4 1), (vw 0x5B 1 2 3 0 4 0, .vunzip 1 2 3 4 0)] = true := by
  decide +kernel
theorem test_decode_vector_0x60 : decodes .vector
    [(vw 0x60 1 2 3 12 4 0, .vld 1 2 3 .fp4b 4), (vw 0x61 1 2 3 0 4 0, .vst 1 2 3 4), (vw 0x62 1 2 3 7 4 0, .vlds 1 2 3 .fp32 4),
     (vw 0x63 1 2 3 0 4 0, .vsts 1 2 3 4), (vw 0x64 1 2 3 1 4 0, .vldg 1 2 3 .int32 4), (vw 0x65 1 2 3 0 4 0, .vstsc 1 2 3 4),
     (vw 0x68 1 2 0 0 4 1, .nsh 1 2 4 1), (vw 0x69 1 2 0 0 4 3, .nshr 1 2 4 3), (vw 0x6C 1 2 3 5 4 2, .vldx 1 2 3 5 4 2),
     (vw 0x6D 1 2 3 5 4 0, .vstx 1 2 3 5 4 0), (vw 0x6E 1 2 3 5 4 1, .vldxg 1 2 3 5 4 1), (vw 0x6F 1 2 3 5 4 3, .vstxs 1 2 3 5 4 3),
     (vw 0x70 1 2 3 5 4 0, .vamoadd 1 2 3 5 4), (vw 0x71 1 0 0 7 0 0, .vpush 1 7), (vw 0x72 1 0 0 2 0 0, .vpop 1 2),
     (vw 0x73 1 9 0 3 4 0, .vacr 1 9 3 4), (vw 0x73 1 9 1 2 4 1, .vacrD 1 9 1 2 4), (vw 0x73 1 0 0 3 4 2, .vacrSt 1 3 4),
     (vw 0x74 1 9 0 3 4 0, .vacw 1 9 3 4), (vw 0x74 1 9 1 2 4 1, .vacwD 1 9 1 2 4), (vw 0x78 1 2 0 15 4 0, .vtagset 1 2 .poison 4),
     (vw 0x79 1 2 0 0 4 0, .vtagrd 1 2 4), (vw 0x7A 1 2 0 0 4 0, .vres 1 2 4), (vw 0x7A 1 2 0 3 4 1, .vresAcc 1 2 3 4)] = true := by
  decide +kernel
theorem test_decode_vector_masks : decodes .vector
    [(vw 0x7B 1 2 3 5 0 0, .vmsk 1 2 3 5), (vw 0x7C 1 2 0 0 4 0, .vmpopc 1 2 4), (vw 0x7D 1 2 0 0 4 0, .vmfirst 1 2 4),
     (vw 0x7E 1 0 3 0 0 0, .vmset 1 3), (vw 0x7E 1 2 0 0 0 1, .vmsetNz 1 2)] = true := by decide +kernel
/-- Unallocated OPs raise 0x03; non-zero unused fields and operand values that an entry excludes raise 0x08 (R85, R92). -/
theorem test_decode_refused_vector : refuses .vector
    [(vw 0x2F 0 0 0 0 0 0, 0x03), (vw 0x4E 0 0 0 0 0 0, 0x03), (vw 0x5C 0 0 0 0 0 0, 0x03), (vw 0x66 0 0 0 0 0 0, 0x03), (vw 0x6A 0 0 0 0 0 0, 0x03),
     (vw 0x75 0 0 0 0 0 0, 0x03), (vw 0x7F 0 0 0 0 0 0, 0x03), (vw 0x00 1 2 3 1 0 0, 0x08), (vw 0x00 1 2 3 0 0 1, 0x08),
     (vw 0x28 0 2 3 0 0 0, 0x08), (vw 0x28 8 2 3 0 0 0, 0x08), (vw 0x28 1 2 3 6 0 0, 0x08), (vw 0x2D 1 0 3 12 0 0, 0x08), (vw 0x50 1 2 0 0 0 0, 0x08),
     (vw 0x50 1 2 0 12 0 0, 0x08), (vw 0x53 1 2 4 8 0 0, 0x08), (vw 0x60 1 2 3 13 0 0, 0x08), (vw 0x68 1 2 0 0 0 2, 0x08), (vw 0x73 1 0 0 0 0 3, 0x08),
     (vw 0x74 1 0 0 0 0 2, 0x08), (vw 0x78 1 2 0 13 0 0, 0x08), (vw 0x7A 1 2 0 0 0 2, 0x08), (vw 0x7B 1 2 3 6 0 0, 0x08), (vw 0x7E 0 0 3 0 0 0, 0x08)] = true := by
  decide +kernel

/-- The matrix words that the matrix chapter prints, and one word of the other forms. -/
theorem test_decode_matrix : decodes .matrix
    [(0x00000000, .mnop), (0x16590000, .mac 1 4 2 3 1 false), (0x20000000, .macz 0 0 0 0 0 false), (0x38A00000, .mwin 2 1 1 0 0 false),
     (0x40002000, .mdrain 0 0 0 0 4 0 false), (0x50002000, .mdrainz 0 0 0 0 4 0 false), (0x60030800, .mlatch 0 3 1), (0x70200100, .mzero 1 1),
     (mw 1 3 7 2 1 6 0 0 1, .mac 3 7 2 1 6 true), (mw 4 1 5 3 2 0 17 6 1, .mdrain 1 5 3 2 17 6 true)] = true := by decide +kernel
theorem test_decode_refused_matrix : refuses .matrix
    [(0x80000000, 0x04), (0xF0000000, 0x04), (0x00000001, 0x08), (0x16590001, 0x08), (mw 1 0 0 0 0 0 1 0 0, 0x08), (mw 4 2 0 0 0 0 0 0 0, 0x08),
     (mw 4 0 0 0 0 1 0 0 0, 0x08), (mw 6 0 1 0 0 0 0 0 0, 0x08), (mw 7 1 0 0 0 0 0 0 0, 0x08)] = true := by decide +kernel

/-- The completion part that most of the words below carry: XR 9, XB 10, XG 11. -/
def done (acq rel : Bool) : Compl := { xr := 9, xb := 10, xg := 11, acq := acq, rel := rel }
theorem test_decode_copies : decodes .copy
    [(cw 0x00 1 2 3 4 5 5 9 10 11 (0x2 * 16 + 7 * 64), .cpy { src := .handle 1, dst := .handle 2, xs := 3, xd := 4, xn := 5, hint := 2, f := done true false } .fp32 true),
     (cw 0x00 0 2 3 4 5 2 9 10 11 0x001, .cpy { src := .sram, dst := .handle 2, xs := 3, xd := 4, xn := 5, hint := 0, f := done false true } .raw false),
     (cw 0x01 1 0 3 4 30 6 9 10 11 0x004, .cpy2d { src := .handle 1, dst := .sram, xs := 3, xd := 4, xn := 30, hint := 0, f := done true true }),
     (cw 0x02 1 0 3 4 5 4 9 10 11 0x030, .cpyg 1 3 4 5 3 (done true false)), (cw 0x03 0 2 3 4 5 2 9 10 11 0x010, .cpys 2 3 4 5 1 (done false true)),
     (cw 0x10 1 0 3 0 0 4 9 10 11 (0x8 + 0x81 * 16 + 12 * 4096), .cpyl (.handle 1) 3 2 0x81 .fp4b (done true false)),
     (cw 0x11 1 0 3 4 5 0 9 10 11 0x0F, .cpysh 1 3 4 5 0x0F (done false false)), (cw 0x12 0 0 3 0 5 0 9 10 11 0x1D, .cpybin .sram 3 5 7 (done false false))] = true := by
  decide +kernel
theorem test_decode_engines : decodes .copy
    [(cw 0x18 1 2 3 4 5 6 9 10 11 0, .route { hs := 1, hd := 2, xs := 3, xd := 4, xn := 5, f := done true true }),
     (cw 0x19 1 2 3 4 5 0 9 10 11 0, .routec { hs := 1, hd := 2, xs := 3, xd := 4, xn := 5, f := done false false }),
     (cw 0x20 1 2 3 4 5 7 9 10 11 0, .red { hs := 1, hd := 2, xs := 3, xd := 4, xn := 5, f := done true true } true),
     (cw 0x21 1 2 3 4 5 0 9 10 11 0, .bcast { hs := 1, hd := 2, xs := 3, xd := 4, xn := 5, f := done false false } false),
     (cw 0x22 1 2 3 4 5 1 9 10 11 0, .agath { hs := 1, hd := 2, xs := 3, xd := 4, xn := 5, f := done false false } true),
     (cw 0x23 1 2 3 4 5 0 0 0 0 0x17, .sealck 1 2 3 4 5 .fp32 true),
     (cw 0x24 1 2 3 4 5 2 9 10 11 8, .sealgen { hs := 1, hd := 2, xs := 3, xd := 4, xn := 5, f := done false true } .bf16),
     (cw 0x28 1 0 3 4 0 4 0 0 0 0, .exbind 1 3 4 true), (cw 0x29 0 0 3 0 0 0 9 10 11 0, .exfetch 3 (done false false)),
     (cw 0x2A 1 0 3 0 0 2 9 10 11 0, .exrel 1 3 (done false true)), (cw 0x2B 0 0 3 0 0 0 9 10 11 1, .expin 3 true (done false false)),
     (cw 0x2C 0 0 3 4 5 0 0 0 0 0, .yarddrain 3 4 5 false), (cw 0x30 0 0 3 4 0 0 0 0 0 0, .cwait 3 4),
     (cw 0x31 0 0 0 0 0 0 0 0 0 3, .cfence 3), (cw 0x32 0 0 3 4 0 0 0 0 0 2, .cstat 3 4 2)] = true := by decide +kernel
theorem test_decode_refused_copies : refuses .copy
    [(cw 0x04 0 0 0 0 0 0 0 0 0 0, 0x06), (cw 0x38 0 0 0 0 0 0 0 0 0 0, 0x06), (cw 0x01 1 2 3 4 0 0 0 0 0 0, 0x08), (cw 0x01 1 2 3 4 31 0 0 0 0 0, 0x08),
     (cw 0x01 1 2 3 4 5 1 0 0 0 0, 0x08), (cw 0x10 1 0 3 0 0 2 0 0 0 0, 0x08), (cw 0x11 1 0 3 4 5 2 0 0 0 0, 0x08), (cw 0x12 1 0 3 0 5 2 0 0 0 0, 0x08),
     (cw 0x29 0 0 3 0 0 4 0 0 0 0, 0x08), (cw 0x2A 1 0 3 0 0 4 0 0 0 0, 0x08), (cw 0x2B 0 0 3 0 0 2 0 0 0 0, 0x08), (cw 0x18 1 2 3 4 5 0 0 0 0 1, 0x08)] = true := by
  decide +kernel
/-- The headers and the index word of the worked encodings. -/
theorem test_decode_header :
    decodeHeader 0x01087019 = { grp := 1, lit := 2, c1 := false, c0 := false, m := false, v1 := true, v0 := true, s := true, rdv := false,
                                seg := false, scope := 0, wait := 3, indexed := false, len := 1 } ∧
    decodeHeader 0x0704300C = { grp := 7, lit := 1, c1 := false, c0 := false, m := false, v1 := false, v0 := true, s := true, rdv := false,
                                seg := false, scope := 0, wait := 1, indexed := true, len := 0 } ∧
    decodeIndex 0x1294C000 = { idx := 37, xa := 5, xb := 6, lb := 0 } := by decide +kernel


/-! ## Ill-formed terms -/

/-- One or more ill-formed terms for each check of `Instr.wf`. -/
theorem test_wf_refuses :
    ([.scalarFp (.arith .add false .res5 1 2 3), .scalarFp (.toInt .w true .res6 1 2), .scalarFp (.fma .madd true .res5 1 2 3 4),
      .vcmp 0 1 2 0 0, .vcmp 1 1 2 6 0, .vcmpLit 0 1 2 0 0, .vcmpLit 1 1 2 7 0, .vcmpu 0 1 2 0 0, .vcmpu 1 1 2 6 0, .vfcmp 0 1 2 0 0,
      .vfcmpLit 0 1 2 0 0, .vbcast 1 2 .fp4b 0, .vbcast 1 2 .poison 0, .vcvt 1 2 0 .raw 0 .rne, .vcvtsat 1 2 0 .fp4b 0 .rne,
      .vdqnt4 1 2 0 .fp64 0, .vdqnt4 1 2 4 .bf16 0, .vdqnt4 1 2 2 .e5m2 0, .vld 1 2 3 .poison 0, .vlds 1 2 3 .res13 0, .vldg 1 2 3 .res14 0,
      .nsh 1 2 0 2] : List Instr).all (fun i => !i.wf) = true ∧
    ([.vtagset 1 2 .res13 0, .vmsk 0 1 2 0, .vmsk 1 2 3 6, .vmset 0 1, .vmsetNz 0 1,
      .cpy2d { src := .sram, dst := .sram, xs := 1, xd := 2, xn := 0, hint := 0, f := quiet },
      .cpy2d { src := .sram, dst := .sram, xs := 1, xd := 2, xn := 31, hint := 0, f := quiet }, .cpyl .sram 1 0 1 .int8 (done false true),
      .cpysh 1 2 3 4 1 (done false true), .cpybin .sram 1 2 0 (done false true), .exfetch 1 (done true false), .exfetch 1 (done false true),
      .exrel 1 2 (done true false), .expin 1 true (done true false), .expin 1 true (done false true)] : List Instr).all (fun i => !i.wf) = true := by
  decide +kernel
/-- Their neighbours that the checks accept. -/
theorem test_wf_accepts :
    ([.scalarFp (.arith .add false .dyn 1 2 3), .vcmp 1 1 2 5 0, .vfcmp 7 1 2 7 0, .vbcast 1 2 .e5m2 0, .vdqnt4 1 2 3 .bf16 0, .vld 1 2 3 .fp4b 0,
      .nsh 1 2 0 1, .vtagset 1 2 .poison 0, .vmsk 1 2 3 5, .vmsk 1 2 0 7,
      .cpy2d { src := .sram, dst := .sram, xs := 1, xd := 2, xn := 30, hint := 0, f := quiet }, .exrel 1 2 (done false true)] : List Instr).all
      (fun i => i.wf) = true := by decide +kernel

/-! ## Results that the spec prints -/

/-- The writes in flight after an instruction, with their lane flags. -/
def flown (o : Host.Outcome State Fault Refusal) : List (Write × Byte) :=
  match o with
  | .next s => s.ctx.flights.map (fun f => (f.w, f.vflags))
  | .fault _ | .refused _ => []
/-- Lane l of every vector register in flight, with the register's number, its tag and the flags. -/
def lanes (l : Nat) (o : Host.Outcome State Fault Refusal) : List (Nat × Nat × Tag × Byte) :=
  (flown o).filterMap fun p => match p with
    | (.v _ r data mask t, fl) => some (r.val, data.toNat / 2 ^ (32 * l) % 2 ^ 32 &&& mask.toNat / 2 ^ (32 * l) % 2 ^ 32, t, fl)
    | _ => none
def vset (r : Reg) (t : Tag) (n : Nat) (s : State) : State := setV 0 r t (BitVec.ofNat 1024 n) s

/-- VABS of −128 in INT8 is 127 with CSAT; VNEG of it is −128 with no flag (example after R132). -/
theorem test_vabs_vneg :
    lanes 0 (exec (.vabs 4 1 0) (vset 1 .int8 0x80 (vlone .int8 (.vabs 4 1 0)))) = [(4, 0x7F, .int8, 0x20)] ∧
    lanes 0 (exec (.vneg 4 1 0) (vset 1 .int8 0x80 (vlone .int8 (.vneg 4 1 0)))) = [(4, 0x80, .int8, 0x00)] := by decide +kernel
/-- `vadd v3, v2, #0x01010101` adds 1 to every INT8 element, each of which wraps (R126). -/
theorem test_vadd_lit : lanes 0 (exec (.vaddLit 3 2 0 0) (vset 2 .int8 0xFF7F0001
    (setCore (fun c => { c with cur := { c.cur with pool := [0x01010101] } }) (vlone .int8 (.vaddLit 3 2 0 0))))) = [(3, 0x00800102, .int8, 0)] := by
  decide +kernel
/-- The example of VCVT: FP32 to BF16, part 1 of v2 with its overflow and its tiny value (R149). -/
theorem test_vcvt_bf16 :
    lanes 0 (exec (.vcvt 4 1 0 .bf16 0 .rne) (vset 1 .fp32 0x3F808000 (vlone .fp32 (.vcvt 4 1 0 .bf16 0 .rne)))) = [(4, 0x3F80, .bf16, 0x01)] ∧
    lanes 0 (exec (.vcvt 4 2 1 .bf16 0 .rne) (vset 2 .fp32 0x7F7FFFFF (vlone .fp32 (.vcvt 4 2 1 .bf16 0 .rne)))) = [(4, 0x7F800000, .bf16, 0x05)] := by
  decide +kernel
/-- The example of conversions to E4M3 (after R64). -/
theorem test_cvt_e4m3 :
    (cvtFloat .e4m3 .rne false (Fmt.fp32.decode 0x43960000)).1 = 0x79 ∧ (cvtFloat .e4m3 .rne false (.fin false 464 0)) = (0x7E, 0x01) ∧
    cvtFloat .e4m3 .rne false (Fmt.fp32.decode 0x43EB0000) = (0x7F, 0x05) ∧ cvtFloat .e4m3 .rne true (Fmt.fp32.decode 0x43EB0000) = (0x7E, 0x25) := by
  decide +kernel
/-- The example of quantisation (R54): the element word, the scale and no flag; and the block decoded again under R53. -/
theorem test_quantise :
    quantBlock ([0x3F800000, 0xC0200000, 0x3EA00000, 0x40F00000, 0xBD800000, 0x40480000, 0, 0xC0E00000].map Fmt.fp32.decode) (Fmt.bf16.decode 0x3F80) =
      (0xF04870C2, 0x68, 0) ∧
    (List.range 8).map (fun k => ((roundDy .fp32 .rne false (blockElem 0xF04870C2 0x3F800068 k).1.isNeg (blockElem 0xF04870C2 0x3F800068 k).1.dy).1)) =
      [0x3FA00000, 0xC0200000, 0, 0x40F00000, 0x80000000, 0x40200000, 0, 0xC0F00000] := by decide +kernel
/-- The residues of the example after R72. -/
theorem test_residues :
    residue { m := 1, e := 0 } = 0x2000000000 ∧ residue { m := 1, e := -24 } = 0x2000 ∧ residue { m := -1, e := 0 } = 0x1FFFFFDFFFFFFFFF ∧
    residue (Fmt.fp32.decode 0x3F800001).dy = 2 ^ 37 + 2 ^ 14 := by decide +kernel
/-- The example of VRES: an INT32 register with 1 to 32 in its lanes (R162). -/
theorem test_vres :
    let s : State := vset 1 .int32 ((List.range 32).foldl (fun n l => n + (l + 1) * 2 ^ (32 * l)) 0) (vlone .int32 (.vres 4 1 0))
    (List.range 4).map (fun l => lanes l (exec (.vres 4 1 0) s)) =
      [[(4, 0, .raw, 0)], [(4, 0x4200, .raw, 0)], [(4, 32, .raw, 0)], [(4, 0, .raw, 0)]] := by decide +kernel
/-- Results of the special functions: exact ones set no flag, VRCP of 0 divides by zero (R143, R146). -/
theorem test_special_functions :
    sqrtN .fp32 .rne (.fin false 4 0) = (0x40000000, 0) ∧ rsqN .fp32 .rne (.fin false 4 0) = (0x3F000000, 0) ∧
    divN .fp32 .rne (.fin false 6 0) (.fin false 3 0) = (0x40000000, 0) ∧ rcpN .fp32 .rne (.fin false 2 0) = (0x3F000000, 0) ∧
    rcpN .fp32 .rne (.fin true 0 0) = (0xFF800000, 0x08) ∧ exp2N .fp32 .rne (.fin false 3 0) = (0x41000000, 0) ∧
    log2N .fp32 .rne (.fin false 8 0) = (0x40400000, 0) := by decide +kernel
/-- The example of AMO.TOPK: its six posts in one order and in another (R299). -/
theorem test_topk :
    let free : Nat × Nat := (0xFFFFFFFF, 0xFFFF)
    let post (es : List (Nat × Nat)) (p : Nat × Nat) : List (Nat × Nat) := (topk 4 p.1 p.2 (es ++ List.replicate (8 - es.length) free)).2
    let posts : List (Nat × Nat) := [(7, 0x3FC0), (5, 0x7FC1), (3, 0x3FC0), (9, 0x4000), (1, 0x8000), (4, 0x0000)]
    posts.foldl post [free, free, free, free] = [(9, 0x4000), (3, 0x3FC0), (7, 0x3FC0), (4, 0x0000)] ∧
    posts.reverse.foldl post [free, free, free, free] = [(9, 0x4000), (3, 0x3FC0), (7, 0x3FC0), (4, 0x0000)] := by decide +kernel
/-- The example of beats: 2^24 + 1 + 1 rounds once to 16,777,218, and one more ties to the even 16,777,220 (R207). -/
theorem test_beat_rounds_once :
    let p (n : Nat) : Terms := { nan := false, pinf := false, ninf := false, notNegZero := true, sum := { m := n, e := 0 } }
    let m0 : Matrix := { (mlone .mnop).core.mat with acc := (mlone .mnop).core.mat.acc.set 0 (((mlone .mnop).core.mat.acc.get 0).map (fun a => { a with tag := .fp32 })) }
    let m1 : Matrix := m0.beat 0 0 0 .fp32 true false false (List.replicate 256 (p (2 ^ 24 + 2)))
    let m2 : Matrix := m1.beat 0 0 0 .fp32 false false false (List.replicate 256 (p 1))
    ((m1.bank 0 0).row 0).toNat % 2 ^ 32 = 0x4B800001 ∧ ((m2.bank 0 0).row 0).toNat % 2 ^ 32 = 0x4B800002 := by decide +kernel

/-! ## Steps -/

/-- A next state of which the property holds. -/
def goesTo (o : Host.Outcome State Fault Refusal) (p : State → Bool) : Bool :=
  match o with
  | .next s => p s
  | .fault _ | .refused _ => false

/-- The fetched `addi x5, x6, 7` writes 7 to x5 and the pc passes its bundle (R1, R86). -/
theorem test_step_addi :
    goesTo (step fetching) (fun s => s.ctx.flights.map (·.w) == [.x 5 7] && s.ctx.pc == fetching.ctx.pc + 16) = true := by decide +kernel
/-- WFI raises cause 0x02 with its word in tval (R12, R93, R107); nothing of its bundle issues. -/
theorem test_step_traps :
    let s0 : State := State.reset.withFetchWord 32 0x10500073
    goesTo (step s0) (fun s => s.ctx.csrs.tcause == 0x02 && s.ctx.csrs.tval == 0x10500073 && s.ctx.csrs.tepc == s0.ctx.pc && s.ctx.csrs.intrap)
      = true := by decide +kernel
/-- ECALL from supervisor and from user level (R12); its bundle of one unit ends 16 bytes on (R107). -/
theorem test_ecall :
    goesTo (exec .ecall (lone .s .ecall)) (fun s => s.ctx.csrs.tcause == 0xB1 && s.ctx.csrs.tepc == 0x1000 && s.ctx.csrs.tnext == 0x1010) = true ∧
    goesTo (exec .ecall (user (lone .s .ecall)))
      (fun s => s.ctx.csrs.tcause == 0xB0 && !s.ctx.csrs.pprv && s.ctx.csrs.prv && s.ctx.csrs.sbmode == 2) = true := by decide +kernel

end Sys2Proof.Tests
end

section
/-! SUPPORT. The statements on scalar words and their stores (spec/00_scope.md): what they rest on, and their proofs. -/

-- Proofs one after another: each one elaborated beside the others takes a thread, whose stack counts in the memory of the whole text's check.
set_option Elab.async false

namespace Sys2Proof.Machine

/-! ## The issue of one scalar word (R16, R18, R40): tracked registers, the commit of a plan, the trap of one that raises -/

theorem mem_xs {rs : List Reg} {r : Res} (h : r ∈ xs rs) : r ∈ rs.map Res.x := by
  obtain ⟨a, ha, rfl⟩ := List.mem_map.mp h
  exact List.mem_map_of_mem (List.mem_filter.mp ha).1

theorem mem_xw {d : Reg} {lat : Nat} {r : Res} (h : r ∈ (xw d lat).map (·.1)) : r = .x d := by
  unfold xw at h
  split at h <;> simp_all

/-- A word that names no accumulator block is no concern of R204. -/
theorem Plan.noAcc_of {p : Plan} (h : ∀ w ∈ p.tracked, ∀ g b k, w.1 ≠ .acc g b k) : p.noAcc = true := by
  refine List.all_eq_true.mpr fun w hw => ?_
  have := h w hw
  cases e : w.1 <;> simp_all

theorem xw_ne_acc {d : Reg} {lat : Nat} : ∀ w ∈ xw d lat, ∀ g b k, w.1 ≠ .acc g b k := by
  intro w hw g b k
  rw [mem_xw (List.mem_map_of_mem hw)]
  exact Res.noConfusion

theorem FpDest.tracked_ne_acc {d : FpDest} {lat : Nat} : ∀ w ∈ d.tracked lat, ∀ g b k, w.1 ≠ .acc g b k := by
  cases d with
  | f r =>
    intro w hw g b k
    simp only [FpDest.tracked, List.mem_singleton] at hw
    subst hw
    exact Res.noConfusion
  | x r => exact xw_ne_acc

@[simp] theorem State.seen_csrs (s : State) : s.seen.ctx.csrs = s.ctx.csrs := by simp [State.seen]
@[simp] theorem State.seen_x (s : State) : s.seen.ctx.x = s.ctx.x := by simp [State.seen]
@[simp] theorem State.seen_f (s : State) : s.seen.ctx.f = s.ctx.f := by simp [State.seen]

/-- A scalar word that transfers nowhere and that nothing keeps from issuing commits its plan's effects after the control's advance. -/
theorem issueWord_commits {s : State} (h : s.alone .s = true) {f : Env → State → Plan} {p : Plan} (hf : s.onePlan f = p)
    (hp : p.Goes s) (ha : p.noAcc = true) (hctl : p.ctl = .seq) (hstall : p.stall = 0)
    (hi : s.unhindered (p.reads ++ p.writes.map (·.1)) = true) :
    issueWord (.once f) s = .next (commitEffects [{ env := s.loneEnv, group := none, plan := p }] s.past) := by
  subst hf
  rw [issueWord_goes h (.inl rfl) f hp ha (by rwa [State.atIssue_unhindered]), if_pos rfl, if_pos rfl, hctl, hstall]
  rfl

/-- A cause that is none of a translation and none of kind W is taken as a trap. -/
theorem State.raise_takesTrap {r : Raise} (hfault : r.fault = none) (hw : r.isW = false) (pc next : DWord) (s : State) :
    s.raise r pc next = s.takeTrap r.cause r.tval pc next := by
  simp [State.raise, hfault, hw]

/-- A scalar word whose lowest cause is `c`, reported with the word form, traps with it. -/
theorem issueWord_traps {s : State} (h : s.alone .s = true) {f : Env → State → Plan} {p : Plan} (hf : s.onePlan f = p)
    {c : Nat} (hr : lowest p.raises = some (s.loneEnv.bad c)) (hw : (s.loneEnv.bad c).isW = false)
    (hp : { p with raises := [] : Plan }.Plain) (ha : p.noAcc = true)
    (hi : s.unhindered (p.reads ++ p.writes.map (·.1)) = true) :
    issueWord (.once f) s = .next (s.trapNow c s.loneEnv.form) := by
  subst hf
  obtain ⟨-, hholds, -, -, -, hland, -, hclears, -, hmat, -⟩ := hp
  have hmat' : (s.onePlan f).mat = true → s.sq.engMatrix = false := fun q => absurd q (by simpa using hmat)
  have hfill : .latchFill ∉ (s.onePlan f).holds := by
    have : (s.onePlan f).holds = [] := hholds
    simp [this]
  rw [issueWord_raises h (.inl rfl) f _ hr hland hclears hmat' hfill ha (by rwa [State.atIssue_unhindered]),
    State.raise_takesTrap rfl hw]
  rfl

/-! ## Words that write one register -/

theorem xPlan_plain (rs : List Reg) (d : Reg) (lat : Nat) (v : DWord) : (xPlan rs d lat v).Plain :=
  ⟨rfl, rfl, rfl, rfl, rfl, rfl, rfl, rfl, rfl, rfl, rfl⟩

theorem xPlan_noAcc (rs : List Reg) (d : Reg) (lat : Nat) (v : DWord) : (xPlan rs d lat v).noAcc = true :=
  Plan.noAcc_of fun w hw => xw_ne_acc w (by simpa [Plan.tracked, xPlan] using hw)

theorem unhindered_xs_xw {s : State} {d : Reg} {rs : List Reg} (lat : Nat) (h : s.unhindered ((d :: rs).map .x) = true) :
    s.unhindered (xs rs ++ (xw d lat).map (·.1)) = true := by
  refine State.unhindered_sub h fun r hr => ?_
  rcases List.mem_append.mp hr with hr | hr
  · exact List.mem_cons_of_mem _ (mem_xs hr)
  · rw [mem_xw hr]
    exact List.mem_cons_self

/-- A scalar word that writes one x register from others commits its result after its latency. -/
theorem issueWord_xPlan {s : State} (h : s.alone .s = true) {f : Env → State → Plan} {rs : List Reg} {d : Reg} {lat : Nat} {v : DWord}
    (hf : s.onePlan f = xPlan rs d lat v) (hi : s.unhindered ((d :: rs).map .x) = true) :
    issueWord (.once f) s = .next (s.past.launchX lat d v) := by
  rw [issueWord_commits h hf ((xPlan_plain rs d lat v).goes s) (xPlan_noAcc rs d lat v) rfl rfl (unhindered_xs_xw lat hi),
    commitEffects_one _ _ .main _ rfl]

/-! ## Integer arithmetic (log 5) -/

theorem dwi_toInt {i : Int} (h1 : -2 ^ 63 ≤ i) (h2 : i < 2 ^ 63) : (dwi i).toInt = i := by
  rw [dwi, BitVec.toInt_ofInt]
  exact Int.bmod_eq_of_le (by omega) (by omega)

theorem natAbs_toInt_le (a : DWord) : a.toInt.natAbs ≤ 2 ^ 63 := by
  have hge : -2 ^ 63 ≤ a.toInt := BitVec.le_toInt a
  have hlt : a.toInt < 2 ^ 63 := BitVec.toInt_lt
  omega

theorem mulh_toInt (a b : DWord) : (mulResult .mulh a b).toInt = a.toInt * b.toInt / 2 ^ 64 := by
  have habs : (a.toInt * b.toInt).natAbs ≤ 2 ^ 63 * 2 ^ 63 := by
    rw [Int.natAbs_mul]
    exact Nat.mul_le_mul (natAbs_toInt_le a) (natAbs_toInt_le b)
  exact dwi_toInt (by omega) (by omega)

theorem mulhu_toNat (a b : DWord) : (mulResult .mulhu a b).toNat = a.toNat * b.toNat / 2 ^ 64 := by
  have hlt : a.toNat * b.toNat < 2 ^ 64 * 2 ^ 64 := Nat.mul_lt_mul'' a.isLt b.isLt
  have hdiv : a.toNat * b.toNat / 2 ^ 64 < 2 ^ 64 := Nat.div_lt_of_lt_mul hlt
  simpa [mulResult, dw] using Nat.mod_eq_of_lt hdiv

theorem mulw_toInt (a b : DWord) : (mulResult .mulw a b).toInt = (a.truncate 32 * b.truncate 32 : BitVec 32).toInt :=
  BitVec.toInt_signExtend_of_le (by decide)

/-- Also where the quotient overflows: the identity of signed division holds modulo 2^64. -/
theorem div_mul_add_rem (a b : DWord) (h : b ≠ 0) : divResult .div a b * b + divResult .rem a b = a := by
  simp only [divResult, h, if_false]
  calc dwi (a.toInt.tdiv b.toInt) * b + dwi (a.toInt.tmod b.toInt)
      = dwi (a.toInt.tdiv b.toInt) * dwi b.toInt + dwi (a.toInt.tmod b.toInt) := by rw [dwi, dwi, dwi, BitVec.ofInt_toInt]
    _ = dwi (a.toInt.tdiv b.toInt * b.toInt + a.toInt.tmod b.toInt) := by simp only [dwi, BitVec.ofInt_add, BitVec.ofInt_mul]
    _ = a := by rw [Int.tdiv_mul_add_tmod, dwi, BitVec.ofInt_toInt]

theorem divu_mul_add_remu (a b : DWord) (h : b ≠ 0) : divResult .divu a b * b + divResult .remu a b = a := by
  have hn := Nat.div_add_mod' a.toNat b.toNat
  simp only [divResult, h, if_false]
  apply BitVec.eq_of_toNat_eq
  simp [hn, Nat.mod_eq_of_lt a.isLt]

theorem sh2add_eq (a b : DWord) : aluRR .sh2add a b = a * 4 + b :=
  congrArg (· + b) (BitVec.shiftLeft_eq_mul_twoPow a 2)

theorem execScalarAlu_issues {s : State} (h : s.alone .s = true) (op : AluInstr)
    (hi : s.unhindered ((aluDest op :: aluReads op).map .x) = true) :
    exec (.scalarAlu op) s = .next (s.past.launchX 1 (aluDest op) (aluResult op s.core.cur.pc s.ctx.x)) :=
  issueWord_xPlan h (by simp only [State.onePlan, State.seen_x, (State.alone_env h).1]) hi

theorem execScalarMul_issues {s : State} (h : s.alone .s = true) (op : MulOp) (d a b : Reg) (hi : s.unhindered [.x d, .x a, .x b] = true) :
    exec (.scalarMul op d a b) s = .next (s.past.launchX 3 d (mulResult op (s.ctx.x a) (s.ctx.x b))) :=
  issueWord_xPlan (rs := [a, b]) h (by simp only [State.onePlan, State.seen_x]) hi

theorem execScalarDiv_issues {s : State} (h : s.alone .s = true) (op : DivOp) (d a b : Reg) (hi : s.unhindered [.x d, .x a, .x b] = true) :
    exec (.scalarDiv op d a b) s = .next (s.past.launchX 20 d (divResult op (s.ctx.x a) (s.ctx.x b))) :=
  issueWord_xPlan (rs := [a, b]) h (by simp only [State.onePlan, State.seen_x]) hi

end Sys2Proof.Machine

namespace Sys2Proof.Proofs
open Machine

/-- Settles O6: each word issues as a plan with one x result, and the results are those of integer arithmetic. -/
theorem scalarIntegerResults : Obligations.ScalarIntegerResults := by
  unfold Obligations.ScalarIntegerResults
  refine ⟨fun s h => ⟨execScalarAlu_issues h, execScalarMul_issues h, execScalarDiv_issues h⟩,
    fun a b => ⟨mulh_toInt a b, mulhu_toNat a b, mulw_toInt a b⟩, fun a => ⟨rfl, rfl, rfl, rfl⟩, by decide, by decide,
    divu_mul_add_remu, div_mul_add_rem, fun a b => ⟨rfl, sh2add_eq a b, rfl⟩⟩

end Sys2Proof.Proofs

namespace Sys2Proof.Machine

/-! ## Floating-point words -/

theorem fpPlan_plain (rs : List Res) (d : FpDest) (lat : Nat) (r : DWord × Byte) : (fpPlan rs d lat r).Plain :=
  ⟨rfl, rfl, rfl, rfl, rfl, rfl, rfl, rfl, rfl, rfl, rfl⟩

theorem fpPlan_noAcc (rs : List Res) (d : FpDest) (lat : Nat) (r : DWord × Byte) : (fpPlan rs d lat r).noAcc = true :=
  Plan.noAcc_of fun w hw => FpDest.tracked_ne_acc w (by simpa [Plan.tracked, fpPlan] using hw)

/-- A floating-point result depends on the registers alone. -/
theorem fpResult_congr {c c' : Ctx} (hx : c.x = c'.x) (hf : c.f = c'.f) (md : RMode) (op : FpInstr) : fpResult md c op = fpResult md c' op := by
  cases op <;> simp only [fpResult, hx, hf]

theorem State.seen_fpResult (s : State) (md : RMode) (op : FpInstr) : fpResult md s.seen.ctx op = fpResult md s.ctx op :=
  fpResult_congr s.seen_x s.seen_f md op

/-- With a rounding mode that is none of the reserved ones the word issues. -/
theorem execScalarFp_issues {s : State} (h : s.alone .s = true) (op : FpInstr) (md : RMode)
    (hm : fpMode (fpRm op) s.ctx.csrs.frm = some md)
    (hi : s.unhindered (fpReads op ++ ((fpDest op).tracked (fpLat op)).map (fun p => p.1)) = true) :
    exec (.scalarFp op) s = .next (s.past.launch (fpLat op) ((fpDest op).write (fpResult md s.ctx op).1) 0
      (scalarFlags (fpResult md s.ctx op).2)) := by
  refine (issueWord_commits (p := fpPlan (fpReads op) (fpDest op) (fpLat op) (fpResult md s.ctx op)) h ?_ ((fpPlan_plain _ _ _ _).goes s)
    (fpPlan_noAcc _ _ _ _) rfl rfl hi).trans ?_
  · simp only [State.onePlan, State.seen_csrs, hm, State.seen_fpResult]
  · rw [commitEffects_one _ _ .main _ rfl]

/-- A reserved rounding mode is an illegal word (log 5). -/
theorem execScalarFp_traps {s : State} (h : s.alone .s = true) (op : FpInstr) (hm : fpMode (fpRm op) s.ctx.csrs.frm = none) :
    exec (.scalarFp op) s = .next (s.trapNow 0x07 s.loneEnv.form) := by
  refine issueWord_traps (p := (fpPlan (fpReads op) (fpDest op) (fpLat op) (0, 0)).barred [s.loneEnv.bad 0x07]) h ?_ (lowest_one _) rfl
    ⟨rfl, rfl, rfl, rfl, rfl, rfl, rfl, rfl, rfl, rfl, rfl⟩ rfl ?_
  · simp only [State.onePlan, State.seen_csrs, hm]
  · simp [Plan.barred, State.unhindered, Ctx.idle]

end Sys2Proof.Machine

namespace Sys2Proof.Proofs
open Machine

/-- Settles O7: the issue of a floating-point word with its trap, then the registers, the latency and the value of each operation. -/
theorem scalarFloatResults : Obligations.ScalarFloatResults := by
  unfold Obligations.ScalarFloatResults
  refine fun s op h => ⟨execScalarFp_issues h op, execScalarFp_traps h op, fun md => ?_⟩
  cases op with
  | arith o => cases o <;> simp [fpReads, fpDest, fpLat, fpResult]
  | mvOfX dbl => cases dbl <;> simp [fpReads, fpDest, fpLat, fpResult]
  | _ => simp [fpReads, fpDest, fpLat, fpResult]

end Sys2Proof.Proofs

namespace Sys2Proof.Machine

/-! ## CSR words (R102, R103) -/

/-- What a word sees of the state at issue is that state with some matrix-side state in it. -/
theorem State.matrixView_eq (s : State) : ∃ m, s.matrixView = s.modMat (fun _ => m) := by
  unfold State.matrixView
  split
  · exact ⟨s.core.mat, rfl⟩
  · exact ⟨_, rfl⟩

/-- The matrix-side state shows in no CSR. -/
theorem State.seen_csr (s : State) (n : Nat) : s.seen.csr n = s.atIssue.csr n := by
  obtain ⟨m, hm⟩ := s.atIssue.matrixView_eq
  rw [State.seen, hm]
  rfl

/-- What a CSR word leaves: the old value on its way to `d`, and the new one, if there is one, in the register. -/
def State.csrDone (s : State) (n : Nat) (d : Reg) (new : Option DWord) : State :=
  match new with
  | some v => (s.past.launchX 1 d (s.atIssue.csr n)).writeCsr n v
  | none => s.past.launchX 1 d (s.atIssue.csr n)

/-- A word whose source is x0, or whose immediate is 0, writes nothing. -/
theorem State.csrDone_ite (s : State) (n : Nat) (d : Reg) (c : Prop) [Decidable c] (v : DWord) :
    s.csrDone n d (if c then none else some v) = if c then s.csrDone n d none else s.csrDone n d (some v) :=
  apply_ite _ _ _ _

theorem commitEffects_csr (p : Part) (s : State) (g h : State → State) (hp : p.plan.effs = [(.control, g), (.main, h)]) :
    commitEffects [p] s = g (h s) := by
  simp [commitEffects, Part.run, hp]

section
variable {s : State} {n : BitVec 12} {rs : List Reg} {d : Reg} {f : State → DWord → Option DWord} {new : Option DWord}

theorem csrPlan_noAcc (e : Env) (f : DWord → Option DWord) : (csrPlan e s n rs d f).noAcc = true :=
  Plan.noAcc_of fun w hw => xw_ne_acc w (by simpa [Plan.tracked, csrPlan] using hw)

/-- A CSR word that the map allows commits. -/
theorem csrWord_commits (h : s.alone .s = true) (hnew : f s.seen (s.atIssue.csr n.toNat) = new) {ro sup : Bool}
    (hacc : csrAccess n.toNat = some (ro, sup)) (hro : ro = true → new = none) (hsup : sup = true → s.ctx.csrs.prv = true)
    (hi : s.unhindered (xs rs ++ (xw d 1).map (·.1)) = true) :
    issueWord (.once fun e t => csrPlan e t n rs d (f t)) s = .next (s.csrDone n.toNat d new) := by
  have hraises : (csrPlan s.loneEnv s.seen n rs d (f s.seen)).raises = [] := by
    simp only [csrPlan, hacc, State.seen_csrs, State.seen_csr, hnew]
    cases ro <;> cases sup <;> simp_all
  rw [issueWord_commits (p := csrPlan s.loneEnv s.seen n rs d (f s.seen)) h rfl
    ⟨hraises, rfl, rfl, rfl, rfl, rfl, rfl, rfl, nofun, nofun, nofun⟩ (csrPlan_noAcc _ _) rfl rfl
    hi, commitEffects_csr _ _ _ _ rfl]
  simp only [State.seen_csr, hnew]
  cases new <;> rfl

/-- A CSR word that raises one cause of its own traps with it. -/
theorem csrWord_traps (h : s.alone .s = true) {c : Nat} (hc : (s.loneEnv.bad c).isW = false)
    (hr : (csrPlan s.loneEnv s.seen n rs d (f s.seen)).raises = [s.loneEnv.bad c]) (hi : s.unhindered (xs rs ++ (xw d 1).map (·.1)) = true) :
    issueWord (.once fun e t => csrPlan e t n rs d (f t)) s = .next (s.trapNow c s.loneEnv.form) :=
  issueWord_traps h rfl (by rw [State.onePlan, hr]; rfl) hc ⟨rfl, rfl, rfl, rfl, rfl, rfl, rfl, rfl, rfl, rfl, rfl⟩ (csrPlan_noAcc _ _)
    hi

/-- A number that the map does not list. -/
theorem csrWord_unlisted (h : s.alone .s = true) (hacc : csrAccess n.toNat = none) (hi : s.unhindered (xs rs ++ (xw d 1).map (·.1)) = true) :
    issueWord (.once fun e t => csrPlan e t n rs d (f t)) s = .next (s.trapNow 0x02 s.loneEnv.form) :=
  csrWord_traps h rfl (by simp only [csrPlan, hacc]) hi

/-- A write to a read-only register. -/
theorem csrWord_readOnly (h : s.alone .s = true) (hacc : csrAccess n.toNat = some (true, false))
    (hnew : (f s.seen (s.atIssue.csr n.toNat)).isSome = true)
    (hi : s.unhindered (xs rs ++ (xw d 1).map (·.1)) = true) :
    issueWord (.once fun e t => csrPlan e t n rs d (f t)) s = .next (s.trapNow 0x02 s.loneEnv.form) :=
  csrWord_traps h rfl (by simp [csrPlan, hacc, State.seen_csr, hnew]) hi

/-- A supervisor register at user level. -/
theorem csrWord_supervisor (h : s.alone .s = true) (hacc : csrAccess n.toNat = some (false, true)) (hprv : s.ctx.csrs.prv = false)
    (hi : s.unhindered (xs rs ++ (xw d 1).map (·.1)) = true) :
    issueWord (.once fun e t => csrPlan e t n rs d (f t)) s = .next (s.trapNow 0x0C s.loneEnv.form) :=
  csrWord_traps h rfl (by simp [csrPlan, hacc, hprv, -State.matrixView_ctx]) hi

end

/-! ## What a write leaves of a value -/

/-- The low byte of a value. -/
theorem zeroExtend_truncate_byte (v : DWord) : (v.truncate 8 : Byte).zeroExtend 64 = v &&& 0xFF := by
  apply BitVec.eq_of_toNat_eq
  have h : v.toNat &&& 255 = v.toNat % 256 := Nat.and_two_pow_sub_one_eq_mod v.toNat 8
  have hl : v.toNat % 256 % 2 ^ 64 = v.toNat % 256 := by omega
  calc ((v.truncate 8 : Byte).zeroExtend 64).toNat = v.toNat % 256 % 2 ^ 64 := by simp [BitVec.toNat_setWidth]
    _ = (v &&& 0xFF).toNat := by rw [hl, ← h]; rfl

/-- The mask of tvec's fields: a page address, and a flag in bit 0. -/
theorem and_tvecMask {n : Nat} (hn : n < 2 ^ 64) : n &&& 0xFFFFFFFFFFFFF001 = 2 ^ 12 * (n / 2 ^ 12) + n % 2 := by
  have hlow : n % 2 < 2 ^ 12 := by omega
  have hmask : 0xFFFFFFFFFFFFF001 = 2 ^ 12 * (2 ^ 52 - 1) + 1 := by decide
  have hmod : n / 2 ^ 12 % 2 ^ 52 = n / 2 ^ 12 := by omega
  apply Nat.eq_of_testBit_eq
  intro j
  rw [hmask, Nat.testBit_and, Nat.testBit_two_pow_mul_add _ hlow, Nat.testBit_two_pow_mul_add _ (by decide : 1 < 2 ^ 12)]
  split
  · cases j <;> simp [Nat.testBit_zero, Nat.testBit_succ]
  · next h =>
    have hb := congrArg (fun k => k.testBit (j - 12)) hmod
    simp only [Nat.testBit_mod_two_pow, Nat.testBit_div_two_pow] at hb
    rw [Nat.testBit_two_pow_sub_one, Nat.testBit_div_two_pow, ← hb, Nat.sub_add_cancel (by omega), Bool.and_comm]

theorem tvec_write (c : Ctx) (v : DWord) :
    ({ c with csrs := c.csrs.write 0x5C4 v } : Ctx).csr 0x5C4 = v &&& 0xFFFFFFFFFFFFF001 := by
  have hbit : (v.getLsbD 0).toNat = v.toNat % 2 := by
    rw [BitVec.getLsbD, Nat.toNat_testBit]; omega
  have hv := v.isLt
  apply BitVec.eq_of_toNat_eq
  simp only [Csrs.write, Ctx.csr, Csrs.tvec, bitsOf, dw, BitVec.toNat_and, BitVec.toNat_ofNat, hbit]
  rw [show (0xFFFFFFFFFFFFF001 : DWord).toNat = 0xFFFFFFFFFFFFF001 from rfl, and_tvecMask hv]
  omega

end Sys2Proof.Machine

namespace Sys2Proof.Proofs
open Machine

/-- Settles O11: a CSR word commits where the map allows it and traps where it does not; what a write leaves is read off the
registers' fields. -/
theorem csrAccess : Obligations.CsrAccess := by
  unfold Obligations.CsrAccess
  refine ⟨fun s n d a u h hi => ?_, fun c v =>
    ⟨rfl, zeroExtend_truncate_byte v, tvec_write c v, rfl, zeroExtend_truncate_byte v, rfl, rfl, rfl, rfl, rfl⟩⟩
  have ha : s.unhindered (xs [a] ++ (xw d 1).map (·.1)) = true := unhindered_xs_xw (rs := [a]) 1 hi
  have hn : s.unhindered (xs [] ++ (xw d 1).map (·.1)) = true := State.unhindered_sub ha fun r hr => List.mem_append_right _ hr
  have hz : s.unhindered (xs [0] ++ (xw d 1).map (·.1)) = true := hn
  refine ⟨fun sup hacc hsup => ⟨?_, ?_, ?_, ?_, ?_, ?_⟩, fun hacc => ⟨?_, ?_, ?_⟩, fun hacc => ⟨?_, ?_⟩, fun hacc hprv => ?_⟩
  · exact csrWord_commits (f := fun t _ => some (t.ctx.x a)) h (by rw [State.seen_x]) hacc nofun hsup ha
  · exact (csrWord_commits (f := fun t v => if a = 0 then none else some (v ||| t.ctx.x a)) h (by rw [State.seen_x]) hacc nofun hsup ha).trans
      (congrArg _ (s.csrDone_ite _ _ _ _))
  · exact (csrWord_commits (f := fun t v => if a = 0 then none else some (v &&& ~~~(t.ctx.x a))) h (by rw [State.seen_x]) hacc nofun hsup ha).trans
      (congrArg _ (s.csrDone_ite _ _ _ _))
  · exact csrWord_commits (f := fun _ _ => some (u.zeroExtend 64)) h rfl hacc nofun hsup hn
  · exact (csrWord_commits (f := fun _ v => if u = 0 then none else some (v ||| u.zeroExtend 64)) h rfl hacc nofun hsup hn).trans
      (congrArg _ (s.csrDone_ite _ _ _ _))
  · exact (csrWord_commits (f := fun _ v => if u = 0 then none else some (v &&& ~~~(u.zeroExtend 64))) h rfl hacc nofun hsup hn).trans
      (congrArg _ (s.csrDone_ite _ _ _ _))
  · exact csrWord_commits (f := fun t v => if (0 : Reg) = 0 then none else some (v ||| t.ctx.x 0)) h rfl hacc (fun _ => rfl) nofun hz
  · exact csrWord_commits (f := fun t v => if (0 : Reg) = 0 then none else some (v &&& ~~~(t.ctx.x 0))) h rfl hacc (fun _ => rfl) nofun hz
  · exact csrWord_readOnly (f := fun t _ => some (t.ctx.x a)) h hacc rfl ha
  · exact csrWord_unlisted (f := fun t _ => some (t.ctx.x a)) h hacc ha
  · exact csrWord_unlisted (f := fun _ v => if u = 0 then none else some (v ||| u.zeroExtend 64)) h hacc hn
  · exact csrWord_supervisor (f := fun t _ => some (t.ctx.x a)) h hacc hprv ha

end Sys2Proof.Proofs

namespace Sys2Proof.Machine

/-! ## Bytes written over others: at a home, in a guest copy and in a line of the core cache alike (R264, R265) -/

/-- What location `a`, which held `b`, holds once bytes have been written in their order. -/
def overlaid (bytes : List (Nat × Byte)) (a : Nat) (b : Byte) : Byte := bytes.foldl (fun b q => if q.1 = a then q.2 else b) b

@[simp] theorem overlaid_nil (a : Nat) (b : Byte) : overlaid [] a b = b := rfl
theorem overlaid_cons (p : Nat × Byte) (r : List (Nat × Byte)) (a : Nat) (b : Byte) :
    overlaid (p :: r) a b = overlaid r a (if p.1 = a then p.2 else b) := rfl
theorem overlaid_append (x y : List (Nat × Byte)) (a : Nat) (b : Byte) : overlaid (x ++ y) a b = overlaid y a (overlaid x a b) := List.foldl_append

/-- Where every byte given for a location is `v`, and some is or `v` stood there, it holds `v`. -/
theorem overlaid_eq {bytes : List (Nat × Byte)} {a : Nat} {b v : Byte} (hv : ∀ p ∈ bytes, p.1 = a → p.2 = v)
    (h : (∃ p ∈ bytes, p.1 = a) ∨ b = v) : overlaid bytes a b = v := by
  induction bytes generalizing b with
  | nil => simpa using h
  | cons p r ih =>
    rw [overlaid_cons]
    refine ih (fun q hq => hv q (List.mem_cons_of_mem _ hq)) ?_
    by_cases hp : p.1 = a
    · exact .inr (by rw [if_pos hp]; exact hv p List.mem_cons_self hp)
    · rw [if_neg hp]
      refine h.imp_left fun ⟨q, hq, hqa⟩ => ⟨q, ?_, hqa⟩
      exact (List.mem_cons.mp hq).resolve_left fun e => hp (e ▸ hqa)

theorem overlaid_outside {bytes : List (Nat × Byte)} {a : Nat} {b : Byte} (h : ∀ p ∈ bytes, p.1 ≠ a) : overlaid bytes a b = b :=
  overlaid_eq (fun p hp e => absurd e (h p hp)) (.inr rfl)

/-! ### Bytes at consecutive locations -/

theorem mem_placed {l : Nat} {bs : List Byte} {p : Nat × Byte} : p ∈ placed l bs ↔ ∃ i, ∃ h : i < bs.length, p = (l + i, bs[i]) := by
  induction bs generalizing l with
  | nil => simp [placed]
  | cons b r ih =>
    rw [placed, List.mem_cons, ih]
    constructor
    · rintro (h | ⟨i, hi, h⟩)
      · exact ⟨0, by simp, h⟩
      · exact ⟨i + 1, by simpa using hi, by rw [h]; simp; omega⟩
    · rintro ⟨i, hi, h⟩
      cases i with
      | zero => exact .inl h
      | succ i => exact .inr ⟨i, by simpa using hi, by rw [h]; simp; omega⟩

theorem placed_ne_nil {l : Nat} {bs : List Byte} (h : 0 < bs.length) : placed l bs ≠ [] := by
  cases bs with
  | nil => simp at h
  | cons b r => simp [placed]

theorem length_placed (l : Nat) (bs : List Byte) : (placed l bs).length = bs.length := by
  induction bs generalizing l with
  | nil => rfl
  | cons b r ih => simp [placed, ih]

theorem getElem_placed (l : Nat) (bs : List Byte) (i : Nat) (h : i < (placed l bs).length) :
    (placed l bs)[i] = (l + i, bs[i]'(by rwa [length_placed] at h)) := by
  induction bs generalizing l i with
  | nil => simp [placed] at h
  | cons b r ih =>
    cases i with
    | zero => rfl
    | succ i =>
      have := ih (l + 1) i (by simpa [placed] using h)
      simp only [placed, List.getElem_cons_succ, this, Prod.mk.injEq, and_true]
      omega

theorem length_leBytes (n v : Nat) : (leBytes n v).length = n := by
  induction n generalizing v with
  | zero => rfl
  | succ n ih => simp [leBytes, ih]

theorem overlaid_placed (l : Nat) (bs : List Byte) (b : Byte) (i : Nat) (h : i < bs.length) : overlaid (placed l bs) (l + i) b = bs[i] := by
  refine overlaid_eq (fun p hp hpa => ?_) (.inl ⟨_, mem_placed.mpr ⟨i, h, rfl⟩, rfl⟩)
  obtain ⟨j, hj, rfl⟩ := mem_placed.mp hp
  have hji : j = i := by simpa using hpa
  subst hji
  rfl

/-! ### Bytes over those of a line -/

theorem length_patched (line : Nat) (old : List Byte) (bytes : List (Nat × Byte)) : (patched line old bytes).length = old.length := by
  simp [patched, length_placed]

theorem getElem_patched (line : Nat) (old : List Byte) (bytes : List (Nat × Byte)) (i : Nat) (h : i < (patched line old bytes).length) :
    (patched line old bytes)[i] = overlaid bytes (line + i) (old[i]'(by rwa [length_patched] at h)) := by
  simp [patched, getElem_placed, overlaid]

/-- The bytes put over a line are found in it. -/
theorem drop_take_patched {line l : Nat} {old bs : List Byte} (hl : line ≤ l) (hn : l + bs.length ≤ line + old.length) :
    ((patched line old (placed l bs)).drop (l - line)).take bs.length = bs := by
  refine List.ext_getElem (by simp [length_patched]; omega) fun i h1 h2 => ?_
  rw [List.getElem_take, List.getElem_drop, getElem_patched]
  have : line + (l - line + i) = l + i := by omega
  rw [this, overlaid_placed l bs _ i h2]

/-- Outside the bytes put over it a line stays. -/
theorem drop_take_one_patched {line m : Nat} {old : List Byte} {bytes : List (Nat × Byte)} (hm : line ≤ m) (h : ∀ p ∈ bytes, p.1 ≠ m) :
    ((patched line old bytes).drop (m - line)).take 1 = (old.drop (m - line)).take 1 := by
  refine List.ext_getElem (by simp [length_patched]) fun i h1 h2 => ?_
  have hi : i = 0 := by simp at h1; omega
  subst hi
  rw [List.getElem_take, List.getElem_drop, getElem_patched, List.getElem_take, List.getElem_drop]
  have : line + (m - line + 0) = m := by omega
  rw [this, overlaid_outside h]

/-! ### Bytes of one line -/

theorem lineOf_mod (l : Nat) : lineOf l % 64 = 0 := Nat.mul_mod_left _ _
theorem lineOf_le (l : Nat) : lineOf l ≤ l := Nat.div_mul_le_self _ _
theorem lt_lineOf_add (l : Nat) : l < lineOf l + 64 := by dsimp only [lineOf, Loc]; omega
theorem sub_lineOf (l : Nat) : l - lineOf l = l % 64 := by dsimp only [lineOf, Loc]; omega
theorem lineOf_add {line i : Nat} (h : line % 64 = 0) (hi : i < 64) : lineOf (line + i) = line := by
  dsimp only [lineOf, Loc]
  omega
theorem lineOf_add_within {l i n : Nat} (h : l % 64 + n ≤ 64) (hi : i < n) : lineOf (l + i) = lineOf l := by
  dsimp only [lineOf, Loc]
  omega

/-- All these bytes lie in one line. -/
def OneLine (line : Nat) (bytes : List (Nat × Byte)) : Prop := ∀ p ∈ bytes, lineOf p.1 = line

theorem distinct_replicate {α : Type} [DecidableEq α] (a : α) (n : Nat) : distinct (List.replicate (n + 1) a) = [a] := by
  induction n with
  | zero => simp [distinct]
  | succ n ih => rw [List.replicate_succ, distinct, ih]; simp

/-- Bytes of one line are one group. -/
theorem byLine_oneLine {line : Nat} {bytes : List (Nat × Byte)} (h : OneLine line bytes) (hne : bytes ≠ []) : byLine bytes = [bytes] := by
  have hmap : bytes.map (fun p => lineOf p.1) = List.replicate (bytes.length - 1 + 1) line := by
    refine List.eq_replicate_iff.mpr ⟨?_, fun b hb => ?_⟩
    · have := List.length_pos_iff.mpr hne
      simp; omega
    · obtain ⟨p, hp, rfl⟩ := List.mem_map.mp hb
      exact h p hp
  have hfilter : bytes.filter (fun p => lineOf p.1 == line) = bytes := List.filter_eq_self.mpr fun p hp => by simp [h p hp]
  rw [byLine, hmap, distinct_replicate]
  simp [hfilter]

theorem placed_oneLine {l : Nat} {bs : List Byte} (h : l % 64 + bs.length ≤ 64) : OneLine (lineOf l) (placed l bs) := by
  intro p hp
  obtain ⟨i, hi, rfl⟩ := mem_placed.mp hp
  exact lineOf_add_within h hi

/-! ### Dirty bytes of a line of the core cache -/

theorem mem_dirtyBytes {x : CLine} {p : Nat × Byte} :
    p ∈ x.dirtyBytes ↔ ∃ i, ∃ h : i < x.bytes.length, p = (x.line + i, x.bytes[i]) ∧ x.dirty.getLsbD i = true := by
  rw [CLine.dirtyBytes, List.mem_filter, mem_placed]
  constructor
  · rintro ⟨⟨i, hi, rfl⟩, hd⟩
    exact ⟨i, hi, rfl, by simpa using hd⟩
  · rintro ⟨i, hi, rfl, hd⟩
    exact ⟨⟨i, hi, rfl⟩, by simpa using hd⟩

theorem dirtyBytes_oneLine {x : CLine} (hline : x.line % 64 = 0) (hlen : x.bytes.length = 64) : OneLine x.line x.dirtyBytes := by
  intro p hp
  obtain ⟨i, hi, rfl, -⟩ := mem_dirtyBytes.mp hp
  exact lineOf_add hline (hlen ▸ hi)

/-- The dirty bytes of a line over bytes from which it differs in them alone are the line's own. -/
theorem overlaid_dirtyBytes {x : CLine} {i : Nat} {b : Byte} (h : i < x.bytes.length)
    (hclean : x.dirty.getLsbD i = false → x.bytes.getD i 0 = b) : overlaid x.dirtyBytes (x.line + i) b = x.bytes[i] := by
  refine overlaid_eq (fun p hp hpa => ?_) ?_
  · obtain ⟨j, hj, rfl, -⟩ := mem_dirtyBytes.mp hp
    have hji : j = i := by simpa using hpa
    subst hji
    rfl
  · cases hd : x.dirty.getLsbD i with
    | true => exact .inl ⟨_, mem_dirtyBytes.mpr ⟨i, h, rfl, hd⟩, rfl⟩
    | false => exact .inr (by simpa [h] using (hclean hd).symm)

/-! ## Locations of this package's HBM -/

theorem isHbm_iff {s : State} {l : Nat} : s.isHbm l = true ↔ l < 2 ^ 60 ∧ l / 2 ^ 43 % 2 ^ 17 = s.pkgId ∧ l % 2 ^ 43 < 2 ^ 40 := by
  unfold State.isHbm
  rw [Bool.and_eq_true, Bool.and_eq_true, decide_eq_true_iff, decide_eq_true_iff, beq_iff_eq, and_assoc]
  rfl

theorem isHbm_congr {s t : State} (h : t.pkgId = s.pkgId) (l : Loc) : t.isHbm l = s.isHbm l := by
  simp only [State.isHbm, h]

/-- A line lies in HBM or outside it as a whole. -/
theorem isHbm_lineOf {s : State} {l : Nat} : s.isHbm (lineOf l) = s.isHbm l := by
  rw [Bool.eq_iff_iff, isHbm_iff, isHbm_iff]
  dsimp only [lineOf, Loc]
  omega

theorem isHbm_oneLine {s : State} {line : Nat} {bytes : List (Nat × Byte)} (h : OneLine line bytes) :
    ∀ p ∈ bytes, s.isHbm p.1 = s.isHbm line := by
  intro p hp
  rw [← h p hp, isHbm_lineOf]

/-- Locations of HBM with one offset are one. -/
theorem locOff_inj {s : State} {a b : Nat} (ha : s.isHbm a = true) (hb : s.isHbm b = true) (h : locOff a = locOff b) : a = b := by
  rw [isHbm_iff] at ha hb
  dsimp only [locOff, Loc] at h
  omega

theorem isHbm_lt {s : State} {l : Nat} (h : s.isHbm l = true) : ¬ l ≥ cellarBase := by
  have := (isHbm_iff.mp h).1
  unfold cellarBase
  omega

theorem region_hbm {s : State} {l : Nat} (h : s.isHbm l = true) : s.region false l = .hbm := by
  obtain ⟨-, hpkg, hoff⟩ := isHbm_iff.mp h
  unfold State.region
  rw [if_neg (isHbm_lt h)]
  exact (if_pos hoff).trans (if_pos (decide_eq_true hpkg))

theorem isHbm_of_region {s : State} {l : Nat} (h : s.region false l = .hbm) : s.isHbm l = true := by
  unfold State.region at h
  split at h
  · split at h <;> simp at h
  · next hlt =>
    dsimp only at h
    split at h
    · next hoff =>
      split at h
      · next hown => exact isHbm_iff.mpr ⟨Nat.lt_of_not_ge hlt, of_decide_eq_true hown, hoff⟩
      · split at h <;> simp at h
    · split at h
      · split at h <;> simp at h
      · split at h
        · split at h <;> simp at h
        · simp at h

theorem cellar_of_region {s : State} {l : Nat} (h : s.region false l = .cellar) : l ≥ cellarBase := by
  refine Decidable.byContradiction fun hlt => ?_
  unfold State.region at h
  rw [if_neg hlt] at h
  simp only at h
  split at h
  · split at h
    · simp at h
    · split at h <;> simp at h
  · split at h
    · split at h <;> simp at h
    · split at h
      · split at h <;> simp at h
      · simp at h

/-! ## What an operation on memory does, as a read of the core finds it -/

/-- The guest copies in the core's die of lines of this package hold what the homes hold (R264, R315). -/
def State.GuestsCoherent (s : State) : Prop :=
  ∀ x ∈ s.pkg.l2, ∀ g, x.guest = some g → x.slice.val = guestSlice s.die x.line → x.line % 64 = 0 → s.isHbm x.line = true →
    g = s.bytesAt x.line 64

/-- An operation that writes these bytes to their homes and leaves the core cache: what it keeps of the core, and what the homes hold
after it. -/
structure Wrote (bytes : List (Nat × Byte)) (s t : State) : Prop where
  cache : t.core.cache = s.core.cache
  split : t.core.split = s.core.split
  active : t.core.active = s.core.active
  bankMode : t.core.bankMode = s.core.bankMode
  seg : t.ctx.seg = s.ctx.seg
  coreId : t.coreId = s.coreId
  pkgId : t.pkgId = s.pkgId
  home : ∀ a, s.isHbm a = true → t.byteAt a = overlaid bytes a (s.byteAt a)
  guests : s.GuestsCoherent → t.GuestsCoherent

theorem Wrote.refl (s : State) : Wrote [] s s := ⟨rfl, rfl, rfl, rfl, rfl, rfl, rfl, fun _ _ => rfl, id⟩

theorem Wrote.trans {x y : List (Nat × Byte)} {s t u : State} (h : Wrote x s t) (k : Wrote y t u) : Wrote (x ++ y) s u where
  cache := k.cache.trans h.cache
  split := k.split.trans h.split
  active := k.active.trans h.active
  bankMode := k.bankMode.trans h.bankMode
  seg := k.seg.trans h.seg
  coreId := k.coreId.trans h.coreId
  pkgId := k.pkgId.trans h.pkgId
  home a ha := by rw [k.home a (by rwa [isHbm_congr h.pkgId]), h.home a ha, overlaid_append]
  guests hg := k.guests (h.guests hg)

theorem Wrote.isHbm {x : List (Nat × Byte)} {s t : State} (h : Wrote x s t) (a : Nat) : t.isHbm a = s.isHbm a := isHbm_congr h.pkgId a
theorem Wrote.cacheHalf {x : List (Nat × Byte)} {s t : State} (h : Wrote x s t) : t.cacheHalf = s.cacheHalf := by
  simp only [State.cacheHalf, h.split, h.active]
theorem Wrote.findLine {x : List (Nat × Byte)} {s t : State} (h : Wrote x s t) (k : Half) (l : Loc) : t.findLine k l = s.findLine k l := by
  simp only [State.findLine, h.cache]

/-- Operations of a list that write nothing write nothing together. -/
theorem Wrote.foldl {α : Type} {f : State → α → State} (h : ∀ s a, Wrote [] s (f s a)) (l : List α) (s : State) :
    Wrote [] s (l.foldl f s) := by
  induction l generalizing s with
  | nil => exact Wrote.refl s
  | cons a r ih => exact (h s a).trans (ih _)

theorem byteAt_hbm {s : State} {a : Nat} (h : s.isHbm a = true) : s.byteAt a = s.pkg.hbm.get (locOff a) := if_neg (isHbm_lt h)

/-- Bytes of HBM with equal contents there are equal. -/
theorem byteAt_congr {s t : State} (hhbm : t.pkg.hbm = s.pkg.hbm) {a : Nat} (h : s.isHbm a = true) : t.byteAt a = s.byteAt a := by
  rw [byteAt_hbm h, ← hhbm]
  exact if_neg (isHbm_lt h)

/-- Every guest copy of some lines stands among others too. -/
def GuestsFrom (new old : List L2Line) : Prop :=
  ∀ x ∈ new, x.guest = none ∨ ∃ y ∈ old, y.guest = x.guest ∧ y.line = x.line ∧ y.slice = x.slice

theorem GuestsFrom.refl (l : List L2Line) : GuestsFrom l l := fun x hx => .inr ⟨x, hx, rfl, rfl, rfl⟩

theorem bytesAt_congr {s t : State} {line : Nat} {n : Nat} (h : ∀ i < n, t.byteAt (line + i) = s.byteAt (line + i)) :
    t.bytesAt line n = s.bytesAt line n :=
  List.map_congr_left fun i hi => h i (List.mem_range.mp hi)

theorem isHbm_add {s : State} {line i : Nat} (h : s.isHbm line = true) (hl : line % 64 = 0) (hi : i < 64) : s.isHbm (line + i) = true := by
  rw [← isHbm_lineOf, lineOf_add hl hi, h]

theorem State.die_eq {s t : State} (h : t.coreId = s.coreId) : t.die = s.die := by simp only [State.die, h]

/-- An operation that leaves the homes, and makes no guest copy that was not there, writes nothing. -/
theorem Wrote.quiet {s t : State} (cache : t.core.cache = s.core.cache) (split : t.core.split = s.core.split)
    (active : t.core.active = s.core.active) (bankMode : t.core.bankMode = s.core.bankMode) (seg : t.ctx.seg = s.ctx.seg)
    (coreId : t.coreId = s.coreId) (pkgId : t.pkgId = s.pkgId) (hbm : t.pkg.hbm = s.pkg.hbm)
    (l2 : GuestsFrom t.pkg.l2 s.pkg.l2) : Wrote [] s t where
  cache := cache
  split := split
  active := active
  bankMode := bankMode
  seg := seg
  coreId := coreId
  pkgId := pkgId
  home _ ha := byteAt_congr hbm ha
  guests hg := by
    intro x hx g hxg hslice hline hhbm
    rw [isHbm_congr pkgId] at hhbm
    rw [State.die_eq coreId] at hslice
    obtain hnone | ⟨y, hy, hyg, hyl, hys⟩ := l2 x hx
    · simp [hnone] at hxg
    · rw [hg y hy g (hyg.trans hxg) (by rw [hys, hyl, hslice]) (by rw [hyl, hline]) (by rw [hyl, hhbm]), hyl]
      exact (bytesAt_congr fun i hi => byteAt_congr hbm (isHbm_add hhbm hline hi)).symm

/-! ### The L2 slices -/

/-- An operation on the package that leaves memory and the device registers, and makes no guest copy. -/
theorem Wrote.modPkg {s : State} (f : Pkg → Pkg) (hdev : (f s.pkg).dev = s.pkg.dev) (hhbm : (f s.pkg).hbm = s.pkg.hbm)
    (hl2 : GuestsFrom (f s.pkg).l2 s.pkg.l2) : Wrote [] s (s.modPkg f) :=
  Wrote.quiet rfl rfl rfl rfl rfl rfl (by simp only [State.pkgId, State.dev, State.modPkg_pkg, hdev]) hhbm hl2

theorem devCluster_ne_zero (sl r : Nat) : devCluster sl r ≠ 0 := by
  unfold devCluster devDie
  omega

/-- A register other than the package number changes. -/
theorem Wrote.bump (off n : Nat) (h : off ≠ 0) (s : State) : Wrote [] s (s.bump off n) :=
  Wrote.quiet rfl rfl rfl rfl rfl rfl
    (by simp only [State.pkgId, State.dev, State.bump, State.setDev, State.modPkg_pkg, tget_tset, if_neg h]) rfl (GuestsFrom.refl _)

theorem Wrote.l2HitAt (sl : Nat) (l : Loc) (hint : Fin 4) (s : State) : Wrote [] s (s.l2HitAt sl l hint) := by
  refine Wrote.modPkg _ rfl rfl fun x hx => ?_
  obtain ⟨y, hy, rfl⟩ := List.mem_map.mp hx
  refine .inr ⟨y, hy, ?_⟩
  split <;> exact ⟨rfl, rfl, rfl⟩

theorem Wrote.l2PutHome (sl way : Nat) (l : Loc) (hint : Fin 4) (s : State) : Wrote [] s (s.l2Put sl way l hint none) := by
  refine Wrote.modPkg _ rfl rfl fun x hx => ?_
  rcases List.mem_append.mp hx with hx | hx
  · exact .inr ⟨x, (List.mem_filter.mp hx).1, rfl, rfl, rfl⟩
  · exact .inl (by rw [List.mem_singleton.mp hx])

theorem Wrote.l2FillAs (ovf : Bool) (l : Loc) (hint : Fin 4) (s : State) : Wrote [] s (s.l2FillAs ovf l hint) := by
  unfold State.l2FillAs
  dsimp only
  split
  · split
    · exact Wrote.l2PutHome _ _ _ _ _
    · split
      · exact (Wrote.l2PutHome _ _ _ _ _).trans (Wrote.bump _ _ (devCluster_ne_zero _ _) _)
      · exact Wrote.l2PutHome _ _ _ _ _
  · exact Wrote.l2PutHome _ _ _ _ _

/-- A request to a slice writes nothing. -/
theorem Wrote.l2Req (l : Loc) (hint : Fin 4) (s : State) : Wrote [] s (s.l2Req l hint) := by
  unfold State.l2Req
  dsimp only
  split
  · exact (Wrote.l2HitAt _ _ _ _).trans (Wrote.bump _ _ (devCluster_ne_zero _ _) _)
  · split
    · exact Wrote.refl s
    · split
      · exact (Wrote.l2HitAt _ _ _ _).trans (Wrote.bump _ _ (devCluster_ne_zero _ _) _)
      · exact (Wrote.l2FillAs _ _ _ _).trans (Wrote.bump _ _ (devCluster_ne_zero _ _) _)

/-! ### Writes at their homes -/

theorem Wrote.drawn (s : State) : Wrote [] s s.drawn := Wrote.quiet rfl rfl rfl rfl rfl rfl rfl rfl (GuestsFrom.refl _)

theorem Wrote.markPoison (ls : List Loc) (s : State) : Wrote [] s (s.markPoison ls) := by
  unfold State.markPoison
  split
  · exact Wrote.refl s
  · exact Wrote.modPkg _ rfl rfl (GuestsFrom.refl _)

theorem modAllBanks_seqOf (f : Half → Fin 2 → Ctx → Ctx) (s : State) (h : Half) :
    (s.modAllBanks f).seqOf h = ((s.seqOf h).modBank 0 (f h 0)).modBank 1 (f h 1) := by
  cases h
  · rw [State.modAllBanks, State.modSeq_other .b .a _ _ nofun, State.modSeq_seqOf]
  · rw [State.modAllBanks, State.modSeq_seqOf, State.modSeq_other .a .b _ _ nofun]

theorem Seq.modBanks_get (q : Seq) (f g : Ctx → Ctx) (b : Fin 2) :
    ((q.modBank 0 f).modBank 1 g).banks.get b = if b = 0 then f (q.banks.get 0) else g (q.banks.get 1) := by
  obtain rfl | rfl : b = 0 ∨ b = 1 := by omega
  · rw [Seq.modBank_get_other _ _ _ _ (by decide), Seq.modBank_get, if_pos rfl]
  · rw [Seq.modBank_get, Seq.modBank_get_other _ _ _ _ (by decide), if_neg (by decide)]

@[simp] theorem modAllBanks_active (f : Half → Fin 2 → Ctx → Ctx) (s : State) : (s.modAllBanks f).core.active = s.core.active := by
  simp [State.modAllBanks]

theorem modAllBanks_ctx (f : Half → Fin 2 → Ctx → Ctx) (s : State) : (s.modAllBanks f).ctx = f s.core.active s.sq.running s.ctx := by
  have hb : s.sq.running = 0 ∨ s.sq.running = 1 := by omega
  rw [State.ctx, State.sq, modAllBanks_active, modAllBanks_seqOf, Seq.ctx, Seq.modBank_running, Seq.modBank_running, Seq.modBanks_get]
  change (if s.sq.running = 0 then f s.core.active 0 (s.sq.banks.get 0) else f s.core.active 1 (s.sq.banks.get 1)) =
    f s.core.active s.sq.running (s.sq.banks.get s.sq.running)
  obtain h | h := hb
  · rw [h, if_pos rfl]
  · rw [h, if_neg (by decide)]

theorem Wrote.dropResv (who : Option (Half × Fin 2)) (line : Loc) (s : State) : Wrote [] s (s.dropResv who line) := by
  have hpkg : (s.dropResv who line).pkg = s.pkg := by simp [State.dropResv, State.modAllBanks]
  refine Wrote.quiet ?_ ?_ ?_ ?_ ?_ ?_ (by simp only [State.pkgId, State.dev, hpkg]) (by rw [hpkg]) (by rw [hpkg]; exact GuestsFrom.refl _)
  · simp [State.dropResv, State.modAllBanks]
  · simp [State.dropResv, State.modAllBanks]
  · simp [State.dropResv, State.modAllBanks]
  · simp [State.dropResv, State.modAllBanks]
  · rw [State.dropResv, modAllBanks_ctx]
    split <;> rfl
  · simp [State.dropResv, State.modAllBanks]

/-- Only what homes hold differs: not the core, the registers, or the lines in the L2 slices. -/
structure HomesOnly (s t : State) : Prop where
  core : t.core = s.core
  coreId : t.coreId = s.coreId
  dev : t.pkg.dev = s.pkg.dev
  l2 : t.pkg.l2 = s.pkg.l2

theorem HomesOnly.setByte (l : Loc) (b : Byte) (s : State) : HomesOnly s (s.setByte l b) := by
  unfold State.setByte
  split
  · exact ⟨rfl, rfl, rfl, rfl⟩
  · refine ⟨rfl, rfl, ?_, ?_⟩ <;> rw [State.modPkg_pkg] <;> split <;> rfl

theorem HomesOnly.setBytes (bytes : List (Loc × Byte)) (s : State) : HomesOnly s (s.setBytes bytes) := by
  induction bytes generalizing s with
  | nil => exact ⟨rfl, rfl, rfl, rfl⟩
  | cons p r ih =>
    have h := HomesOnly.setByte p.1 p.2 s
    have k := ih (s.setByte p.1 p.2)
    exact ⟨k.core.trans h.core, k.coreId.trans h.coreId, k.dev.trans h.dev, k.l2.trans h.l2⟩

theorem pkgId_congr {s t : State} (h : t.pkg.dev = s.pkg.dev) : t.pkgId = s.pkgId := by simp only [State.pkgId, State.dev, h]

/-- A byte written here reads as written, and every other byte of HBM as before. -/
theorem byteAt_setByte {s : State} {l a : Nat} (b : Byte) (hl : s.isHbm l = true ∨ l ≥ cellarBase) (ha : s.isHbm a = true) :
    (s.setByte l b).byteAt a = if l = a then b else s.byteAt a := by
  rcases hl with hl | hl
  · have hlt := isHbm_lt hl
    have hset : s.setByte l b = s.modPkg (fun p => { p with hbm := p.hbm.set (locOff l) b }) := by simp [State.setByte, hlt]
    rw [hset, byteAt_hbm ha, byteAt_hbm (by exact ha), State.modPkg_pkg]
    show (s.pkg.hbm.set (locOff l) b).get (locOff a) = _
    rw [Mem.get_set]
    by_cases h : l = a
    · rw [h, if_pos rfl, if_pos rfl]
    · rw [if_neg fun e => h (locOff_inj hl ha e), if_neg h]
  · have hne : l ≠ a := fun e => isHbm_lt ha (e ▸ hl)
    rw [if_neg hne]
    refine byteAt_congr ?_ ha
    unfold State.setByte
    split
    · rfl
    · rfl

theorem byteAt_setBytes {bytes : List (Nat × Byte)} {s : State} (hb : ∀ p ∈ bytes, s.isHbm p.1 = true ∨ p.1 ≥ cellarBase) {a : Nat}
    (ha : s.isHbm a = true) : (s.setBytes bytes).byteAt a = overlaid bytes a (s.byteAt a) := by
  induction bytes generalizing s with
  | nil => rfl
  | cons p r ih =>
    have hid := isHbm_congr (pkgId_congr (HomesOnly.setByte p.1 p.2 s).dev)
    show ((s.setByte p.1 p.2).setBytes r).byteAt a = _
    rw [ih (fun q hq => by rw [hid]; exact hb q (List.mem_cons_of_mem _ hq)) (by rwa [hid]),
      byteAt_setByte p.2 (hb p List.mem_cons_self) ha, overlaid_cons]

/-! ### Guest copies in the core's die -/

section
variable {s : State} {line : Nat} {bytes : List (Nat × Byte)}

theorem patchGuests_of_none (hone : OneLine line bytes) (h : s.guestOf line = none) : s.patchGuests bytes = s := by
  unfold State.patchGuests
  cases bytes with
  | nil => rfl
  | cons p r => simp [byLine_oneLine hone (by simp), hone p (by simp), h]

theorem patchGuests_of_some (hone : OneLine line bytes) (hne : bytes ≠ []) {old : List Byte} (h : s.guestOf line = some old) :
    s.patchGuests bytes = s.modPkg (fun p => { p with l2 := p.l2.map (fun x =>
      if x.slice.val = guestSlice s.die line ∧ x.line = line then { x with guest := some (patched line old bytes) } else x) }) := by
  have hin : s.guestIn s.die line = some old := h
  unfold State.patchGuests
  cases bytes with
  | nil => exact absurd rfl hne
  | cons p r => simp [byLine_oneLine hone (by simp), hone p (by simp), h, State.putGuest, hin]

/-- Where a guest copy of a line of this package is found, it holds the home's bytes. -/
theorem State.GuestsCoherent.guestOf (h : s.GuestsCoherent) (hl : line % 64 = 0) (hhbm : s.isHbm line = true) {g : List Byte}
    (hg : s.guestOf line = some g) : g = s.bytesAt line 64 := by
  obtain ⟨x, hx, hxg⟩ := List.exists_of_findSome?_eq_some hg
  split at hxg
  · next hk =>
    obtain ⟨hslice, rfl⟩ := hk
    exact h x hx g hxg hslice hl hhbm
  · simp at hxg

theorem guestOf_none (h : s.guestOf line = none) {x : L2Line} (hx : x ∈ s.pkg.l2) (hslice : x.slice.val = guestSlice s.die line)
    (hline : x.line = line) : x.guest = none := by
  have := List.findSome?_eq_none_iff.mp h x hx
  simpa [hslice, hline] using this

/-- The line's bytes, with others over them, at their home and in a guest copy. -/
theorem patched_bytesAt {t : State} (h : ∀ i < 64, t.byteAt (line + i) = overlaid bytes (line + i) (s.byteAt (line + i))) :
    patched line (s.bytesAt line 64) bytes = t.bytesAt line 64 := by
  refine List.ext_getElem (by simp [length_patched, State.bytesAt]) fun i h1 h2 => ?_
  have hi : i < 64 := by simpa [State.bytesAt] using h2
  rw [getElem_patched]
  simp [State.bytesAt, h i hi]

/-- The guest copies of the core's die take what is written to a line's home. -/
theorem Wrote.patching (hone : OneLine line bytes) (hne : bytes ≠ []) {t : State} (core : t.core = s.core)
    (coreId : t.coreId = s.coreId) (pkgId : t.pkgId = s.pkgId)
    (home : ∀ a, s.isHbm a = true → t.byteAt a = overlaid bytes a (s.byteAt a))
    (l2 : t.pkg.l2 = (s.patchGuests bytes).pkg.l2) : Wrote bytes s t := by
  have hctx : t.ctx = s.ctx := by simp only [State.ctx, State.sq, State.seqOf, core]
  refine ⟨by rw [core], by rw [core], by rw [core], by rw [core], by rw [hctx], coreId, pkgId, home, fun hg x hx g hxg hslice hmod hhbm => ?_⟩
  rw [isHbm_congr pkgId] at hhbm
  rw [State.die_eq coreId] at hslice
  have hhome : ∀ i < 64, t.byteAt (x.line + i) = overlaid bytes (x.line + i) (s.byteAt (x.line + i)) :=
    fun i hi => home _ (isHbm_add hhbm hmod hi)
  -- a copy of another line is not written, nor is its home
  have hother : x ∈ s.pkg.l2 → x.line ≠ line → g = t.bytesAt x.line 64 := by
    intro hx' hl
    rw [hg x hx' g hxg hslice hmod hhbm]
    refine (bytesAt_congr fun i hi => (hhome i hi).trans (overlaid_outside fun p hp e => hl ?_)).symm
    rw [← hone p hp, e, lineOf_add hmod hi]
  rw [l2] at hx
  cases hguest : s.guestOf line with
  | none =>
    rw [patchGuests_of_none hone hguest] at hx
    refine hother hx fun hl => ?_
    rw [guestOf_none hguest hx (hl ▸ hslice) hl] at hxg
    simp at hxg
  | some old =>
    rw [patchGuests_of_some hone hne hguest] at hx
    obtain ⟨y, hy, rfl⟩ := List.mem_map.mp hx
    by_cases hk : y.slice.val = guestSlice s.die line ∧ y.line = line
    · obtain ⟨hs, rfl⟩ := hk
      simp only [hs, and_self, if_true] at hxg hmod hhbm hhome ⊢
      rw [← Option.some.inj hxg, hg.guestOf hmod hhbm hguest, patched_bytesAt hhome]
    · simp only [hk, if_false] at hxg hslice hother ⊢
      exact hother hy fun hl => hk ⟨hl ▸ hslice, hl⟩

end

/-! ### A write on its way, and at its home -/

theorem Wrote.emit (o : Out) (s : State) : Wrote [] s (s.emit o) := Wrote.quiet rfl rfl rfl rfl rfl rfl rfl rfl (GuestsFrom.refl _)

/-- A request that is no atomic leaves for another home: nothing is written here. -/
theorem Wrote.leave (r : Request) (hr : r.what.isAtomic = false) (s : State) : Wrote [] s (s.leave r) := by
  have hmod (f : Request → Request) (s : State) : Wrote [] s (s.modReq r.tag f) := Wrote.modPkg _ rfl rfl (GuestsFrom.refl _)
  unfold State.leave
  split
  · exact (hmod _ s).trans (Wrote.emit _ _)
  · split
    · exact hmod _ s
    · rw [hr, Bool.false_and, if_neg Bool.false_ne_true]
      exact (hmod _ s).trans (Wrote.emit _ _)

theorem Wrote.send (dest : Option Nat) (key : Nat × Nat) (o : Out) (who : Asker) (ho : o.isAtomic = false) (s : State) :
    Wrote [] s (s.send dest key o who) := by
  have hkeep (r : Request) : Wrote [] s (s.newTag.keepReq r) :=
    (Wrote.modPkg (s := s) _ rfl rfl (GuestsFrom.refl _)).trans (Wrote.modPkg _ rfl rfl (GuestsFrom.refl _))
  unfold State.send
  exact iteInduction (fun _ => hkeep _) fun _ => (hkeep _).trans (Wrote.leave _ ho _)

theorem Wrote.noFill (line : Loc) (s : State) : Wrote [] s (s.noFill line) := Wrote.modPkg _ rfl rfl (GuestsFrom.refl _)

theorem Wrote.afterSetBytes (who : Option (Half × Fin 2)) (bytes : List (Loc × Byte)) (s : State) :
    Wrote [] (s.setBytes bytes) (s.writeHome who bytes) :=
  Wrote.foldl (fun _ _ => (Wrote.modPkg _ rfl rfl (GuestsFrom.refl _)).trans (Wrote.dropResv _ _ _)) _ _

section
variable {s : State} {line : Nat} {bytes : List (Nat × Byte)}

/-- Of the package only the guest copies take the bytes. -/
structure GuestsOnly (s t : State) : Prop where
  core : t.core = s.core
  coreId : t.coreId = s.coreId
  dev : t.pkg.dev = s.pkg.dev
  hbm : t.pkg.hbm = s.pkg.hbm

theorem GuestsOnly.patchGuests (hone : OneLine line bytes) (s : State) : GuestsOnly s (s.patchGuests bytes) := by
  by_cases hne : bytes = []
  · subst hne
    exact ⟨rfl, rfl, rfl, rfl⟩
  · cases h : s.guestOf line with
    | none => rw [patchGuests_of_none hone h]; exact ⟨rfl, rfl, rfl, rfl⟩
    | some old => rw [patchGuests_of_some hone hne h]; exact ⟨rfl, rfl, rfl, rfl⟩

/-- Bytes of a line that is here, written at their home. -/
theorem Wrote.writeHere (hone : OneLine line bytes) (hne : bytes ≠ []) (who : Option (Half × Fin 2))
    (hhere : ∀ p ∈ bytes, s.isHbm p.1 = true ∨ p.1 ≥ cellarBase) : Wrote bytes s ((s.patchGuests bytes).writeHome who bytes) := by
  have hp := GuestsOnly.patchGuests hone s
  have hb := HomesOnly.setBytes bytes (s.patchGuests bytes)
  have hpkg := isHbm_congr (pkgId_congr hp.dev)
  have hset : Wrote bytes s ((s.patchGuests bytes).setBytes bytes) :=
    Wrote.patching hone hne (hb.core.trans hp.core) (hb.coreId.trans hp.coreId) (pkgId_congr (hb.dev.trans hp.dev))
      (fun a ha => by rw [byteAt_setBytes (fun p hp => by rw [hpkg]; exact hhere p hp) (by rwa [hpkg]), byteAt_congr hp.hbm ha]) hb.l2
  have := hset.trans (Wrote.afterSetBytes who bytes (s.patchGuests bytes))
  rwa [List.append_nil] at this

/-- Bytes of a line that is not here, on their way to it. -/
theorem Wrote.writeFar (hone : OneLine line bytes) (hne : bytes ≠ []) (hfar : s.isHbm line = false) : Wrote bytes s (s.patchGuests bytes) := by
  have hp := GuestsOnly.patchGuests hone s
  refine Wrote.patching hone hne hp.core hp.coreId (pkgId_congr hp.dev) (fun a ha => ?_) rfl
  rw [byteAt_congr hp.hbm ha, overlaid_outside]
  rintro p hp rfl
  rw [isHbm_oneLine hone p hp, hfar] at ha
  simp at ha

/-- A write of bytes of one line at their home, here or elsewhere (R264, R265). -/
theorem Wrote.sendWrite (hone : OneLine line bytes) (who : Option (Half × Fin 2)) (sc : Scope) (bad : List Loc) (s : State) :
    Wrote bytes s (s.sendWrite who sc bytes bad) := by
  cases hbytes : bytes with
  | nil => exact Wrote.refl s
  | cons p r =>
    rw [hbytes] at hone
    have hne : p :: r ≠ [] := List.cons_ne_nil p r
    have hpkg := isHbm_congr (pkgId_congr (GuestsOnly.patchGuests hone s).dev)
    unfold State.sendWrite
    dsimp only
    split
    · next hreg =>
      have hhbm : s.isHbm p.1 = true := by rw [← hpkg]; exact isHbm_of_region hreg
      have hall : ∀ q ∈ p :: r, s.isHbm q.1 = true ∨ q.1 ≥ cellarBase := fun q hq =>
        .inl (by rw [isHbm_oneLine hone q hq, ← isHbm_oneLine hone p List.mem_cons_self, hhbm])
      have := (Wrote.writeHere hone hne who hall).trans (Wrote.markPoison bad _)
      rwa [List.append_nil] at this
    · next hreg =>
      have hcellar := cellar_of_region hreg
      have hall : ∀ q ∈ p :: r, s.isHbm q.1 = true ∨ q.1 ≥ cellarBase := fun q hq => .inr (by
        have hp := hone p List.mem_cons_self
        have hq := hone q hq
        dsimp only [lineOf, Loc, cellarBase] at hp hq hcellar ⊢
        omega)
      have := (Wrote.writeHere hone hne who hall).trans (Wrote.markPoison bad _)
      rwa [List.append_nil] at this
    · next hreg _ =>
      have hfar : s.isHbm line = false := by
        rw [← isHbm_oneLine hone p List.mem_cons_self, ← hpkg]
        exact Bool.eq_false_iff.mpr fun h => hreg (region_hbm h)
      have hsent := Wrote.foldl (s := s.patchGuests (p :: r)) (l := byLine (p :: r)) (f := fun s b => match b with
        | [] => s
        | (l, _) :: _ => (s.noFill (lineOf l)).sendTo l (.write b sc (bad.contains (lineOf l))) (.store s.core.active)) (fun s b => by
          cases b with
          | nil => exact Wrote.refl s
          | cons q _ => exact (Wrote.noFill _ s).trans (Wrote.send _ _ _ _ rfl _))
      have := (Wrote.writeFar hone hne hfar).trans hsent
      rwa [List.append_nil] at this

end

/-! ## Lines of the core cache -/

/-- Whether a line of the cache is this one. -/
def CLine.isLine (h : Half) (line : Loc) (x : CLine) : Bool := x.half == h && x.line == line

theorem CLine.isLine_iff {h : Half} {line : Loc} {x : CLine} : x.isLine h line = true ↔ x.half = h ∧ x.line = line := by
  simp [CLine.isLine]

theorem findLine_eq (s : State) (h : Half) (line : Loc) : s.findLine h line = s.core.cache.find? (CLine.isLine h line) := rfl

theorem findLine_some {s : State} {h : Half} {line : Loc} {x : CLine} (hx : s.findLine h line = some x) :
    x ∈ s.core.cache ∧ x.half = h ∧ x.line = line :=
  ⟨List.mem_of_find?_eq_some hx, CLine.isLine_iff.mp (List.find?_some hx)⟩

/-- A change of some lines that leaves which they are is found in the lines. -/
theorem find?_isLine_map {f : CLine → CLine} (hf : ∀ x, (f x).half = x.half ∧ (f x).line = x.line) (h : Half) (line : Loc) (c : List CLine) :
    (c.map f).find? (CLine.isLine h line) = (c.find? (CLine.isLine h line)).map f := by
  rw [List.find?_map]
  congr 2
  funext x
  simp [CLine.isLine, hf x]

/-- Other lines are found where one has gone. -/
theorem find?_isLine_drop {h k : Half} {gone line : Loc} (hne : ¬ (k = h ∧ line = gone)) (c : List CLine) :
    (c.filter (fun x => !x.isLine h gone)).find? (CLine.isLine k line) = c.find? (CLine.isLine k line) := by
  rw [List.find?_filter]
  refine congrArg (c.find? ·) (funext fun x => ?_)
  cases hx : x.isLine k line with
  | false => simp
  | true =>
    obtain ⟨rfl, rfl⟩ := CLine.isLine_iff.mp hx
    have : x.isLine h gone = false := Bool.eq_false_iff.mpr fun e => hne (CLine.isLine_iff.mp e)
    simp [this]

theorem find?_isLine_dropped (h : Half) (gone : Loc) (c : List CLine) :
    (c.filter (fun x => !x.isLine h gone)).find? (CLine.isLine h gone) = none := by
  rw [List.find?_filter]
  simp

/-- A new line is found, and the other ones as before. -/
theorem find?_isLine_add {h k : Half} {line : Loc} {new : CLine} (c : List CLine) (hnew : new.half = h) :
    (c ++ [new]).find? (CLine.isLine k line) =
      (c.find? (CLine.isLine k line)).or (if h = k ∧ new.line = line then some new else none) := by
  rw [List.find?_append]
  congr 1
  by_cases hk : h = k ∧ new.line = line
  · rw [if_pos hk]
    simp [List.find?, CLine.isLine_iff.mpr ⟨hnew.trans hk.1, hk.2⟩]
  · rw [if_neg hk]
    have : new.isLine k line = false := Bool.eq_false_iff.mpr fun e => hk ⟨hnew ▸ (CLine.isLine_iff.mp e).1, (CLine.isLine_iff.mp e).2⟩
    simp [List.find?, this]

theorem eq_of_nodup_map {α β : Type} {f : α → β} {x y : α} : ∀ {c : List α}, (c.map f).Nodup → x ∈ c → y ∈ c → f x = f y → x = y
  | [], _, hx, _, _ => absurd hx List.not_mem_nil
  | a :: c, hn, hx, hy, hf => by
    obtain ⟨hhead, htail⟩ := List.nodup_cons.mp hn
    rcases List.mem_cons.mp hx with rfl | hxc
    · rcases List.mem_cons.mp hy with rfl | hyc
      · rfl
      · exact absurd (hf ▸ List.mem_map_of_mem hyc) hhead
    · rcases List.mem_cons.mp hy with rfl | hyc
      · exact absurd (hf ▸ List.mem_map_of_mem hxc) hhead
      · exact eq_of_nodup_map htail hxc hyc hf

/-- With no line twice, each one is the one that is found. -/
theorem findLine_of_mem {s : State} (hn : (s.core.cache.map (fun x => (x.half, x.line))).Nodup) {x : CLine} (hx : x ∈ s.core.cache) :
    s.findLine x.half x.line = some x := by
  obtain ⟨y, hy⟩ := Option.isSome_iff_exists.mp
    (List.find?_isSome (p := CLine.isLine x.half x.line) |>.mpr ⟨x, hx, CLine.isLine_iff.mpr ⟨rfl, rfl⟩⟩)
  obtain ⟨hmem, hh, hl⟩ := findLine_some (s := s) hy
  rw [findLine_eq, hy, eq_of_nodup_map hn hmem hx (Prod.ext hh hl)]

/-! ## A core's read of one byte at core scope -/

/-- What the core finds of a byte of this package's HBM: in its cache, else at the home. -/
def State.view (s : State) (m : Nat) : List Byte :=
  match s.findLine s.cacheHalf (lineOf m) with
  | some x => (x.bytes.drop (m - x.line)).take 1
  | none => [s.byteAt m]

theorem view_of_some {s : State} {m : Nat} {x : CLine} (h : s.findLine s.cacheHalf (lineOf m) = some x) :
    s.view m = (x.bytes.drop (m - x.line)).take 1 := by rw [State.view, h]
theorem view_of_none {s : State} {m : Nat} (h : s.findLine s.cacheHalf (lineOf m) = none) : s.view m = [s.byteAt m] := by rw [State.view, h]

theorem drop_take_bytesAt (s : State) {line l n : Nat} (hl : line ≤ l) (hn : l + n ≤ line + 64) :
    ((s.bytesAt line 64).drop (l - line)).take n = s.bytesAt l n := by
  refine List.ext_getElem (by simp [State.bytesAt]; omega) fun i h1 h2 => ?_
  have : line + (l - line + i) = l + i := by omega
  simp [State.bytesAt, this]

/-- Beyond the core cache a read of HBM finds the home's bytes. -/
theorem source_hbm {s : State} (hg : s.GuestsCoherent) {l n : Nat} (hn : l % 64 + n ≤ 64) (hhbm : s.isHbm l = true) :
    (s.source l n).map Prod.fst = some (s.bytesAt l n) := by
  unfold State.source
  split
  · next g h =>
    have hle := lineOf_le l
    have hsub := sub_lineOf l
    rw [hg.guestOf (lineOf_mod l) (by rwa [isHbm_lineOf]) h]
    exact congrArg some (drop_take_bytesAt s hle (by dsimp only [Loc] at *; omega))
  · rw [if_pos (by rw [hhbm, Bool.or_true])]
    rfl

theorem heldOver_of_none {s : State} (h : s.ctx.seg = none) (l : Loc) (bs : List Byte) : s.heldOver l bs = bs := by
  simp only [State.heldOver, h]

/-- A read of a byte at core scope finds the core's view of it. -/
theorem peek_core_one {s : State} (hseg : s.ctx.seg = none) (hg : s.GuestsCoherent) {m : Nat} (hhbm : s.isHbm m = true) :
    (s.peek .core m 1).map Got.bytes = some (s.view m) := by
  have hsrc := source_hbm hg (n := 1) (by have := Nat.mod_lt m (show 0 < 64 by decide); omega) hhbm
  unfold State.peek
  cases hx : s.findLine s.cacheHalf (lineOf m) with
  | some x => simp [view_of_some hx, heldOver_of_none hseg]
  | none =>
    rw [view_of_none hx]
    obtain ⟨⟨bs, bad⟩, hs, hbs⟩ := Option.map_eq_some_iff.mp hsrc
    simp only [hs, Option.map_some, heldOver_of_none hseg]
    exact congrArg some hbs

/-! ## Changes of the core cache alone -/

/-- A change of the core cache's lines. -/
def State.onCache (f : List CLine → List CLine) (s : State) : State := s.modCore (fun c => { c with cache := f c.cache })

@[simp] theorem State.onCache_cacheHalf (f : List CLine → List CLine) (s : State) : (s.onCache f).cacheHalf = s.cacheHalf := rfl
theorem State.onCache_findLine (f : List CLine → List CLine) (s : State) (h : Half) (l : Loc) :
    (s.onCache f).findLine h l = (f s.core.cache).find? (CLine.isLine h l) := rfl

/-- A line of the cache changes. -/
def onLine (h : Half) (line : Loc) (f : CLine → CLine) (x : CLine) : CLine := if x.isLine h line then f x else x

theorem modLine_eq (h : Half) (line : Loc) (f : CLine → CLine) (s : State) : s.modLine h line f = s.onCache (List.map (onLine h line f)) := rfl
theorem dropLine_eq (h : Half) (line : Loc) (s : State) : s.dropLine h line = s.onCache (List.filter (fun x => !x.isLine h line)) := rfl

theorem onLine_key {h : Half} {line : Loc} {f : CLine → CLine} (hf : ∀ x, (f x).half = x.half ∧ (f x).line = x.line) (x : CLine) :
    (onLine h line f x).half = x.half ∧ (onLine h line f x).line = x.line := by
  unfold onLine
  split
  · exact hf x
  · exact ⟨rfl, rfl⟩

/-! ### Bytes put into a line -/

/-- A line with bytes put over it, which are dirty where the core cache keeps them and clean where they go to their home (R265). -/
def CLine.put (line : Loc) (dirty : Bool) (bytes : List (Loc × Byte)) (x : CLine) : CLine :=
  { x with bytes := patched line x.bytes bytes,
           dirty := bytes.foldl (fun d q => if dirty then d ||| BitVec.ofNat 64 (2 ^ (q.1 - line))
             else d &&& ~~~(BitVec.ofNat 64 (2 ^ (q.1 - line)))) x.dirty }

theorem CLine.put_key (line : Loc) (dirty : Bool) (bytes : List (Loc × Byte)) (x : CLine) :
    (x.put line dirty bytes).half = x.half ∧ (x.put line dirty bytes).line = x.line := ⟨rfl, rfl⟩

theorem findLine_put (h k : Half) (line l : Loc) (dirty : Bool) (bytes : List (Loc × Byte)) (s : State) :
    (s.modLine h line (CLine.put line dirty bytes)).findLine k l = (s.findLine k l).map (onLine h line (CLine.put line dirty bytes)) :=
  find?_isLine_map (onLine_key (CLine.put_key line dirty bytes)) k l _

section
variable {s : State} {line : Nat} {dirty : Bool} {bytes : List (Nat × Byte)}

/-- The line itself takes the bytes. -/
theorem findLine_put_same {h : Half} {x : CLine} (hx : s.findLine h line = some x) :
    (s.modLine h line (CLine.put line dirty bytes)).findLine h line = some (x.put line dirty bytes) := by
  obtain ⟨-, hh, hl⟩ := findLine_some hx
  rw [findLine_put, hx, Option.map_some, onLine, if_pos (CLine.isLine_iff.mpr ⟨hh, hl⟩)]

/-- Outside those bytes the core's view stays. -/
theorem view_put {m : Nat} (hm : ∀ p ∈ bytes, p.1 ≠ m) : (s.modLine s.cacheHalf line (CLine.put line dirty bytes)).view m = s.view m := by
  have hfind := findLine_put s.cacheHalf s.cacheHalf line (lineOf m) dirty bytes s
  cases hx : s.findLine s.cacheHalf (lineOf m) with
  | none =>
    rw [hx] at hfind
    rw [view_of_none hx, view_of_none (by exact hfind)]
    rfl
  | some x =>
    rw [hx, Option.map_some] at hfind
    rw [view_of_some hx, view_of_some (by exact hfind), (onLine_key (CLine.put_key line dirty bytes) x).2]
    unfold onLine
    split
    · next hl =>
      have hline : x.line = line := (CLine.isLine_iff.mp hl).2
      have hle : line ≤ m := by
        rw [← hline, (findLine_some hx).2.2]
        exact lineOf_le m
      rw [hline]
      exact drop_take_one_patched hle hm
    · rfl

end

/-- Outside the bytes written to their homes the core's view stays. -/
theorem Wrote.view {s t : State} {bytes : List (Nat × Byte)} (h : Wrote bytes s t) {m : Nat} (hhbm : s.isHbm m = true)
    (hm : ∀ p ∈ bytes, p.1 ≠ m) : t.view m = s.view m := by
  have hfind : t.findLine t.cacheHalf (lineOf m) = s.findLine s.cacheHalf (lineOf m) := by rw [h.findLine, h.cacheHalf]
  cases hx : s.findLine s.cacheHalf (lineOf m) with
  | none => rw [view_of_none hx, view_of_none (by rw [hfind, hx]), h.home m hhbm, overlaid_outside hm]
  | some x => rw [view_of_some hx, view_of_some (by rw [hfind, hx])]

/-! ## A line fetched into the cache -/

/-- The lines of the core cache are lines: aligned, of 64 bytes, and none twice. -/
structure State.LinesFormed (s : State) : Prop where
  shape : ∀ x ∈ s.core.cache, x.line % 64 = 0 ∧ x.bytes.length = 64
  nodup : (s.core.cache.map (fun x => (x.half, x.line))).Nodup

/-- Where the core cache holds a line, it differs from the home only in bytes that it holds dirty. -/
def State.CleanAsHome (s : State) (line : Nat) : Prop :=
  ∀ x ∈ s.core.cache, x.half = s.cacheHalf → x.line = line → ∀ i < 64, x.dirty.getLsbD i = false → x.bytes.getD i 0 = s.byteAt (x.line + i)

/-- What the fill of a line of this package leaves: the line is there, and the core's view of HBM is what it was. -/
structure Filled (line : Nat) (s t : State) : Prop where
  seg : t.ctx.seg = s.ctx.seg
  half : t.cacheHalf = s.cacheHalf
  isHbm : ∀ a, t.isHbm a = s.isHbm a
  guests : t.GuestsCoherent
  here : ∃ y, t.findLine s.cacheHalf line = some y ∧ y.bytes.length = 64
  view : ∀ m, s.isHbm m = true → s.CleanAsHome (lineOf m) → t.view m = s.view m

section
variable {s : State} {line : Nat} {new : CLine}

/-- A line added with the home's bytes gives the view that the home gave. -/
theorem view_added (hnew : new.half = s.cacheHalf ∧ new.line = line ∧ new.bytes = s.bytesAt line 64) (m : Nat) :
    (s.onCache (· ++ [new])).view m = s.view m := by
  obtain ⟨hhalf, hl, hbytes⟩ := hnew
  have hfind : (s.onCache (· ++ [new])).findLine s.cacheHalf (lineOf m) =
      (s.findLine s.cacheHalf (lineOf m)).or (if s.cacheHalf = s.cacheHalf ∧ new.line = lineOf m then some new else none) :=
    find?_isLine_add _ hhalf
  cases hx : s.findLine s.cacheHalf (lineOf m) with
  | some x =>
    rw [hx, Option.some_or] at hfind
    rw [view_of_some hx, view_of_some (by exact hfind)]
  | none =>
    rw [hx, Option.none_or] at hfind
    by_cases hm : new.line = lineOf m
    · rw [if_pos ⟨rfl, hm⟩] at hfind
      have hle := lineOf_le m
      have hlt := lt_lineOf_add m
      rw [view_of_some (by exact hfind), view_of_none hx, hbytes, hl, drop_take_bytesAt]
      · rfl
      · rw [← hl, hm]; exact hle
      · rw [← hl, hm]; exact hlt
    · rw [if_neg (fun h => hm h.2)] at hfind
      rw [view_of_none hx, view_of_none (by exact hfind)]
      rfl

/-- The line that is added is found. -/
theorem findLine_added (hhalf : new.half = s.cacheHalf) (hmiss : s.findLine s.cacheHalf new.line = none) :
    (s.onCache (· ++ [new])).findLine s.cacheHalf new.line = some new := by
  rw [State.onCache_findLine, find?_isLine_add _ hhalf, ← findLine_eq, hmiss, if_pos ⟨rfl, rfl⟩, Option.none_or]

/-- A change of a line that goes leaves nothing. -/
theorem dropLine_modLine (h : Half) (line : Loc) (f : CLine → CLine) (hf : ∀ x, (f x).half = x.half ∧ (f x).line = x.line) (s : State) :
    (s.modLine h line f).dropLine h line = s.dropLine h line := by
  have key : ∀ c : List CLine, (c.map (onLine h line f)).filter (fun x => !x.isLine h line) = c.filter (fun x => !x.isLine h line) := by
    intro c
    induction c with
    | nil => rfl
    | cons x r ih =>
      have hx : (onLine h line f x).isLine h line = x.isLine h line := by simp [CLine.isLine, onLine_key hf x]
      rw [List.map_cons, List.filter_cons, List.filter_cons, hx, ih]
      cases hl : x.isLine h line with
      | true => rfl
      | false => simp [onLine, hl]
  rw [modLine_eq, dropLine_eq, dropLine_eq]
  simp only [State.onCache, State.modCore, key]

/-- A line of the core's cache that is written back and given up leaves the core's view: what the cache held is at the home (R244, R265). -/
theorem view_evicted (hform : s.LinesFormed) {x : CLine} (hx : x ∈ s.core.cache) (hhalf : x.half = s.cacheHalf) {t : State}
    (ht : Wrote x.dirtyBytes s t) {m : Nat} (hhbm : s.isHbm m = true) (hclean : s.CleanAsHome (lineOf m)) :
    (t.dropLine s.cacheHalf x.line).view m = s.view m := by
  obtain ⟨hline, hlen⟩ := hform.shape x hx
  have hcache : t.dropLine s.cacheHalf x.line = t.onCache (List.filter (fun y => !y.isLine s.cacheHalf x.line)) := rfl
  by_cases hm : lineOf m = x.line
  · have hgone : (t.dropLine s.cacheHalf x.line).findLine t.cacheHalf (lineOf m) = none := by
      rw [hm, ht.cacheHalf]
      exact find?_isLine_dropped _ _ _
    have hfound : s.findLine s.cacheHalf (lineOf m) = some x := by
      rw [hm, ← hhalf]
      exact findLine_of_mem hform.nodup hx
    have hle := lineOf_le m
    have hlt := lt_lineOf_add m
    rw [hm] at hle hlt
    obtain ⟨i, rfl⟩ := Nat.exists_eq_add_of_le hle
    have hi : i < 64 := Nat.lt_of_add_lt_add_left hlt
    have hib : i < x.bytes.length := hlen ▸ hi
    have htake : (x.bytes.drop i).take 1 = [x.bytes[i]] := by
      rw [List.drop_eq_getElem_cons hib, List.take_succ_cons, List.take_zero]
    rw [view_of_none (by exact hgone), view_of_some hfound, Nat.add_sub_cancel_left, htake]
    show [t.byteAt (x.line + i)] = _
    rw [ht.home _ hhbm, overlaid_dirtyBytes hib (hclean x hx hhalf hm.symm i hi)]
  · have hkept : (t.dropLine s.cacheHalf x.line).findLine t.cacheHalf (lineOf m) = s.findLine s.cacheHalf (lineOf m) := by
      rw [← ht.findLine, ht.cacheHalf]
      exact find?_isLine_drop (fun h => hm h.2) _
    cases hf : s.findLine s.cacheHalf (lineOf m) with
    | some y => rw [view_of_some hf, view_of_some (by exact hkept.trans hf)]
    | none =>
      rw [view_of_none hf, view_of_none (by exact hkept.trans hf)]
      show [t.byteAt m] = _
      rw [ht.home m hhbm, overlaid_outside fun p hp e => hm ?_]
      rw [← e]
      exact dirtyBytes_oneLine hline hlen p hp

end

section
variable {s : State} {line : Nat}

/-- A line added to a state that has lost nothing of the core's view is a fill. -/
theorem Filled.of_added (hline : line % 64 = 0) (hhbm : s.isHbm line = true) {bytes : List (Nat × Byte)} {t w : State}
    (ht : Wrote bytes s t) (hbytes : ∀ p ∈ bytes, lineOf p.1 ≠ line) (hg : s.GuestsCoherent) (gone : List CLine → List CLine)
    (hw : w = t.onCache gone) (hmiss : w.findLine s.cacheHalf line = none)
    (hview : ∀ m, s.isHbm m = true → s.CleanAsHome (lineOf m) → w.view m = s.view m) (way : Fin 64) (bad : Bool) :
    Filled line s (w.onCache (· ++ [{ half := s.cacheHalf, way := way, line := line, bytes := s.bytesAt line 64, dirty := 0, bad := bad }])) := by
  subst hw
  have hhome : s.bytesAt line 64 = t.bytesAt line 64 := by
    refine (bytesAt_congr fun i hi => ?_).symm
    rw [ht.home _ (isHbm_add hhbm hline hi), overlaid_outside]
    rintro p hp e
    exact hbytes p hp (by rw [e, lineOf_add hline hi])
  have hhalf : (t.onCache gone).cacheHalf = s.cacheHalf := ht.cacheHalf
  rw [hhome, ← hhalf]
  refine ⟨ht.seg, hhalf, ht.isHbm, ht.guests hg, ?_, fun m hm hc => ?_⟩
  · rw [← hhalf] at hmiss ⊢
    exact ⟨_, findLine_added rfl hmiss, by simp [State.bytesAt]⟩
  · rw [view_added ⟨rfl, rfl, rfl⟩, hview m hm hc]

/-- A fill of a line of this package from its home, with a way for it (R244). -/
theorem Filled.fillWith (hform : s.LinesFormed) (hg : s.GuestsCoherent) (hline : line % 64 = 0) (hhbm : s.isHbm line = true)
    (hways : s.cacheWays s.cacheHalf ≠ []) (hint : Fin 4) (bad : Bool) :
    Filled line s (s.fillWith s.cacheHalf line hint (s.bytesAt line 64) bad) := by
  have hreq := Wrote.l2Req line hint s
  unfold State.fillWith
  cases hfound : s.findLine s.cacheHalf line with
  | some y =>
    rw [Option.isSome_some, if_pos rfl]
    exact ⟨rfl, rfl, fun _ => rfl, hg, ⟨y, hfound, (hform.shape y (findLine_some hfound).1).2⟩, fun _ _ _ => rfl⟩
  | none =>
    rw [Option.isSome_none, if_neg Bool.false_ne_true]
    dsimp only
    split
    · -- a way is free
      exact Filled.of_added hline hhbm hreq (by simp) hg id rfl (by rw [← hfound, ← hreq.findLine]; rfl)
        (fun m hm _ => hreq.view hm (by simp)) _ _
    · next hfree =>
      split
      · -- a line gives up its way
        next x hx =>
        have hmem := List.mem_of_getElem? hx
        have hcache : x ∈ s.core.cache := (List.mem_filter.mp hmem).1
        have hhalf : x.half = s.cacheHalf := by
          have := (List.mem_filter.mp hmem).2
          simp only [Bool.and_eq_true, beq_iff_eq] at this
          exact this.1
        obtain ⟨hxline, hxlen⟩ := hform.shape x hcache
        have hone := dirtyBytes_oneLine hxline hxlen
        have hne : x.line ≠ line := by
          intro e
          rw [← hhalf, ← e, findLine_of_mem hform.nodup hcache] at hfound
          simp at hfound
        have hwrote := (hreq.trans (Wrote.drawn _)).trans
          (Wrote.sendWrite hone (s.l2Req line hint).drawn.me .package (if x.bad && x.dirty != BitVec.allOnes 64 then [x.line] else []) _)
        rw [List.append_nil, List.nil_append] at hwrote
        have hdrop : ((s.l2Req line hint).drawn.writeBack x).dropLine s.cacheHalf x.line =
            ((s.l2Req line hint).drawn.sendWrite (s.l2Req line hint).drawn.me .package x.dirtyBytes
              (if x.bad && x.dirty != BitVec.allOnes 64 then [x.line] else [])).dropLine s.cacheHalf x.line := by
          rw [State.writeBack, hhalf]
          exact dropLine_modLine _ _ _ (by intro y; exact ⟨rfl, rfl⟩) _
        refine Filled.of_added hline hhbm hwrote (fun p hp e => hne (by rw [← hone p hp, e])) hg
          (List.filter (fun y => !y.isLine s.cacheHalf x.line)) (by rw [hdrop]; rfl) ?_ (fun m hm hc => ?_) _ _
        · rw [hdrop, dropLine_eq, State.onCache_findLine, find?_isLine_drop (fun h => hne h.2.symm), ← findLine_eq, hwrote.findLine, hfound]
        · rw [hdrop]
          exact view_evicted hform hcache hhalf hwrote hm hc
      · -- with no line in the set every way is free
        next hnone =>
        obtain ⟨w, hw⟩ := List.exists_mem_of_ne_nil _ hways
        have hempty : ∀ here : List CLine, here[Config.victim (s.l2Req line hint).fresh % here.length]? = none → here = [] := by
          intro here hh
          refine Decidable.byContradiction fun hne => ?_
          have := List.getElem?_eq_none_iff.mp hh
          have := Nat.mod_lt (Config.victim (s.l2Req line hint).fresh) (List.length_pos_iff.mpr hne)
          omega
        have := List.find?_eq_none.mp hfree w hw
        rw [hempty _ hnone] at this
        simp at this

/-- The line is fetched from where it comes from: a guest copy or its home. -/
theorem Filled.fillLine (hform : s.LinesFormed) (hg : s.GuestsCoherent) (hline : line % 64 = 0) (hhbm : s.isHbm line = true)
    (hways : s.cacheWays s.cacheHalf ≠ []) (hint : Fin 4) : Filled line s (s.fillLine line hint) := by
  obtain ⟨⟨bytes, bad⟩, hsrc, hbytes⟩ := Option.map_eq_some_iff.mp (source_hbm hg (l := line) (n := 64) (by omega) hhbm)
  have hbytes : bytes = s.bytesAt line 64 := hbytes
  unfold State.fillLine
  rw [hsrc, hbytes]
  exact Filled.fillWith hform hg hline hhbm hways hint bad

end

/-! ## Stores (R265, R268) -/

section
variable {s : State} {l : Nat} {bs : List Byte}

/-- What a store of bytes within one line of HBM leaves: a read at its scope finds them, and the core's view of every other byte is what
it was. -/
structure Stored (l : Nat) (bs : List Byte) (sc : Scope) (s t : State) : Prop where
  seg : t.ctx.seg = s.ctx.seg
  isHbm : ∀ a, t.isHbm a = s.isHbm a
  guests : t.GuestsCoherent
  reads : (t.peek sc l bs.length).map Got.bytes = some bs
  view : ∀ m, m < l ∨ l + bs.length ≤ m → s.isHbm m = true → s.CleanAsHome (lineOf m) → t.view m = s.view m

theorem placed_outside {m : Nat} (h : m < l ∨ l + bs.length ≤ m) : ∀ p ∈ placed l bs, p.1 ≠ m := by
  intro p hp
  obtain ⟨i, hi, rfl⟩ := mem_placed.mp hp
  show l + i ≠ m
  omega

/-- The bytes stand in the line they were put over. -/
theorem take_put {x : CLine} (hn : l % 64 + bs.length ≤ 64) (hl : x.line = lineOf l) (hlen : x.bytes.length = 64) (dirty : Bool) :
    (((x.put (lineOf l) dirty (placed l bs)).bytes.drop (l - x.line)).take bs.length) = bs := by
  have hle := lineOf_le l
  have hsub := sub_lineOf l
  rw [hl]
  exact drop_take_patched hle (by rw [hlen]; dsimp only [Loc] at *; omega)

/-- A read at core scope of a line that the cache holds. -/
theorem peek_core_found {t : State} (hseg : t.ctx.seg = none) {x : CLine} (hx : t.findLine t.cacheHalf (lineOf l) = some x) (n : Nat) :
    (t.peek .core l n).map Got.bytes = some ((x.bytes.drop (l - x.line)).take n) := by
  simp [State.peek, hx, heldOver_of_none hseg]

/-- Where cache and home hold the same bytes, a read at every scope finds them. -/
theorem peek_agrees {t : State} (hseg : t.ctx.seg = none) (hg : t.GuestsCoherent) (hn : l % 64 + bs.length ≤ 64) (hhbm : t.isHbm l = true)
    (hhome : t.bytesAt l bs.length = bs)
    (hcache : ∀ x, t.findLine t.cacheHalf (lineOf l) = some x → (x.bytes.drop (l - x.line)).take bs.length = bs)
    (sc : Scope) : (t.peek sc l bs.length).map Got.bytes = some bs := by
  obtain ⟨⟨src, bad⟩, hsrc, hbytes⟩ := Option.map_eq_some_iff.mp (source_hbm hg hn hhbm)
  have hbytes : src = bs := hbytes.trans hhome
  subst hbytes
  unfold State.peek
  cases hx : t.findLine t.cacheHalf (lineOf l) with
  | none => simp [hsrc, heldOver_of_none hseg]
  | some x =>
    simp only [hsrc, hcache x hx, heldOver_of_none hseg, Option.map_some]
    split
    · rfl
    · -- whichever of the two a byte is taken from, it is the same
      refine congrArg some (List.ext_getElem (by simp) fun i h1 h2 => ?_)
      simp

/-- A store that the core cache takes. -/
theorem Stored.inCache (hseg : s.ctx.seg = none) (hform : s.LinesFormed) (hg : s.GuestsCoherent) (hn : l % 64 + bs.length ≤ 64)
    (hhbm : s.isHbm l = true) (hways : s.cacheWays s.cacheHalf ≠ []) (hint : Fin 4) :
    Stored l bs .core s ((s.fillLine (lineOf l) hint).modLine s.cacheHalf (lineOf l) (CLine.put (lineOf l) true (placed l bs))) := by
  have hfill := Filled.fillLine hform hg (lineOf_mod l) (by rwa [isHbm_lineOf]) hways hint
  obtain ⟨y, hy, hlen⟩ := hfill.here
  have hput := findLine_put_same (dirty := true) (bytes := placed l bs) hy
  refine ⟨hfill.seg, hfill.isHbm, hfill.guests, ?_, fun m hm hmh hc => ?_⟩
  · rw [peek_core_found (by exact hfill.seg.trans hseg) (x := y.put (lineOf l) true (placed l bs))]
    · exact congrArg some (take_put hn (findLine_some hy).2.2 hlen true)
    · rw [modLine_eq, State.onCache_cacheHalf, hfill.half, ← modLine_eq, hput]
  · rw [← hfill.view m hmh hc, ← hfill.half]
    exact view_put (placed_outside hm)

/-- The bytes written to a line's home stand there. -/
theorem Wrote.bytesAt_placed {t : State} (h : Wrote (placed l bs) s t) (hn : l % 64 + bs.length ≤ 64) (hhbm : s.isHbm l = true) :
    t.bytesAt l bs.length = bs := by
  refine List.ext_getElem (by simp [State.bytesAt]) fun i h1 h2 => ?_
  have hh : s.isHbm (l + i) = true := by rw [← isHbm_lineOf, lineOf_add_within hn h2, isHbm_lineOf, hhbm]
  simp [State.bytesAt, h.home _ hh, overlaid_placed l bs _ i h2]

/-- A store that goes through to the home. -/
theorem Stored.through (hseg : s.ctx.seg = none) (hform : s.LinesFormed) (hg : s.GuestsCoherent) (hn : l % 64 + bs.length ≤ 64)
    (hhbm : s.isHbm l = true) (sc : Scope) (hint : Fin 4) :
    Stored l bs sc s (((s.l2Req (lineOf l) hint).sendWrite s.me sc (placed l bs)).modLine s.cacheHalf (lineOf l)
      (CLine.put (lineOf l) false (placed l bs))) := by
  have hwrote : Wrote (placed l bs) s ((s.l2Req (lineOf l) hint).sendWrite s.me sc (placed l bs)) :=
    (Wrote.l2Req (lineOf l) hint s).trans (Wrote.sendWrite (placed_oneLine hn) _ _ _ _)
  have hfind := fun k => findLine_put s.cacheHalf k (lineOf l) (lineOf l) false (placed l bs)
    ((s.l2Req (lineOf l) hint).sendWrite s.me sc (placed l bs))
  refine ⟨hwrote.seg, hwrote.isHbm, hwrote.guests hg, ?_, fun m hm hmh _ => ?_⟩
  · apply peek_agrees (by exact hwrote.seg.trans hseg) (by exact hwrote.guests hg) hn (by exact (hwrote.isHbm l).trans hhbm) ?_ (fun x hx => ?_) sc
    · exact hwrote.bytesAt_placed hn hhbm
    · rw [modLine_eq, State.onCache_cacheHalf, hwrote.cacheHalf, ← modLine_eq, hfind, hwrote.findLine] at hx
      obtain ⟨y, hy, rfl⟩ := Option.map_eq_some_iff.mp hx
      obtain ⟨hmem, hh, hl⟩ := findLine_some hy
      rw [onLine, if_pos (CLine.isLine_iff.mpr ⟨hh, hl⟩)]
      exact take_put hn hl (hform.shape y hmem).2 false
  · rw [← hwrote.view hmh (placed_outside hm), ← hwrote.cacheHalf]
    exact view_put (placed_outside hm)

/-- A plain write of bytes of one line of HBM. -/
theorem Stored.storeLine (hseg : s.ctx.seg = none) (hform : s.LinesFormed) (hg : s.GuestsCoherent) (hn : l % 64 + bs.length ≤ 64)
    (hpos : 0 < bs.length) (hhbm : s.isHbm l = true) (sc : Scope) (hint : Fin 4) : Stored l bs sc s (s.storeLine sc hint (placed l bs)) := by
  have hthrough := Stored.through hseg hform hg hn hhbm sc hint
  obtain ⟨b, r, rfl⟩ := List.exists_cons_of_length_pos hpos
  unfold State.storeLine
  simp only [placed]
  split
  · next hcaches =>
    simp only [State.caches, Bool.and_eq_true, beq_iff_eq, bne_iff_ne] at hcaches
    obtain ⟨rfl, hways⟩ := hcaches
    rw [region_hbm hhbm]
    exact Stored.inCache hseg hform hg hn hhbm hways hint
  · exact hthrough

/-- A store outside a segment, to HBM and to no page of replicas. -/
theorem Stored.store (hseg : s.ctx.seg = none) (hform : s.LinesFormed) (hg : s.GuestsCoherent) (hn : l % 64 + bs.length ≤ 64)
    (hpos : 0 < bs.length) (hhbm : s.isHbm l = true) (sc : Scope) (hint : Fin 4) :
    Stored l bs sc s (s.store { bytes := placed l bs, scope := sc, hint := hint, repl := false }) := by
  have hline := Stored.storeLine hseg hform hg hn hpos hhbm sc hint
  have hgroups := byLine_oneLine (placed_oneLine hn) (placed_ne_nil hpos)
  obtain ⟨b, r, rfl⟩ := List.exists_cons_of_length_pos hpos
  simp only [State.store, hseg, State.storeNow, hgroups]
  simp only [placed, region_hbm hhbm] at hline ⊢
  simpa using hline

end

/-! ## The issue of a scalar store (R10, R265) -/

theorem storeSource_congr {c d : Ctx} (hx : c.x = d.x) (hf : c.f = d.f) (w : StoreOp) (b : Reg) : storeSource w c b = storeSource w d b := by
  cases w <;> simp only [storeSource, hx, hf]

theorem State.loneEnv_scope {s : State} {sl : Slot} (h : s.alone sl = true) : s.loneEnv.scope = s.scopeNow := by
  obtain ⟨-, hhdr, -⟩ := State.alone_env h
  rw [Env.scope, hhdr, State.scopeNow]

/-- A scalar store whose access raises nothing performs its bytes. -/
theorem execScalarStore_issues {s : State} (h : s.alone .s = true) (w : StoreOp) (a b : Reg) (i : BitVec 12) (hservice : s.sq.man.service = none)
    (hi : s.unhindered (.x a :: storeReads w b) = true) {va : DWord} (hva : va = s.ctx.x a + i.signExtend 64) {x : Access}
    (hx : x = s.seen.access va (StoreOp.bytes w) .write false) (hr : x.raises = []) :
    exec (.scalarStore w a b i) s = .next ((s.past.tlbFill va x.trans).store
      { bytes := placed x.loc (leBytes (StoreOp.bytes w) (storeSource w s.ctx b).toNat), scope := s.scopeNow,
        hint := attrHint x.trans.attr, repl := attrRepl x.trans.attr }) := by
  have hbytes : storeSource w s.seen.ctx b = storeSource w s.ctx b := storeSource_congr s.seen_x s.seen_f w b
  refine (issueWord_commits (p := { raises := x.raises, reads := xs [a] ++ storeReads w b, mem := true, effs := [(.smem,
    State.storeScalar s.loneEnv.scope va x (leBytes (StoreOp.bytes w) (storeSource w s.ctx b).toNat))] }) h ?_
    ⟨hr, rfl, rfl, rfl, rfl, rfl, rfl, rfl, nofun, fun _ => hservice, nofun⟩ rfl rfl rfl ?_).trans ?_
  · simp only [State.onePlan, State.seen_x, hbytes, hva, hx]
  · refine State.unhindered_sub hi fun r hr => ?_
    simp only [List.map_nil, List.append_nil, List.mem_append] at hr
    exact List.mem_cons.mpr (hr.imp (fun hr => by simpa using mem_xs hr) id)
  · rw [commitEffects_one _ _ .smem _ rfl, State.loneEnv_scope h]
    rfl

/-- An aligned access of 1, 2, 4 or 8 bytes lies in one line. -/
theorem aligned_in_line {l n : Nat} (hl : l % n = 0) (hn : n = 1 ∨ n = 2 ∨ n = 4 ∨ n = 8) : l % 64 + n ≤ 64 := by
  rcases hn with rfl | rfl | rfl | rfl <;> omega

end Sys2Proof.Machine

namespace Sys2Proof.Proofs
open Machine

/-- Settles O17: the word issues as a plan with its store; a store of bytes of one line leaves the core's view of HBM, but for those
bytes, also where a line is written back and given up for the one that is fetched. -/
theorem scalarStoreResult : Obligations.ScalarStoreResult := by
  unfold Obligations.ScalarStoreResult
  refine ⟨fun s w a b i h hservice hi => execScalarStore_issues h w a b i hservice hi rfl rfl,
    fun s l n v sc hint hseg hpos hl hn hhbm _ hshape hnodup hguests => ?_⟩
  have hg : s.GuestsCoherent := fun x hx g hxg _ _ hline => (hguests x hx g hxg hline).2
  have hlen := length_leBytes n v
  have hst := Stored.store (bs := leBytes n v) hseg ⟨hshape, hnodup⟩ hg (by rw [hlen]; exact aligned_in_line hl hn) (by rwa [hlen]) hhbm sc hint
  obtain ⟨hseg', hhbm', hg', hreads, hview⟩ := hst
  rw [hlen] at hreads hview
  refine ⟨hreads, fun m hm hmh _ hclean => ?_⟩
  rw [peek_core_one (hseg'.trans hseg) hg' ((hhbm' m).trans hmh), peek_core_one hseg hg hmh, hview m hm hmh hclean]

end Sys2Proof.Proofs

namespace Sys2Proof.Machine

/-! ## Two guest copies of one line -/

/-- A guest copy in slice 0, set 0, of line 2^37, which is homed on die 1. -/
def guestCopy (way : Fin 16) (b : Byte) : L2Line :=
  { slice := 0, way := way, line := 2 ^ 37, hint := 0, age := 0, guest := some (List.replicate 64 b) }

/-- A supervisor context of die 0 about to store at address 0, in line 0 of HBM, with a cold core cache. Slice 0 reserves ways 1 to 15 (R250), so
that the request for line 0 takes way 0 of set 0. A guest copy with the home's zeros stands there; in way 1 stands a second copy of the same
line, of other bytes. -/
def twoCopies : State :=
  ((State.reset.modCtx (fun c => { c with
      status := .running, tlb := [{ asid := 0, vbase := 0, size := 0, frame := 0, attr := 3 }] })).modCore (fun k => { k with
      cur := { Cur.reset with slots := [(.s, encode (.scalarStore .sd 0 0 0), .scalarStore .sd 0 0 0)] } })).modPkg (fun p => { p with
      l2 := [guestCopy 0 0, guestCopy 1 1], dev := [(devCluster 0 0, dw (2 ^ 63 + 15 * 2 ^ 56 + 2 ^ 52))] })

/-- The store's fill takes the first copy's way, and a read that found the home's byte finds the second copy's. -/
theorem twoCopies_store : ∃ t, exec (.scalarStore .sd 0 0 0) twoCopies = .next t ∧
    (twoCopies.peek .core (2 ^ 37) 1).map Got.bytes = some [0] ∧ (t.peek .core (2 ^ 37) 1).map Got.bytes = some [1] :=
  ⟨_, execScalarStore_issues (by decide +kernel) .sd 0 0 0 rfl (by decide +kernel) rfl rfl (by decide +kernel),
    by decide +kernel, by decide +kernel⟩

end Sys2Proof.Machine

namespace Sys2Proof.Proofs
open Machine

/-- Refutes O58: its premise on guest copies speaks of the copy that a read finds first. In `twoCopies` a second, stale copy of the same
line stands behind it, the store's request for its own line evicts the first, and the read of the other line changes. -/
theorem not_storingWordsFrame : ¬ Obligations.StoringWordsFrame := by
  unfold Obligations.StoringWordsFrame
  rintro ⟨hscalar, -⟩
  obtain ⟨t, hexec, hbefore, hafter⟩ := twoCopies_store
  obtain ⟨-, -, -, -, hframe⟩ := hscalar twoCopies t .sd 0 0 0 (by decide +kernel) (by decide +kernel) hexec
  have hsame := hframe (by decide +kernel) (by decide +kernel) (2 ^ 37) (.inr (by decide +kernel)) (by decide +kernel) (by decide +kernel)
    (by decide +kernel) (by decide +kernel)
  rw [hbefore, hafter] at hsame
  exact absurd hsame (by decide)

end Sys2Proof.Proofs

end
